-- ==== Sys2Proof/Word.lean ====
section
/-! DEFINITION. The words of the Q6: bytes, 16-bit halves, 32-bit registers, 64-bit pairs and lane sets (R5, R48). -/

namespace Sys2Proof

/-- A byte of memory (R5). -/
abbrev Byte := BitVec 8

/-- A 16-bit half: a BF16 or FP16 number, or one half of a BF16 pair (R23). -/
abbrev Half := BitVec 16

/-- A lane or uniform register (R48). -/
abbrev Word := BitVec 32

/-- A pair of registers, a bref, a device time (R49, R80, R19). -/
abbrev DWord := BitVec 64

/-- A set of lanes of one gang, bit l for lane l: GWIDTH is 64 on the Q6 (R18, R48). -/
abbrev Lanes := BitVec 64

end Sys2Proof
end

