-- ==== Sys2Proof/Machine/Bits.lean ====
section
/-! DEFINITION. Bit fields, sign extension, byte order and lane sets (R5, R10). -/

namespace Sys2Proof.Machine

/-- NAME[lo+n-1 : lo] of a number (R5). -/
def bits (w lo n : Nat) : Nat := w / 2 ^ lo % 2 ^ n

def bit (w lo : Nat) : Bool := w / 2 ^ lo % 2 == 1

def boolNat (b : Bool) : Nat := if b then 1 else 0

/-- SignExt(x, n) of R10 on the low n bits of x. -/
def signExt (x n : Nat) : Int :=
  let y := x % 2 ^ n
  if y < 2 ^ (n - 1) then (y : Int) else (y : Int) - (2 ^ n : Nat)

/-- An integer modulo 2^n. -/
def wrap (n : Nat) (x : Int) : Nat := (x % ((2 ^ n : Nat) : Int)).toNat

/-- Little-endian bytes of a number (R5). -/
def toBytes : Nat → Nat → List Byte
  | 0, _ => []
  | n + 1, v => BitVec.ofNat 8 v :: toBytes n (v / 256)

/-- The little-endian number that bytes hold (R5). -/
def ofBytes : List Byte → Nat
  | [] => 0
  | b :: bs => b.toNat + 256 * ofBytes bs

/-- The members of a lane set in ascending index (R9). -/
def laneList (m : Lanes) : List Nat := (List.range 64).filter fun l => m.getLsbD l

/-- The set of the lanes of a list. -/
def laneSet (ls : List Nat) : Lanes := ls.foldl (fun m l => m ||| (1#64 <<< l)) 0

def laneBit (l : Nat) : Lanes := 1#64 <<< l

def setLane (m : Lanes) (l : Nat) : Lanes := m ||| laneBit l

def clearLane (m : Lanes) (l : Nat) : Lanes := m &&& ~~~ laneBit l

/-- n bytes at offset off of a byte list; bytes past its end read as zero. -/
def slice (bs : List Byte) (off n : Nat) : List Byte :=
  let t := (bs.drop off).take n
  t ++ List.replicate (n - t.length) 0

/-- The little-endian number of n bytes at offset off. -/
def numAt (bs : List Byte) (off n : Nat) : Nat := ofBytes (slice bs off n)

/-- bytes written over a byte list at offset off. -/
def patch (bs : List Byte) (off : Nat) (new : List Byte) : List Byte :=
  let base := bs ++ List.replicate (off - bs.length) 0
  base.take off ++ new ++ base.drop (off + new.length)

/-- The first k runs of n of a list. -/
def chunks {α : Type} (n : Nat) : Nat → List α → List (List α)
  | 0, _ => []
  | k + 1, xs => xs.take n :: chunks n k (xs.drop n)

def ceilDiv (a b : Nat) : Nat := (a + b - 1) / b

def roundUp (a b : Nat) : Nat := ceilDiv a b * b

/-- The number of 1 bits among the low n. -/
def popcount (n w : Nat) : Nat := ((List.range n).filter fun i => bit w i).length

/-- The reflected CRC-32C step over one byte (R36). -/
def crcByte (c : Nat) (b : Byte) : Nat :=
  (List.range 8).foldl (fun c _ => if c % 2 = 1 then (c / 2) ^^^ 0x82F63B78 else c / 2) (c ^^^ b.toNat)

/-- CRC-32C with initial value and final exclusive-or of all ones (R36). -/
def crc32c (bs : List Byte) : Nat := bs.foldl crcByte 0xFFFFFFFF ^^^ 0xFFFFFFFF

end Sys2Proof.Machine
end

