-- ==== Sys2Proof/Machine/Flags.lean ====
section
/-! DEFINITION. The floating-point formats and their one rounding (R23 to R26), the functions of R208 and the E5M3 scale
(R27). Values are exact: a sign, a magnitude and a power of two. -/

namespace Sys2Proof.Machine

/-- A format of R23: precision with the hidden bit, exponent field width, smallest normal exponent. -/
structure Fmt where
  prec : Nat
  ebits : Nat
  emin : Int
  deriving DecidableEq, Repr

def fp32 : Fmt := ⟨24, 8, -126⟩
def bf16 : Fmt := ⟨8, 8, -126⟩
def fp16 : Fmt := ⟨11, 5, -14⟩

def Fmt.frac (f : Fmt) : Nat := f.prec - 1
def Fmt.width (f : Fmt) : Nat := f.ebits + f.prec
/-- Magnitude bits of infinity. -/
def Fmt.inf (f : Fmt) : Nat := (2 ^ f.ebits - 1) * 2 ^ f.frac
/-- The canonical NaN of R23. -/
def Fmt.nan (f : Fmt) : Nat := f.inf + 2 ^ (f.frac - 1)
def Fmt.signBit (f : Fmt) : Nat := 2 ^ (f.width - 1)

/-- What an encoding stands for; a finite value is (-1)^neg * m * 2^e. -/
inductive FVal where
  | nan (signalling : Bool)
  | inf (neg : Bool)
  | fin (neg : Bool) (m : Nat) (e : Int)
  deriving DecidableEq, Repr

/-- FFLAGS bits [4:0] (R26): NX 1, UF 2, OF 4, DZ 8, NV 16. -/
abbrev Flags := BitVec 5
def nx : Flags := 1#5
def uf : Flags := 2#5
def of' : Flags := 4#5
def dz : Flags := 8#5
def nv : Flags := 16#5

/-- The value of an encoding. -/
def Fmt.read (f : Fmt) (x : Nat) : FVal :=
  let neg := bit x (f.width - 1)
  let ex := bits x f.frac f.ebits
  let fr := bits x 0 f.frac
  if ex = 2 ^ f.ebits - 1 then
    if fr = 0 then .inf neg else .nan (!bit x (f.frac - 1))
  else if ex = 0 then .fin neg fr (f.emin - f.frac)
  else .fin neg (2 ^ f.frac + fr) (f.emin - f.frac + (ex - 1 : Nat))

def Fmt.signed (f : Fmt) (neg : Bool) (mag : Nat) : Nat := mag + (if neg then f.signBit else 0)

/-- m * 2^-s rounded to the nearest integer, ties to even; s may be negative. Also: was it inexact. -/
def rneShift (m : Nat) (s : Int) : Nat × Bool :=
  match s with
  | .ofNat 0 => (m, false)
  | .ofNat (k + 1) =>
    let q := m / 2 ^ (k + 1)
    let r := m % 2 ^ (k + 1)
    (if r > 2 ^ k || (r == 2 ^ k && q % 2 == 1) then q + 1 else q, r != 0)
  | .negSucc k => (m * 2 ^ (k + 1), false)

/-- R10, R24, R26: the finite value m * 2^e (m may be 0) rounded once to the format: magnitude bits and conditions. -/
def Fmt.roundMag (f : Fmt) (m : Nat) (e : Int) : Nat × Flags :=
  if m = 0 then (0, 0) else
  let top := e + (Nat.log2 m : Int)
  let qmin := f.emin - (f.frac : Int)
  let q := max (top - (f.frac : Int)) qmin
  let (v, inexact) := rneShift m (q - e)
  let mag := (q - qmin).toNat * 2 ^ f.frac + v
  let unb := rneShift m (top - (f.frac : Int) - e)
  let tiny := top < f.emin && (top + 1 < f.emin || unb.1 < 2 ^ f.prec)
  if mag ≥ f.inf then (f.inf, of' ||| nx)
  else (mag, (if inexact then nx else 0) ||| (if inexact && tiny then uf else 0))

/-- A rounded result of given sign; the sign stays on a zero that rounding produced. -/
def Fmt.round (f : Fmt) (neg : Bool) (m : Nat) (e : Int) : Nat × Flags :=
  let (mag, fl) := f.roundMag m e
  (f.signed neg mag, fl)

/-- NaN results: canonical, NV when an operand signals (R24). -/
def Fmt.nanOf (f : Fmt) (signalling : Bool) : Nat × Flags := (f.nan, if signalling then nv else 0)

def FVal.isNaN : FVal → Bool
  | .nan _ => true | _ => false
def FVal.signals : FVal → Bool
  | .nan s => s | _ => false
def FVal.neg? : FVal → Bool
  | .nan _ => false | .inf n => n | .fin n _ _ => n
def FVal.flip : FVal → FVal
  | .nan s => .nan s | .inf n => .inf (!n) | .fin n m e => .fin (!n) m e
def FVal.isZero : FVal → Bool
  | .fin _ 0 _ => true | _ => false

/-- The finite value as an integer count of 2^k, for k at most its own exponent. -/
def dyadicAt (neg : Bool) (m : Nat) (e k : Int) : Int :=
  let v : Int := (m * 2 ^ (e - k).toNat : Nat)
  if neg then -v else v

/-- The exact sum of two finite values: sign, magnitude, exponent; zeros by R24 rule 4. -/
def addFin (n1 : Bool) (m1 : Nat) (e1 : Int) (n2 : Bool) (m2 : Nat) (e2 : Int) : Bool × Nat × Int :=
  if m1 = 0 && m2 = 0 then (n1 && n2, 0, e1)
  else
    let k := min e1 e2
    let s := dyadicAt n1 m1 e1 k + dyadicAt n2 m2 e2 k
    (decide (s < 0), s.natAbs, k)

/-- RoundNE of x + y. -/
def Fmt.add (f : Fmt) : FVal → FVal → Nat × Flags
  | .nan s, y => f.nanOf (s || y.signals)
  | .inf _, .nan s => f.nanOf s
  | .fin .., .nan s => f.nanOf s
  | .inf a, .inf b => if a = b then (f.signed a f.inf, 0) else (f.nan, nv)
  | .inf a, .fin .. => (f.signed a f.inf, 0)
  | .fin .., .inf b => (f.signed b f.inf, 0)
  | .fin n1 m1 e1, .fin n2 m2 e2 => let (n, m, e) := addFin n1 m1 e1 n2 m2 e2; f.round n m e

/-- The exact product of two values, or the invalid case. -/
inductive Prod where
  | val (v : FVal)
  | invalid (signalling : Bool)
  deriving DecidableEq, Repr

def mulExact : FVal → FVal → Prod
  | .nan s, y => .val (.nan (s || y.signals))
  | .inf _, .nan s => .val (.nan s)
  | .fin .., .nan s => .val (.nan s)
  | .inf a, .inf b => .val (.inf (a != b))
  | .inf a, .fin b m _ => if m = 0 then .invalid false else .val (.inf (a != b))
  | .fin a m _, .inf b => if m = 0 then .invalid false else .val (.inf (a != b))
  | .fin n1 m1 e1, .fin n2 m2 e2 => .val (.fin (n1 != n2) (m1 * m2) (e1 + e2))

def Fmt.mul (f : Fmt) (x y : FVal) : Nat × Flags :=
  match mulExact x y with
  | .invalid _ => (f.nan, nv)
  | .val (.nan s) => f.nanOf s
  | .val (.inf n) => (f.signed n f.inf, 0)
  | .val (.fin n m e) => f.round n m e

/-- RoundNE of the sum of σp × x × y and σc × c (R211): ∞ × 0 is invalid even when the addend is a NaN. -/
def Fmt.fma (f : Fmt) (negp negc : Bool) (x y c : FVal) : Nat × Flags :=
  match mulExact x y with
  | .invalid _ => (f.nan, nv)
  | .val p => f.add (if negp then p.flip else p) (if negc then c.flip else c)

/-- Exact order of two values that are not NaN, with -0 below +0 when `zeros` asks for it. -/
def FVal.ltWith (zeros : Bool) : FVal → FVal → Bool
  | .nan _, _ => false
  | _, .nan _ => false
  | .inf a, .inf b => a && !b
  | .inf a, .fin .. => a
  | .fin .., .inf b => !b
  | .fin n1 m1 e1, .fin n2 m2 e2 =>
    if m1 = 0 && m2 = 0 then zeros && n1 && !n2
    else
      let k := min e1 e2
      decide (dyadicAt n1 m1 e1 k < dyadicAt n2 m2 e2 k)

def FVal.lt : FVal → FVal → Bool := FVal.ltWith false

/-- FMIN, FMAX (R207): -0 < +0; canonical NaN if either is a NaN; NV only for a signalling NaN. -/
def Fmt.minmax (f : Fmt) (isMax : Bool) (a b : Nat) : Nat × Flags :=
  let x := f.read a
  let y := f.read b
  if x.isNaN || y.isNaN then f.nanOf (x.signals || y.signals)
  else if FVal.ltWith true y x == isMax then (a, 0) else (b, 0)

/-- Conversion between formats (R25): same-format conversion makes a NaN canonical. -/
def Fmt.ofVal (f : Fmt) : FVal → Nat × Flags
  | .nan s => f.nanOf s
  | .inf n => (f.signed n f.inf, 0)
  | .fin n m e => f.round n m e

/-- A sticky bit below a truncated quotient or root that has at least two bits more than any format keeps: rounding the result
rounds the exact value. -/
def jam (m : Nat) (inexact : Bool) : Nat := 2 * m + boolNat inexact

/-- ⌊√n⌋ by trying each bit. -/
def isqrtAux : Nat → Nat → Nat → Nat
  | 0, r, _ => r
  | k + 1, r, n => isqrtAux k (if (r + 2 ^ k) * (r + 2 ^ k) ≤ n then r + 2 ^ k else r) n
def isqrt (n : Nat) : Nat := isqrtAux (Nat.log2 n / 2 + 1) 0 n

/-- FRCP (R208). -/
def frcp (a : Nat) : Nat × Flags :=
  match fp32.read a with
  | .nan s => fp32.nanOf s
  | .inf n => (fp32.signed n 0, 0)
  | .fin n m e =>
    if m = 0 then (fp32.signed n fp32.inf, dz) else
    let k := Nat.log2 m + 32
    let q := 2 ^ k / m
    fp32.round n (jam q (q * m != 2 ^ k)) (-(k : Int) - e - 1)

/-- √(m * 2^e) for positive m, rounded. -/
def sqrtPos (m : Nat) (e : Int) : Nat × Flags :=
  let odd : Bool := e % 2 != 0
  let m1 := if odd then 2 * m else m
  let e1 := if odd then e - 1 else e
  let m2 := m1 * 2 ^ 64
  let r := isqrt m2
  fp32.round false (jam r (r * r != m2)) (e1 / 2 - 32 - 1)

def fsqrt (a : Nat) : Nat × Flags :=
  match fp32.read a with
  | .nan s => fp32.nanOf s
  | .inf n => if n then (fp32.nan, nv) else (fp32.inf, 0)
  | .fin n m e =>
    if m = 0 then (a, 0) else if n then (fp32.nan, nv) else sqrtPos m e

def frsq (a : Nat) : Nat × Flags :=
  match fp32.read a with
  | .nan s => fp32.nanOf s
  | .inf n => if n then (fp32.nan, nv) else (0, 0)
  | .fin n m e =>
    if m = 0 then (fp32.signed n fp32.inf, dz) else if n then (fp32.nan, nv) else
    let odd : Bool := e % 2 != 0
    let m1 := if odd then 2 * m else m
    let e1 := if odd then e - 1 else e
    let q := 2 ^ 128 / m1
    let r := isqrt q
    fp32.round false (jam r (r * r * m1 != 2 ^ 128)) (-(e1 / 2) - 64 - 1)

/-- Enclosure of 2^(0.f) in units of 2^-p: `cur` encloses 2^(2^-k) at the k-th bit of f, and acc the product so far. -/
def exp2Bits (p : Nat) : Nat → Nat → Nat × Nat → Nat × Nat → Nat × Nat
  | 0, _, _, acc => acc
  | k + 1, f, cur, acc =>
    let lo := isqrt (cur.1 * 2 ^ p)
    let hi := isqrt (cur.2 * 2 ^ p) + 1
    let acc' := if bit f k then (acc.1 * lo / 2 ^ p, acc.2 * hi / 2 ^ p + 1) else acc
    exp2Bits p k f (lo, hi) acc'

/-- 2^x for a non-integer x: rounding agrees at both ends of an enclosure, or the precision doubles. -/
def exp2Round : Nat → Nat → Nat → Nat → Int → Nat × Flags
  | 0, p, fb, f, n => let (lo, _) := exp2Bits p fb f (2 * 2 ^ p, 2 * 2 ^ p) (2 ^ p, 2 ^ p)
                      fp32.round false (jam lo true) (n - p - 1)
  | fuel + 1, p, fb, f, n =>
    let (lo, hi) := exp2Bits p fb f (2 * 2 ^ p, 2 * 2 ^ p) (2 ^ p, 2 ^ p)
    let a := fp32.round false (jam lo true) (n - p - 1)
    let b := fp32.round false (2 * hi - 1) (n - p - 1)
    if a = b then a else exp2Round fuel (2 * p) fb f n

def fexp2 (a : Nat) : Nat × Flags :=
  match fp32.read a with
  | .nan s => fp32.nanOf s
  | .inf n => if n then (0, 0) else (fp32.inf, 0)
  | .fin n m e =>
    if m = 0 then (0x3F800000, 0) else
    let fb := (-e).toNat
    let v := dyadicAt n m e (min e 0)
    let fl : Int := v / ((2 ^ fb : Nat) : Int)
    let fr := (v % ((2 ^ fb : Nat) : Int)).toNat
    if fl ≥ 128 then (fp32.inf, of' ||| nx)
    else if fl < -150 then (0, uf ||| nx)
    else if fr = 0 then fp32.round false 1 fl
    else exp2Round 5 96 fb fr fl

/-- Leading bits of log2 of y in [1, 2), y enclosed in units of 2^-p; stops where the enclosure straddles 2. Answer: the bits
found as a number, and how many. -/
def log2Bits (p : Nat) : Nat → Nat × Nat → Nat → Nat → Nat × Nat
  | 0, _, acc, k => (acc, k)
  | n + 1, y, acc, k =>
    let lo := y.1 * y.1 / 2 ^ p
    let hi := y.2 * y.2 / 2 ^ p + 1
    if lo ≥ 2 ^ (p + 1) then log2Bits p n (lo / 2, hi / 2 + 1) (2 * acc + 1) (k + 1)
    else if hi < 2 ^ (p + 1) then log2Bits p n (lo, hi) (2 * acc) (k + 1)
    else (acc, k)

/-- Rounds an irrational number strictly between t and t + 1 in units of 2^-k; none where the two ends round apart. -/
def roundBetween (t : Int) (k : Nat) : Option (Nat × Flags) :=
  let r := fun (v : Int) => fp32.round (decide (v < 0)) (8 * v.natAbs + 1) (-(k : Int) - 4)
  let a := r (2 * t)
  let b := r (2 * t + 2)
  if a = b then some a else none

def log2Round : Nat → Nat → Nat → Int → Nat × Flags
  | 0, _, _, n => fp32.round (decide (n < 0)) n.natAbs 0
  | fuel + 1, p, y, n =>
    let (acc, k) := log2Bits p (p / 2) (y * 2 ^ (p - 23), y * 2 ^ (p - 23)) 0 0
    let t : Int := n * ((2 ^ k : Nat) : Int) + (acc : Int)
    match roundBetween t k with
    | some r => r
    | none => log2Round fuel (2 * p) y n

def flog2 (a : Nat) : Nat × Flags :=
  match fp32.read a with
  | .nan s => fp32.nanOf s
  | .inf n => if n then (fp32.nan, nv) else (fp32.inf, 0)
  | .fin n m e =>
    if m = 0 then (fp32.signed true fp32.inf, dz) else if n then (fp32.nan, nv) else
    let l := Nat.log2 m
    let ex := e + (l : Int)
    if m = 2 ^ l then
      if ex = 0 then (0, 0) else fp32.round (decide (ex < 0)) ex.natAbs 0
    else log2Round 6 256 (m * 2 ^ (23 - l)) ex

/-- FABS and FNEG keep all but the sign; a NaN is made canonical (R207). -/
def fabsBits (a : Nat) : Nat × Flags :=
  match fp32.read a with
  | .nan s => fp32.nanOf s
  | _ => (a % 2 ^ 31, 0)
def fnegBits (a : Nat) : Nat × Flags :=
  match fp32.read a with
  | .nan s => fp32.nanOf s
  | _ => ((a ^^^ 2 ^ 31) % 2 ^ 32, 0)

/-- The integer nearest to m * 2^e, ties to even or toward zero; also whether it differs. -/
def toInteger (rz neg : Bool) (m : Nat) (e : Int) : Int × Bool :=
  let (q, inx) :=
    if rz then
      match e with
      | .ofNat k => (m * 2 ^ k, false)
      | .negSucc k => (m / 2 ^ (k + 1), m % 2 ^ (k + 1) != 0)
    else rneShift m (-e)
  (if neg then -(q : Int) else q, inx)

/-- An exact non-negative scale m * 2^e (R27, R28). -/
structure Scale where
  m : Nat
  e : Int
  deriving DecidableEq, Repr

/-- ScaleValue of R27. -/
def scaleValue (s : Nat) : Scale :=
  let e := bits s 3 5
  let m := bits s 0 3
  if e = 0 then ⟨m, -17⟩ else ⟨8 + m, (e : Int) - 18⟩

end Sys2Proof.Machine
end

