-- ==== Sys2Proof/Syntax.lean ====
section
/-! DEFINITION. The steps of the Q6 as syntax: the 158 instruction words of R63, with every field their layouts name,
and the 98 operations and events of the engines, the host and the world that spec/opcode_table.json lists beside them. -/

namespace Sys2Proof

abbrev VReg := Fin 128
abbrev SReg := Fin 64
abbrev GReg := Fin 8
abbrev ZReg := Fin 4
/-- A four-bit mask field; 12 to 15 are reserved (R48). -/
abbrev MReg := Fin 16
abbrev CReg := Fin 32

/-- The guard of a lane-long word: G and GN (R57, R66). -/
structure LGuard where
  reg : GReg
  neg : Bool
  deriving DecidableEq, Repr

/-- The guard of a uniform-long word: Z and ZN (R61, R66). -/
structure UGuard where
  reg : ZReg
  neg : Bool
  deriving DecidableEq, Repr

/-- The TYPE values 0, 3 and 6 of R59, the ones integer instructions accept. -/
inductive IntType where
  | none | i32 | n32
  deriving DecidableEq, Repr

/-- The nine types CVT converts between, codes 1 to 9 of R59. -/
inductive CType where
  | i8 | i16 | i32 | n8 | n16 | n32 | f32 | bf16 | f16
  deriving DecidableEq, Repr

/-- WIDTH of R58. -/
inductive Width where
  | b | h | w | d | q
  deriving DecidableEq, Repr

/-- POLICY of R58. -/
inductive Policy where
  | none | nc | nl
  deriving DecidableEq, Repr

/-- SCOPE of R58 and R175. -/
inductive Scope where
  | gang | team | core | cluster | device | system
  deriving DecidableEq, Repr

/-- AOP of R150, codes 0 to 13. -/
inductive Aop where
  | add | and | or | xor | min | max | umin | umax | xchg | cas | fadd | fmin | fmax | hadd2
  deriving DecidableEq, Repr

/-- The integer predicates, codes 0 to 5 of R212 and R225. -/
inductive Pred where
  | eq | ne | lt | le | gt | ge
  deriving DecidableEq, Repr

/-- The predicates of FCMP, codes 0 to 6 of R212. -/
inductive FPred where
  | eq | ne | lt | le | gt | ge | un
  deriving DecidableEq, Repr

/-- COMB of R212. -/
inductive Comb where
  | set | and | or
  deriving DecidableEq, Repr

/-- KIND of SHFI (R213). -/
inductive ShiftKind where
  | shl | shr | sar | rotl
  deriving DecidableEq, Repr

/-- MODE of SHFL (R219). -/
inductive ShflMode where
  | idx | up | down | xor
  deriving DecidableEq, Repr

/-- MODE of VOTE (R220). -/
inductive VoteMode where
  | all | any | ballot | eq
  deriving DecidableEq, Repr

/-- ROP of REDL and SCANL (R221). -/
inductive Rop where
  | add | min | max | umin | umax | and | or | xor | fadd | fmin | fmax
  deriving DecidableEq, Repr

/-- SCOPE of the barrier instructions (R310). -/
inductive BarScope where
  | team | cluster | device
  deriving DecidableEq, Repr

/-- MODE of STMAP (R132). -/
inductive MapMode where
  | rw | ro | wo
  deriving DecidableEq, Repr

/-- OP of SCAT (R194). -/
inductive ScatOp where
  | st | add | fadd | hadd2
  deriving DecidableEq, Repr

/-- What a channel's symbol code finds in one access (R90, R93): `lost` is a remap entry uncorrectable in both copies. -/
inductive EccResult where
  | clean | corrected | uncorrectable | lost
  deriving DecidableEq, Repr

/-- The two ports with a completion timeout (R97), and the ports of the fabric (R252). -/
inductive Port where
  | host | far
  | fabric (k : Fin 18)
  deriving DecidableEq, Repr

/-- A line of its buffer that an owner supplies under a lease: the line's number in the buffer, the expiry, and whether each sector is
poisoned (R120). -/
structure LeasedLine where
  line : Nat
  expiry : Nat
  bytes : List Byte
  poison : List Bool
  deriving DecidableEq, Repr

/-- The answer another device gives to a request this device sent it (R251). That of a write carries the caching attribute of its page (R140), and
of a reduction the bytes it has stored (R122). A failure carries the detail its owner found with it, and the offset of the first byte that
failed. -/
inductive RemoteReply where
  | data (bytes : List Byte) (wct : Nat) (leases : List LeasedLine)
  | written (wct attr : Nat) (stored : List Byte)
  | failed (cause : BitVec 7) (detail : BitVec 4) (off : Nat)
  deriving DecidableEq, Repr

/-- What the lanes of one access ask of another device. -/
inductive LaneOp where
  | load | store
  | atomic (aop : Aop)
  | signal
  deriving DecidableEq, Repr

/-- One lane of such a request: offset, and the operands of a write. -/
structure LaneAsk where
  lane : Nat
  off : Nat
  data : BitVec 128
  expect : DWord
  deriving DecidableEq, Repr

/-- A record of an order circle as it travels (R262, R263): the target bref, the payload, AOP and D for a PUTRED, and its sender's device and
the number by which the sender knows it. -/
structure CircleRec where
  target : DWord
  payload : List Byte
  red : Option (Aop × Bool)
  incarn : BitVec 16
  source : Nat
  tag : Nat
  deriving DecidableEq, Repr

/-- Who sends a Yunait request (R249). -/
inductive Sender where
  | q6 (device : Nat)
  | lomerod
  | other
  deriving DecidableEq, Repr

/-- Yunait, in the vendor-defined request types (R249): signal adds, the atomic of R40 on a fill counter, and the traffic of circles. -/
inductive Yunait where
  | signal (device buf off : Nat) (v : DWord)
  | reserve (device buf off count limit : Nat)
  | circleRecord (circle : Fin 64) (r : CircleRec)
  | circleStamped (circle : Fin 64) (r : CircleRec) (seq : BitVec 48)
  | circleStampOwn (circle : Fin 64) (tag : Nat) (seq : BitVec 48)
  | circleApplied (circle : Fin 64) (member : Nat) (incarn : BitVec 16) (count : Nat)
  | circleActive (circle : Fin 64) (member : Nat) (incarn : BitVec 16)
  deriving DecidableEq, Repr

/-- What arrives at this device's fabric ports (R249 to R252, R262, R265): `lanes` are those of one access of a gang (R144), and `held` is a request
that has waited here since an instant (R252). -/
inductive FabricMsg where
  | read (device buf off n : Nat) (lease : Bool)
  | write (device buf off : Nat) (bytes : List Byte)
  | lanes (device buf : Nat) (op : LaneOp) (wd : Width) (lease : Bool) (asks : List LaneAsk)
  | held (since : Nat) (m : FabricMsg)
  | atomic (device buf off : Nat) (aop : Aop) (wd : Width) (a expected : DWord)
  | reply (id : Nat) (r : RemoteReply)
  | yunait (sender : Sender) (m : Yunait)
  deriving DecidableEq, Repr

/-- The window A registers that a host write changes and that have no row of their own in the table (R8, R332). -/
inductive HostReg where
  | devnum | btbase | btentry (index : Fin 4096) (word : Fin 4) | ptroot | fqdone | ctxbase | dumpbase | dumpsize
  | hosterr | msixstat | farTimeout | hostTimeout | fabricTimeout | pwrcap | assaypol | assayn
  | telBase | telSize | telTail | sampleBase | sampleSize | sampleTail | attnonce (word : Fin 6) | dbgtoken (word : Fin 28)
  | half (high : Bool) (reg : HostReg)
  | other (offset : Nat) (size : Nat)
  | badRead (offset : Nat) (size : Nat)
  deriving DecidableEq, Repr

/-- What a write of window C asks for: that its bytes be stored, or an AtomicOp that the port completes there (R332). -/
inductive HostOp where
  | plain | fetchAdd | swap | cas
  deriving DecidableEq, Repr

/-- A write of window C. The bytes of an AtomicOp are its operands: the addend, the new value, or the value compared with and then the new
one (R332). -/
structure HostWrite where
  bytes : List Byte
  op : HostOp
  deriving DecidableEq, Repr

/-- A reload (R331): whether it fails on the way, and whether its copy is another Q6's and not this one's (R326). -/
structure CopyLoad where
  failed : Bool
  other : Bool
  deriving DecidableEq, Repr

/-- What the boot ROM reads of a firmware image (R335). -/
structure FwImage where
  present : Bool
  magic : Word
  length : Nat
  svn : Word
  keyHash : Nat
  body : List Byte
  signature : List Byte
  deriving DecidableEq, Repr

/-- The units of the readback mailbox (R340). -/
inductive RbUnit where
  | pool (core : Nat) | acc (core : Nat) | staging (core : Nat) | lane (core : Nat) | gang (core : Nat) | team (core : Nat)
  | l2 | mill | engine | trigger | circle | bufTable | sysreg (core : Nat) | telemetry | monitor | fuse
  | log | gangSlots (core : Nat) | debugLane (core : Nat)
  deriving DecidableEq, Repr

/-- The steps of the Q6, in the order of spec/opcode_table.json. -/
inductive Instr where
  -- lane short (R56, R207)
  | iadd (g : GReg) (vd va vb : VReg)
  | isub (g : GReg) (vd va vb : VReg)
  | imul (g : GReg) (vd va vb : VReg)
  | imulhs (g : GReg) (vd va vb : VReg)
  | imulhu (g : GReg) (vd va vb : VReg)
  | imin (g : GReg) (vd va vb : VReg)
  | imax (g : GReg) (vd va vb : VReg)
  | umin (g : GReg) (vd va vb : VReg)
  | umax (g : GReg) (vd va vb : VReg)
  | and (g : GReg) (vd va vb : VReg)
  | or (g : GReg) (vd va vb : VReg)
  | xor (g : GReg) (vd va vb : VReg)
  | andn (g : GReg) (vd va vb : VReg)
  | shl (g : GReg) (vd va vb : VReg)
  | shr (g : GReg) (vd va vb : VReg)
  | sar (g : GReg) (vd va vb : VReg)
  | rotl (g : GReg) (vd va vb : VReg)
  | popc (g : GReg) (vd va : VReg)
  | clz (g : GReg) (vd va : VReg)
  | brev (g : GReg) (vd va : VReg)
  | mov (g : GReg) (vd va : VReg)
  | fadd (g : GReg) (vd va vb : VReg)
  | fsub (g : GReg) (vd va vb : VReg)
  | fmul (g : GReg) (vd va vb : VReg)
  | fmin (g : GReg) (vd va vb : VReg)
  | fmax (g : GReg) (vd va vb : VReg)
  | frcp (g : GReg) (vd va : VReg)
  | frsq (g : GReg) (vd va : VReg)
  | fsqrt (g : GReg) (vd va : VReg)
  | fexp2 (g : GReg) (vd va : VReg)
  | flog2 (g : GReg) (vd va : VReg)
  | hadd2 (g : GReg) (vd va vb : VReg)
  | hmul2 (g : GReg) (vd va vb : VReg)
  | hmax2 (g : GReg) (vd va vb : VReg)
  | cvtif (g : GReg) (vd va : VReg)
  | cvtfi (g : GReg) (vd va : VReg)
  | pkbf (g : GReg) (vd va vb : VReg)
  | upbfl (g : GReg) (vd va : VReg)
  | upbfh (g : GReg) (vd va : VReg)
  | sel (g : GReg) (vd va vb : VReg)
  | lane (g : GReg) (vd : VReg)
  | fabs (g : GReg) (vd va : VReg)
  | fneg (g : GReg) (vd va : VReg)
  -- lane long (R57)
  | iaddi (g : LGuard) (vd va : VReg) (imm : Word)
  | limm (g : LGuard) (vd : VReg) (imm : Word)
  | imad (g : LGuard) (vd va vb vc : VReg) (ty : IntType) (wide : Bool)
  | ffma (g : LGuard) (vd va vb vc : VReg) (typed negp negc : Bool)
  | hfma2 (g : LGuard) (vd va vb vc : VReg) (typed negp negc : Bool)
  | icmp (g : LGuard) (gd : GReg) (va vb : VReg) (ty : IntType) (pred : Pred) (comb : Comb)
  | fcmp (g : LGuard) (gd : GReg) (va vb : VReg) (typed : Bool) (pred : FPred) (comb : Comb)
  | bfx (g : LGuard) (vd va : VReg) (ty : IntType) (pos len1 : Fin 32)
  | bfi (g : LGuard) (vd va vb : VReg) (pos len1 : Fin 32)
  | idiv (g : LGuard) (vd va vb : VReg) (ty : IntType) (la : Fin 16)
  | irem (g : LGuard) (vd va vb : VReg) (ty : IntType) (la : Fin 16)
  | lea (g : LGuard) (vd : VReg) (hs : SReg) (vo : VReg) (wd : Width) (imm : BitVec 10)
  | cvt (g : LGuard) (vd va : VReg) (dst src : CType) (rz : Bool)
  | tidx (g : LGuard) (vd : VReg) (what : Fin 8) (xm ym : Fin 128)
  | urand (g : LGuard) (vd va vb : VReg) (fp : Bool)
  | shfi (g : LGuard) (vd va : VReg) (kind : ShiftKind) (n : Fin 32)
  | logi (g : LGuard) (vd va vb vc : VReg) (table : BitVec 8)
  | shfl (g : LGuard) (vd va vb : VReg) (mode : ShflMode) (wrel : Bool) (lit : Fin 64)
  | vote (g : LGuard) (vd va : VReg) (mode : VoteMode) (gd : GReg) (gw : Bool)
  | redl (g : LGuard) (vd va : VReg) (rop : Rop)
  | scanl (g : LGuard) (vd va : VReg) (rop : Rop) (excl : Bool)
  | bcast (g : LGuard) (vd va : VReg) (src : Fin 128) (first : Bool)
  | br (g : LGuard) (disp : Word)
  | brx (g : LGuard) (va : VReg)
  | call (g : LGuard) (disp : Word)
  | ld (g : LGuard) (vd : VReg) (hs : SReg) (vo : VReg) (la : Fin 16) (wd : Width) (pol : Policy) (imm : BitVec 10)
  | st (g : LGuard) (vd : VReg) (hs : SReg) (vo : VReg) (wd : Width) (pol : Policy) (imm : BitVec 10)
  | lds (g : LGuard) (vd : VReg) (hs : SReg) (vo : VReg) (la : Fin 16) (wd : Width) (imm : BitVec 10)
  | sts (g : LGuard) (vd : VReg) (hs : SReg) (vo : VReg) (wd : Width) (imm : BitVec 10)
  | atom (g : LGuard) (vd va : VReg) (hs : SReg) (vo : VReg) (la : Fin 16) (wd : Width) (aop : Aop) (scope : Scope)
  | red (g : LGuard) (va : VReg) (hs : SReg) (vo : VReg) (wd : Width) (aop : Aop) (scope : Scope)
  | atoms (g : LGuard) (vd va : VReg) (hs : SReg) (vo : VReg) (la : Fin 16) (wd : Width) (aop : Aop) (scope : Scope)
  | pf (g : LGuard) (hs : SReg) (vo : VReg) (wd : Width) (pol : Policy) (imm : BitVec 10)
  | refill (g : LGuard) (vd : VReg) (disp : Word)
  -- uniform short (R60)
  | nop (z : ZReg)
  | sadd (z : ZReg) (sd sa sb : SReg)
  | ssub (z : ZReg) (sd sa sb : SReg)
  | smul (z : ZReg) (sd sa sb : SReg)
  | sand (z : ZReg) (sd sa sb : SReg)
  | sor (z : ZReg) (sd sa sb : SReg)
  | sxor (z : ZReg) (sd sa sb : SReg)
  | sshl (z : ZReg) (sd sa sb : SReg)
  | sshr (z : ZReg) (sd sa sb : SReg)
  | ssar (z : ZReg) (sd sa sb : SReg)
  | smov (z : ZReg) (sd sa : SReg)
  | smin (z : ZReg) (sd sa sb : SReg) (uns : Bool)
  | smax (z : ZReg) (sd sa sb : SReg) (uns : Bool)
  | scmp (z : ZReg) (zd : ZReg) (sa sb : SReg) (pred : Pred) (uns : Bool)
  | twait (z : ZReg) (sa : SReg) (chk : Bool)
  | ttest (z : ZReg) (sd sa : SReg) (zout : ZReg)
  | join (z : ZReg) (m : MReg)
  | leave (z : ZReg) (m : MReg)
  | waitm (z : ZReg) (m : MReg) (clr : Bool)
  | yield (z : ZReg)
  | exit (z : ZReg)
  | ret (z : ZReg)
  | eret (z : ZReg) (skip : Bool)
  | bkpt (z : ZReg) (code : Fin 16)
  | trap (z : ZReg) (sa : SReg) (code : Fin 16)
  | cpermit (z : ZReg) (sa : SReg) (k : Fin 16)
  -- uniform long (R61)
  | saddi (u : UGuard) (sd sa : SReg) (imm : Word)
  | sli (u : UGuard) (sd : SReg) (imm : Word)
  | sld (u : UGuard) (sd sa sb : SReg) (la : Fin 16) (wd : Width) (pol : Policy) (imm : BitVec 11)
  | sst (u : UGuard) (sd sa sb : SReg) (wd : Width) (pol : Policy) (imm : BitVec 11)
  | bra (u : UGuard) (disp : Word)
  | brc (u : UGuard) (sd : SReg) (disp : Word)
  | callu (u : UGuard) (disp : Word)
  | jmpu (u : UGuard) (sa : SReg)
  | sysrd (u : UGuard) (sd : SReg) (number : BitVec 12) (dbl : Bool)
  | syswr (u : UGuard) (sa : SReg) (number : BitVec 12)
  | rdlane (u : UGuard) (sd : SReg) (vreg : VReg) (ln : Fin 128) (first : Bool)
  | mget (u : UGuard) (sd : SReg) (m : MReg)
  | mset (u : UGuard) (sa : SReg) (m : MReg)
  | break (u : UGuard) (set : BitVec 12) (disp : Word)
  | scmpi (u : UGuard) (zd : ZReg) (sa : SReg) (pred : Pred) (uns : Bool) (imm : Word)
  | fence (u : UGuard) (paths : BitVec 7) (scope : Scope) (rel acq : Bool)
  | bari (u : UGuard) (sa sb sc : SReg) (scope : BarScope)
  | bara (u : UGuard) (sd sa sb sc : SReg) (scope : BarScope) (n : Fin 4096)
  | barw (u : UGuard) (sd sa sb sc : SReg) (scope : BarScope) (zout : ZReg) (bexp : Fin 32)
  | sigadd (u : UGuard) (sa sb sc : SReg) (d rel : Bool) (paths : BitVec 7)
  | sigwait (u : UGuard) (sd sa sb sc : SReg) (zout : ZReg) (bexp : Fin 32)
  | stmap (u : UGuard) (sa sb sc : SReg) (lines : BitVec 14) (mode : MapMode)
  | stunmap (u : UGuard) (sa : SReg) (drop : Bool)
  | stflush (u : UGuard) (sd sa sb : SReg) (all inv : Bool)
  | cpy (u : UGuard) (sd sa : SReg)
  | gath (u : UGuard) (sd sa sb sc : SReg) (wd : Width)
  | scat (u : UGuard) (sd sa sb sc : SReg) (wd : Width) (op : ScatOp)
  | sinter (u : UGuard) (sd sa sb sc : SReg) (emit : Bool)
  | mdec (u : UGuard) (sd sa sb sc : SReg) (n : Fin 8) (any : Bool)
  | millld (u : UGuard) (sd sa sb : SReg) (slot : Fin 8) (gen : Byte)
  | millbind (u : UGuard) (sd sa : SReg) (slot : Fin 8) (wr unbind : Bool)
  | millstat (u : UGuard) (sd sa sb : SReg) (slot : Fin 8) (clr : Bool)
  | qscale (u : UGuard) (sd sa sb sc : SReg) (bf : Bool)
  | qsplit (u : UGuard) (sd sa sb : SReg) (bf : Bool)
  | qdeq (u : UGuard) (sd sa sb : SReg) (pq : Fin 16) (bf : Bool)
  | mmb (u : UGuard) (sd sa sb : SReg) (slot : Fin 4) (hold table : Bool)
  | mout (u : UGuard) (sd sa sb : SReg) (slot : Fin 4) (table : Bool)
  | mjoin (u : UGuard) (sd : SReg) (slot : Fin 4) (ct : CReg)
  | mloop (u : UGuard) (sd sa sb sc : SReg) (ct : CReg) (s0 : Fin 4) (two table : Bool)
  | czero (u : UGuard) (ct : CReg)
  | cld (u : UGuard) (sd sa sb : SReg) (ct : CReg) (bf : Bool)
  | cst (u : UGuard) (sd sa sb : SReg) (ct : CReg) (bf clr : Bool)
  | cstat (u : UGuard) (sd : SReg) (ct : CReg) (clr : Bool)
  | put (u : UGuard) (sd sa sb sc : SReg) (sstash sig : Bool) (chunk : Fin 4)
  | get (u : UGuard) (sd sa sb sc : SReg) (dstash sig : Bool) (chunk : Fin 4)
  | putred (u : UGuard) (sd sa sb sc : SReg) (aop : Aop) (d sig : Bool) (chunk : Fin 4) (sstash circ : Bool) (circle : Fin 64)
  | mcst (u : UGuard) (sd sa sb : SReg) (circle : Fin 64)
  | circrd (u : UGuard) (sd : SReg) (circle : Fin 64) (word : Fin 8)
  | trigset (u : UGuard) (sa sb sc : SReg)
  | trigclr (u : UGuard) (sd sa : SReg) (peek : Bool)
  | spawn (u : UGuard) (sa : SReg)
  | iqfill (u : UGuard) (sd sa sb : SReg) (seq : Bool)
  | timeat (u : UGuard) (sa sb : SReg)
  | nap (u : UGuard) (ns : Word)
  | perfrd (u : UGuard) (sd : SReg) (k : Fin 8)
  -- operations and events (spec/95)
  | loadResult (id : Nat)
  | storePerform (id : Nat)
  | atomicPerform (id : Nat)
  | custodyReturn (line : Nat)
  | channelAccess (channel sector : Nat) (ecc : EccResult)
  | refreshTick (channel : Nat)
  | refreshIssue (channel : Nat)
  | scrubRow (channel row : Nat) (found : List (Nat × EccResult))
  | completionTimeout (port : Port) (id : Nat)
  | linkDown (port : Port)
  | linkUpReport (port : Port)
  | fabricTimeout (id : Nat)
  | remoteRequest (m : FabricMsg)
  | fqdoneMapped (index : Nat)
  | fqdoneFatal (index : Nat)
  | millldSwitch (work : Nat)
  | millbindComplete (work : Nat)
  | millstatSample (work : Nat)
  | millWriteBeat (id : Nat)
  | tileAbandoned (tile : Nat)
  | stflushComplete (work : Nat)
  | carterTileStart (work : Nat)
  | carterTileEnd (work i3 : Nat)
  | gathComplete (work : Nat)
  | scatComplete (work : Nat)
  | sinterComplete (work : Nat)
  | mdecComplete (work : Nat)
  | mmbHalfComplete (work : Nat)
  | moutHalfComplete (work : Nat)
  | mjoinMerge (work : Nat)
  | mloopStep (work : Nat)
  | qscaleComplete (work : Nat)
  | qsplitComplete (work : Nat)
  | qdeqComplete (work : Nat)
  | cldComplete (work : Nat)
  | cstComplete (work : Nat)
  | transferChunk (work chunk : Nat)
  | circleRecordSend (work : Nat)
  | crierStamp (circle : Fin 64)
  | circleApply (circle : Fin 64)
  | circleGapTimeout (circle : Fin 64)
  | circleBrokenReceive (circle : Fin 64)
  | circctlActive (circle : Fin 64) (value : DWord)
  | circctlBroken (circle : Fin 64) (value : DWord)
  | signalAdd (id : Nat)
  | triggerFire (entry : Fin 1024)
  | ptpSyncMessage (offset : Int)
  | timefreeTimeout
  | timefreeExit
  | dtimeLoad (value : DWord)
  | launchSlotWrite (slot : Fin 64) (off : Nat) (bytes : List Byte)
  | heldSlotEnter (slot : Fin 64)
  | spawnEnter (hold : Nat)
  | gridFeed (grid : Nat)
  | queueAgeing (core : Nat)
  | teamPlace (core : Nat)
  | timerWheelSlot (slot : Nat)
  | teamEnd (core team : Nat)
  | gridComplete (grid : Nat)
  | completionSignalAdd (grid : Nat)
  | deadlockDetect (core gang : Nat)
  | napExpire (core gang : Nat)
  | barwTimeout (core gang : Nat)
  | sigwaitDeadline (core gang : Nat)
  | fenceComplete (hold : Nat)
  | stunmapComplete (hold : Nat)
  | preemptReq
  | contextSave
  | preemptRestore
  | haltBroadcast
  | dumpWrite
  | preemptTimeout
  | sensorPoll (core base stack : List Nat)
  | powerAverage (watts : Nat)
  | telemetryMonitor (payload : List Byte)
  | sampleInterval (core : Nat)
  | reset (image : FwImage)
  | svnRaise (svn : Word)
  | attreq
  | dbgload
  | dbgctlStop (core gang : Nat)
  | dbgctlStep (core gang : Nat)
  | dbgctlResume (core gang : Nat)
  | readbackRequest (unit : RbUnit) (index off len : Nat)
  | checkpoint (both failed : Bool)
  | reload (copy : CopyLoad)
  | btsync (index : Fin 4096)
  | ptsync (va : DWord)
  | fqnextRead
  | lrejectRead
  | refdebtRead (channel : Nat)
  | cwinWrite (value : DWord)
  | classWindowWrite (cls : Fin 15) (value : Word)
  | windowCRead (off n : Nat)
  | windowCWrite (off : Nat) (write : HostWrite)
  | registerWrite (reg : HostReg) (value : DWord)
  | lifeCycleAdvance
  | fabricPortDown (port : Fin 18)
  deriving DecidableEq, Repr

end Sys2Proof
end

