-- ==== Sys2Proof/WellFormed.lean ====
section
/-! DEFINITION. Which instructions the encoding rules admit: register alignment (R49), reserved field values (R48, R58, R59)
and the encoding rules of each instruction. Budgets (R50) depend on the launch and are checked when the instruction issues. -/

namespace Sys2Proof

/-- The system registers of R52. -/
def sysNumbers : List Nat :=
  [0x000, 0x001, 0x002, 0x003, 0x004, 0x005, 0x006, 0x007, 0x008, 0x009, 0x00A, 0x010, 0x011, 0x012, 0x013,
   0x018, 0x019, 0x01A, 0x01C, 0x01D, 0x020, 0x021, 0x022, 0x023, 0x024, 0x025, 0x026, 0x027, 0x028, 0x030, 0x031,
   0x040, 0x041, 0x042, 0x043, 0x044, 0x045, 0x046, 0x047, 0x048, 0x050]

/-- The numbers SYSRD.D accepts: the first of a pair (R53). -/
def sysPairs : List Nat := [0x010, 0x012, 0x023, 0x025]

/-- How many registers an access of this width names (R49, R139). -/
def Width.regs : Width → Nat
  | .b => 1 | .h => 1 | .w => 1 | .d => 2 | .q => 4

/-- The bytes of a width (R58). -/
def Width.bytes : Width → Nat
  | .b => 1 | .h => 2 | .w => 4 | .d => 8 | .q => 16

/-- R49: a pair starts at an even register, a quadruple at a multiple of four. -/
def alignedFor (wd : Width) (r : Nat) : Bool := r % wd.regs == 0

/-- The widths each AOP lists in R150. -/
def Aop.allows : Aop → Width → Bool
  | .fadd, wd => wd == .w
  | .fmin, wd => wd == .w
  | .fmax, wd => wd == .w
  | .hadd2, wd => wd == .w
  | .add, wd => wd == .w || wd == .d
  | .and, wd => wd == .w || wd == .d
  | .or, wd => wd == .w || wd == .d
  | .xor, wd => wd == .w || wd == .d
  | .min, wd => wd == .w || wd == .d
  | .max, wd => wd == .w || wd == .d
  | .umin, wd => wd == .w || wd == .d
  | .umax, wd => wd == .w || wd == .d
  | .xchg, wd => wd == .w || wd == .d
  | .cas, wd => wd == .w || wd == .d

/-- The "In RED" column of R150. -/
def Aop.inRed : Aop → Bool
  | .xchg => false
  | .cas => false
  | _ => true

def CType.isFloat : CType → Bool
  | .f32 => true | .bf16 => true | .f16 => true
  | _ => false

/-- R274: a displacement is a multiple of four. -/
def dispOk (d : Word) : Bool := d.toNat % 4 == 0

def pairS (r : SReg) : Bool := r.val % 2 == 0
def quadS (r : SReg) : Bool := r.val % 4 == 0
def octS (r : SReg) : Bool := r.val % 8 == 0
def blockS (r : SReg) : Bool := r.val % 16 == 0
def tableS (table : Bool) (r : SReg) : Bool := if table then quadS r else r.val == 0

/-- The encoding rules that a word's own fields decide. Each broken rule raises RESERVED_FIELD (R65). -/
def Instr.wf : Instr → Bool
  | .imad _ vd _ _ vc ty wide => !wide || (ty != .none && vd.val % 2 == 0 && vc.val % 2 == 0)
  | .bfx _ _ _ _ pos len1 => pos.val + len1.val + 1 ≤ 32
  | .bfi _ _ _ _ pos len1 => pos.val + len1.val + 1 ≤ 32
  | .lea _ vd _ _ _ _ => vd.val % 2 == 0
  | .cvt _ _ _ dst src rz => !rz || (src.isFloat && !dst.isFloat)
  | .tidx _ _ what xm ym => (3 ≤ what.val && what.val ≤ 5) || (xm.val == 0 && ym.val == 0)
  | .shfl _ _ _ vb mode wrel lit => if mode == .idx then !wrel && lit.val == 0 else vb.val == 0
  | .vote _ vd _ mode gd gw => (mode != .ballot || (!gw && vd.val % 2 == 0)) && (gw || gd.val == 0)
  | .bcast _ _ _ src first => src.val < 64 && (!first || src.val == 0)
  | .br _ disp => dispOk disp
  | .call _ disp => dispOk disp
  | .refill _ _ disp => dispOk disp
  | .ld _ vd _ _ _ wd _ _ => alignedFor wd vd.val
  | .st _ vd _ _ wd _ _ => alignedFor wd vd.val
  | .lds _ vd _ _ _ wd _ => alignedFor wd vd.val
  | .sts _ vd _ _ wd _ => alignedFor wd vd.val
  | .atom _ vd va _ _ _ wd aop _ => aop.allows wd && alignedFor wd vd.val && alignedFor wd va.val
  | .red _ va _ _ wd aop _ => aop.allows wd && aop.inRed && alignedFor wd va.val
  | .atoms _ vd va _ _ _ wd aop scope =>
      aop.allows wd && alignedFor wd vd.val && alignedFor wd va.val && (scope == .gang || scope == .team || scope == .core)
  | .ttest _ sd sa _ => sd != sa
  | .join _ m => m.val < 12
  | .leave _ m => m.val < 12
  | .waitm _ m _ => m.val < 12
  | .sld _ sd _ _ _ wd _ _ => wd != .q && alignedFor wd sd.val
  | .sst _ sd _ _ wd _ _ => wd != .q && alignedFor wd sd.val
  | .bra _ disp => dispOk disp
  | .brc _ _ disp => dispOk disp
  | .callu _ disp => dispOk disp
  | .sysrd _ sd number dbl => sysNumbers.contains number.toNat && (!dbl || (sysPairs.contains number.toNat && pairS sd))
  | .syswr _ _ number => sysNumbers.contains number.toNat
  | .rdlane _ _ _ ln first => ln.val < 64 && (!first || ln.val == 0)
  | .mget _ sd m => pairS sd && m.val < 12
  | .mset _ sa m => pairS sa && m.val < 12
  | .break _ _ disp => dispOk disp
  | .fence _ paths _ rel acq => paths != 0 && (rel || acq)
  | .bara _ _ _ _ sc _ n => n.val == 0 || sc.val == 0
  | .sigadd _ _ _ sc d rel paths => (!d || pairS sc) && (rel == (paths != 0))
  | .sigwait _ sd _ _ sc _ _ => pairS sd && pairS sc
  | .stmap _ _ _ _ lines _ => 1 ≤ lines.toNat && lines.toNat ≤ 12288
  | .stflush _ _ sa sb all _ => !all || (sa.val == 0 && sb.val == 0)
  | .cpy _ _ sa => blockS sa
  | .gath _ _ sa sb _ _ => pairS sa && pairS sb
  | .scat _ _ sa sb _ wd op =>
      pairS sa && pairS sb && (match op with
        | .st => true
        | .add => wd == .w || wd == .d
        | .fadd => wd == .w
        | .hadd2 => wd == .w)
  | .sinter _ _ sa sb sc _ => quadS sa && pairS sb && pairS sc
  | .mdec _ _ _ _ sc _ _ => pairS sc
  | .qscale _ _ sa sb _ _ => pairS sa && pairS sb
  | .qsplit _ _ sa sb _ => pairS sa && pairS sb
  | .qdeq _ _ sa sb pq _ => pairS sa && pairS sb && pq.val != 1 && pq.val ≤ 8
  | .mmb _ _ sa sb _ _ table => octS sa && tableS table sb
  | .mout _ _ sa sb _ table => octS sa && tableS table sb
  | .mloop _ _ sa sb sc _ _ _ table => octS sa && quadS sb && tableS table sc
  | .put _ _ sa _ sc _ sig _ => quadS sa && pairS sc && (sig || sc.val == 0)
  | .get _ _ sa _ sc _ sig _ => quadS sa && pairS sc && (sig || sc.val == 0)
  | .putred _ _ sa _ sc aop d sig chunk _ circ circle =>
      quadS sa && pairS sc && (sig || sc.val == 0) && aop.inRed && (!d || aop.allows .d) &&
      (if circ then !sig && chunk.val == 0 else circle.val == 0)
  | .mcst _ _ sa sb _ => pairS sa && pairS sb
  | .circrd _ sd _ _ => pairS sd
  | .spawn _ sa => blockS sa
  | .timeat _ sa sb => pairS sa && pairS sb
  | .perfrd _ sd _ => pairS sd
  | _ => true

/-- The rows of the table that are instruction words (R63); the others are operations and events of spec/95. -/
def Instr.isCode : Instr → Bool
  | .loadResult _ | .storePerform _ | .atomicPerform _ | .custodyReturn _ | .channelAccess .. | .refreshTick _
  | .refreshIssue _ | .scrubRow .. | .completionTimeout .. | .linkDown _ | .linkUpReport _ | .fabricTimeout _
  | .remoteRequest _ | .fqdoneMapped _ | .fqdoneFatal _ | .millldSwitch _ | .millbindComplete _ | .millstatSample _
  | .millWriteBeat _ | .tileAbandoned _ | .stflushComplete _ | .carterTileStart _ | .carterTileEnd .. | .gathComplete _
  | .scatComplete _ | .sinterComplete _ | .mdecComplete _ | .mmbHalfComplete _ | .moutHalfComplete _ | .mjoinMerge _
  | .mloopStep _ | .qscaleComplete _ | .qsplitComplete _ | .qdeqComplete _ | .cldComplete _ | .cstComplete _
  | .transferChunk .. | .circleRecordSend _ | .crierStamp _ | .circleApply _ | .circleGapTimeout _
  | .circleBrokenReceive _ | .circctlActive .. | .circctlBroken .. | .signalAdd _ | .triggerFire _ | .ptpSyncMessage _
  | .timefreeTimeout | .timefreeExit | .dtimeLoad _ | .launchSlotWrite .. | .heldSlotEnter _ | .spawnEnter _
  | .gridFeed _ | .queueAgeing _ | .teamPlace _ | .timerWheelSlot _ | .teamEnd .. | .gridComplete _
  | .completionSignalAdd _ | .deadlockDetect .. | .napExpire .. | .barwTimeout .. | .sigwaitDeadline ..
  | .fenceComplete _ | .stunmapComplete _ | .preemptReq | .contextSave | .preemptRestore | .haltBroadcast | .dumpWrite
  | .preemptTimeout | .sensorPoll .. | .powerAverage _ | .telemetryMonitor _ | .sampleInterval _ | .reset _
  | .svnRaise _ | .attreq | .dbgload | .dbgctlStop .. | .dbgctlStep .. | .dbgctlResume .. | .readbackRequest ..
  | .checkpoint .. | .reload .. | .btsync _ | .ptsync _ | .fqnextRead | .lrejectRead | .refdebtRead _ | .cwinWrite _
  | .classWindowWrite .. | .windowCRead .. | .windowCWrite .. | .registerWrite .. | .lifeCycleAdvance
  | .fabricPortDown _ => false
  | _ => true

end Sys2Proof
end

