-- ==== Sys2Proof/Machine/Operands.lean ====
section
/-! DEFINITION. What each instruction word names and how it issues: lane registers and tiles (R50), uniform registers, the guard
(R66), the collective mark (R63, R282), the privileged encodings (R64) and the instructions that drain lookahead windows (R69). -/

namespace Sys2Proof.Machine

open Sys2Proof

/-- Registers of a pair or quadruple by width (R49). -/
def span (r : Nat) (n : Nat) : List Nat := (List.range n).map (r + ·)

/-- Lane registers a word names in any register field, every register of a pair or quadruple counted (R50, R68). -/
def laneNames : Instr → List Nat
  | .iadd _ d a b | .isub _ d a b | .imul _ d a b | .imulhs _ d a b | .imulhu _ d a b | .imin _ d a b | .imax _ d a b
  | .umin _ d a b | .umax _ d a b | .and _ d a b | .or _ d a b | .xor _ d a b | .andn _ d a b | .shl _ d a b | .shr _ d a b
  | .sar _ d a b | .rotl _ d a b | .fadd _ d a b | .fsub _ d a b | .fmul _ d a b | .fmin _ d a b | .fmax _ d a b
  | .hadd2 _ d a b | .hmul2 _ d a b | .hmax2 _ d a b | .pkbf _ d a b | .sel _ d a b => [d, a, b]
  | .popc _ d a | .clz _ d a | .brev _ d a | .mov _ d a | .frcp _ d a | .frsq _ d a | .fsqrt _ d a | .fexp2 _ d a
  | .flog2 _ d a | .cvtif _ d a | .cvtfi _ d a | .upbfl _ d a | .upbfh _ d a | .fabs _ d a | .fneg _ d a => [d, a]
  | .lane _ d => [d]
  | .iaddi _ d a _ => [d, a]
  | .limm _ d _ => [d]
  | .imad _ d a b c _ wide => if wide then [d, d.val + 1, a, b, c, c.val + 1] else [d, a, b, c]
  | .ffma _ d a b c .. => [d, a, b, c]
  | .hfma2 _ d a b c .. => [d, a, b, c]
  | .icmp _ _ a b .. => [a, b]
  | .fcmp _ _ a b .. => [a, b]
  | .bfx _ d a .. => [d, a]
  | .bfi _ d a b .. => [d, a, b]
  | .idiv _ d a b .. => [d, a, b]
  | .irem _ d a b .. => [d, a, b]
  | .lea _ d _ vo .. => [d, d.val + 1, vo]
  | .cvt _ d a .. => [d, a]
  | .tidx _ d .. => [d]
  | .urand _ d a b _ => [d, a, b]
  | .shfi _ d a .. => [d, a]
  | .logi _ d a b c _ => [d, a, b, c]
  | .shfl _ d a b mode .. => if mode == .idx then [d, a, b] else [d, a]
  | .vote _ d a mode .. => if mode == .ballot then [d, d.val + 1, a] else [d, a]
  | .redl _ d a _ => [d, a]
  | .scanl _ d a .. => [d, a]
  | .bcast _ d a .. => [d, a]
  | .brx _ a => [a]
  | .ld _ d _ vo _ wd .. => vo :: span d wd.regs
  | .st _ d _ vo wd .. => vo :: span d wd.regs
  | .lds _ d _ vo _ wd _ => vo :: span d wd.regs
  | .sts _ d _ vo wd _ => vo :: span d wd.regs
  | .atom _ d a _ vo _ wd .. => vo :: (span d wd.regs ++ span a wd.regs)
  | .red _ a _ vo wd .. => vo :: span a wd.regs
  | .atoms _ d a _ vo _ wd .. => vo :: (span d wd.regs ++ span a wd.regs)
  | .pf _ _ vo .. => [vo]
  | .refill _ d _ => [d]
  | .rdlane _ _ r .. => [r]
  | _ => []

/-- Uniform registers a word reads. -/
def sReads : Instr → List Nat
  | .lea _ _ hs .. | .ld _ _ hs .. | .st _ _ hs .. | .lds _ _ hs .. | .sts _ _ hs .. | .atom _ _ _ hs .. | .red _ _ hs ..
  | .atoms _ _ _ hs .. | .pf _ hs .. => [hs]
  | .sadd _ _ a b | .ssub _ _ a b | .smul _ _ a b | .sand _ _ a b | .sor _ _ a b | .sxor _ _ a b | .sshl _ _ a b
  | .sshr _ _ a b | .ssar _ _ a b => [a, b]
  | .smin _ _ a b _ | .smax _ _ a b _ => [a, b]
  | .smov _ _ a => [a]
  | .scmp _ _ a b .. => [a, b]
  | .scmpi _ _ a .. => [a]
  | .twait _ a _ => [a]
  | .ttest _ _ a _ => [a]
  | .trap _ a _ => [a]
  | .cpermit _ a _ => [a]
  | .saddi _ _ a _ => [a]
  | .sld _ _ a b .. => [a, b]
  | .sst _ d a b wd .. => a :: b :: span d wd.regs
  | .brc _ d _ => [d]
  | .jmpu _ a => [a]
  | .syswr _ a _ => [a]
  | .mset _ a _ => [a, a.val + 1]
  | .bari _ a b c _ => [a, b, c]
  | .bara _ _ a b c _ n => if n.val = 0 then [a, b, c] else [a, b]
  | .barw _ _ a b c .. => [a, b, c]
  | .sigadd _ a b c d .. => if d then [a, b, c, c.val + 1] else [a, b, c]
  | .sigwait _ _ a b c .. => [a, b, c, c.val + 1]
  | .stmap _ a b c .. => [a, b, c]
  | .stunmap _ a _ => [a]
  | .stflush _ _ a b all _ => if all then [] else [a, b]
  | .cpy _ _ a => span a 16
  | .gath _ _ a b c _ => [a, a.val + 1, b, b.val + 1, c]
  | .scat _ _ a b c .. => [a, a.val + 1, b, b.val + 1, c]
  | .sinter _ _ a b c _ => span a 4 ++ [b.val, b.val + 1, c.val, c.val + 1]
  | .mdec _ _ a b c .. => [a, b, c, c.val + 1]
  | .millld _ _ a b .. => [a, b]
  | .millbind _ _ a .. => [a]
  | .millstat _ _ a b .. => [a, b]
  | .qscale _ _ a b c _ => [a, a.val + 1, b, b.val + 1, c]
  | .qsplit _ _ a b _ => [a, a.val + 1, b, b.val + 1]
  | .qdeq _ _ a b .. => [a, a.val + 1, b, b.val + 1]
  | .mmb _ _ a b _ _ t => span a 8 ++ (if t then span b 4 else [])
  | .mout _ _ a b _ t => span a 8 ++ (if t then span b 4 else [])
  | .mloop _ _ a b c _ _ _ t => span a 8 ++ span b 4 ++ (if t then span c 4 else [])
  | .cld _ _ a b .. => [a, b]
  | .cst _ _ a b .. => [a, b]
  | .put _ _ a b c ss sig _ => (if ss then [a.val + 1, a.val + 2, a.val + 3] else span a 4) ++ b.val :: (if sig then [c.val, c.val + 1] else [])
  | .get _ _ a b c ds sig _ => (if ds then [a.val, a.val + 1, a.val + 3] else span a 4) ++ b.val :: (if sig then [c.val, c.val + 1] else [])
  | .putred _ _ a b c _ _ sig _ ss .. => (if ss then [a.val + 1, a.val + 2, a.val + 3] else span a 4) ++ b.val :: (if sig then [c.val, c.val + 1] else [])
  | .mcst _ _ a b _ => [a, a.val + 1, b, b.val + 1]
  | .trigset _ a b c => [a, b, c]
  | .trigclr _ _ a _ => [a]
  | .spawn _ a => span a 16
  | .iqfill _ _ a b _ => [a, b]
  | .timeat _ a b => [a, a.val + 1, b, b.val + 1]
  | _ => []

/-- Uniform registers a word writes, tokens among them. -/
def sWrites : Instr → List Nat
  | .sadd _ d .. | .ssub _ d .. | .smul _ d .. | .sand _ d .. | .sor _ d .. | .sxor _ d .. | .sshl _ d .. | .sshr _ d ..
  | .ssar _ d .. | .smov _ d _ | .smin _ d .. | .smax _ d .. | .ttest _ d .. | .saddi _ d .. | .sli _ d _ | .brc _ d _
  | .rdlane _ d .. | .bara _ d .. | .barw _ d .. | .stflush _ d .. | .cpy _ d _ | .gath _ d .. | .scat _ d ..
  | .sinter _ d .. | .mdec _ d .. | .millld _ d .. | .millbind _ d .. | .millstat _ d .. | .qscale _ d .. | .qsplit _ d ..
  | .qdeq _ d .. | .mmb _ d .. | .mout _ d .. | .mjoin _ d .. | .mloop _ d .. | .cld _ d .. | .cst _ d .. | .cstat _ d ..
  | .put _ d .. | .get _ d .. | .putred _ d .. | .mcst _ d .. | .trigclr _ d .. | .iqfill _ d .. => [d]
  | .sld _ d _ _ _ wd .. => span d wd.regs
  | .sysrd _ d _ dbl => if dbl then [d, d.val + 1] else [d]
  | .mget _ d _ => [d, d.val + 1]
  | .sigwait _ d .. => [d, d.val + 1]
  | .circrd _ d .. => [d, d.val + 1]
  | .perfrd _ d _ => [d, d.val + 1]
  | _ => []

/-- Uniform registers that the fields of a word name (R68): also the one of a block that a stash side leaves unread. -/
def sNames (i : Instr) : List Nat :=
  sReads i ++ sWrites i ++ match i with
    | .put _ _ a _ _ ss .. => if ss then [a.val] else []
    | .putred _ _ a _ _ _ _ _ _ ss .. => if ss then [a.val] else []
    | .get _ _ a _ _ ds .. => if ds then [a.val + 2] else []
    | _ => []

/-- Accumulator tiles a word names (R50). -/
def tileNames : Instr → List Nat
  | .mjoin _ _ _ ct => [ct]
  | .mloop _ _ _ _ _ ct .. => [ct]
  | .czero _ ct => [ct]
  | .cld _ _ _ _ ct _ => [ct]
  | .cst _ _ _ _ ct .. => [ct]
  | .cstat _ _ ct _ => [ct]
  | _ => []

/-- How a word is guarded (R66): by a lane guard, in every lane (SEL), or by a uniform guard. -/
inductive GuardKind where
  | lane (reg : Nat) (neg : Bool)
  | all
  | unif (reg : Nat) (neg : Bool)
  deriving DecidableEq, Repr

def guardOf : Instr → GuardKind
  | .iadd g .. | .isub g .. | .imul g .. | .imulhs g .. | .imulhu g .. | .imin g .. | .imax g .. | .umin g .. | .umax g ..
  | .and g .. | .or g .. | .xor g .. | .andn g .. | .shl g .. | .shr g .. | .sar g .. | .rotl g .. | .popc g .. | .clz g ..
  | .brev g .. | .mov g .. | .fadd g .. | .fsub g .. | .fmul g .. | .fmin g .. | .fmax g .. | .frcp g .. | .frsq g ..
  | .fsqrt g .. | .fexp2 g .. | .flog2 g .. | .hadd2 g .. | .hmul2 g .. | .hmax2 g .. | .cvtif g .. | .cvtfi g ..
  | .pkbf g .. | .upbfl g .. | .upbfh g .. | .lane g .. | .fabs g .. | .fneg g .. => .lane g false
  | .sel .. => .all
  | .iaddi g .. | .limm g .. | .imad g .. | .ffma g .. | .hfma2 g .. | .icmp g .. | .fcmp g .. | .bfx g .. | .bfi g ..
  | .idiv g .. | .irem g .. | .lea g .. | .cvt g .. | .tidx g .. | .urand g .. | .shfi g .. | .logi g .. | .shfl g ..
  | .vote g .. | .redl g .. | .scanl g .. | .bcast g .. | .br g .. | .brx g .. | .call g .. | .ld g .. | .st g .. | .lds g ..
  | .sts g .. | .atom g .. | .red g .. | .atoms g .. | .pf g .. | .refill g .. => .lane g.reg g.neg
  | .nop z | .sadd z .. | .ssub z .. | .smul z .. | .sand z .. | .sor z .. | .sxor z .. | .sshl z .. | .sshr z .. | .ssar z ..
  | .smov z .. | .smin z .. | .smax z .. | .scmp z .. | .twait z .. | .ttest z .. | .join z .. | .leave z .. | .waitm z ..
  | .yield z | .exit z | .ret z | .eret z .. | .bkpt z .. | .trap z .. | .cpermit z .. => .unif z false
  | .saddi u .. | .sli u .. | .sld u .. | .sst u .. | .bra u .. | .brc u .. | .callu u .. | .jmpu u .. | .sysrd u ..
  | .syswr u .. | .rdlane u .. | .mget u .. | .mset u .. | .break u .. | .scmpi u .. | .fence u .. | .bari u .. | .bara u ..
  | .barw u .. | .sigadd u .. | .sigwait u .. | .stmap u .. | .stunmap u .. | .stflush u .. | .cpy u .. | .gath u ..
  | .scat u .. | .sinter u .. | .mdec u .. | .millld u .. | .millbind u .. | .millstat u .. | .qscale u .. | .qsplit u ..
  | .qdeq u .. | .mmb u .. | .mout u .. | .mjoin u .. | .mloop u .. | .czero u .. | .cld u .. | .cst u .. | .cstat u ..
  | .put u .. | .get u .. | .putred u .. | .mcst u .. | .circrd u .. | .trigset u .. | .trigclr u .. | .spawn u ..
  | .iqfill u .. | .timeat u .. | .nap u .. | .perfrd u .. => .unif u.reg u.neg
  | _ => .all

/-- Whether a word is in the lane set (R54). -/
def isLaneSet (i : Instr) : Bool :=
  match guardOf i with
  | .unif .. => false
  | _ => true

/-- The C mark of R63. -/
def collective : Instr → Bool
  | .bara .. | .barw .. | .stmap .. | .stunmap .. | .cpy .. | .gath .. | .scat .. | .sinter .. | .mdec .. | .qscale ..
  | .qsplit .. | .qdeq .. | .mmb .. | .mout .. | .mjoin .. | .mloop .. | .czero .. | .cld .. | .cst .. | .cstat ..
  | .mcst .. => true
  | _ => false

/-- Barriers reconverge the gang first (R283). -/
def reconverges : Instr → Bool
  | .bara .. | .barw .. => true
  | _ => false

/-- The instructions of R69. -/
def drains : Instr → Bool
  | .br .. | .brx .. | .call .. | .bra .. | .brc .. | .callu .. | .jmpu .. | .ret .. | .break .. | .refill .. | .eret ..
  | .twait .. | .waitm .. | .bara .. | .barw .. | .sigwait .. | .nap .. | .spawn .. | .timeat .. | .yield .. | .exit ..
  | .trap .. | .bkpt .. => true
  | _ => false

/-- System registers whose access is Handler (R52). -/
def handlerRegs : List Nat :=
  [0x018, 0x019, 0x01A, 0x01C, 0x021, 0x022, 0x028, 0x040, 0x041, 0x042, 0x043, 0x044, 0x045, 0x046, 0x047, 0x048]

/-- R64: ERET, and SYSWR of a Handler register. -/
def privileged : Instr → Bool
  | .eret .. => true
  | .syswr _ _ n => handlerRegs.contains n.toNat
  | _ => false

/-- Bytes of the word at a PC (R55). -/
def codeBytes (i : Instr) : Nat :=
  match i with
  | .iaddi .. | .limm .. | .imad .. | .ffma .. | .hfma2 .. | .icmp .. | .fcmp .. | .bfx .. | .bfi ..
  | .idiv .. | .irem .. | .lea .. | .cvt .. | .tidx .. | .urand .. | .shfi .. | .logi .. | .shfl ..
  | .vote .. | .redl .. | .scanl .. | .bcast .. | .br .. | .brx .. | .call .. | .ld .. | .st .. | .lds ..
  | .sts .. | .atom .. | .red .. | .atoms .. | .pf .. | .refill .. => 8
  | .saddi .. | .sli .. | .sld .. | .sst .. | .bra .. | .brc .. | .callu .. | .jmpu .. | .sysrd ..
  | .syswr .. | .rdlane .. | .mget .. | .mset .. | .break .. | .scmpi .. | .fence .. | .bari .. | .bara ..
  | .barw .. | .sigadd .. | .sigwait .. | .stmap .. | .stunmap .. | .stflush .. | .cpy .. | .gath ..
  | .scat .. | .sinter .. | .mdec .. | .millld .. | .millbind .. | .millstat .. | .qscale .. | .qsplit ..
  | .qdeq .. | .mmb .. | .mout .. | .mjoin .. | .mloop .. | .czero .. | .cld .. | .cst .. | .cstat ..
  | .put .. | .get .. | .putred .. | .mcst .. | .circrd .. | .trigset .. | .trigclr .. | .spawn ..
  | .iqfill .. | .timeat .. | .nap .. | .perfrd .. => 8
  | _ => 4

end Sys2Proof.Machine
end

