-- ==== Sys2Proof/Config.lean ====
section
/-! DEFINITION. What an implementation fixes or the spec leaves open: free values with no body, so that no proof can rest on one.
Each is named in the assumption log. -/

namespace Sys2Proof.Config

/-- Which of several permitted outcomes is taken (R13), by the number of the step and the question asked in it. -/
opaque choice : Nat → Nat → Nat

/-- Nanoseconds of device time that pass with the n-th step (R19: the rate of work to device time is not fixed). -/
opaque elapse : Nat → Nat

/-- Core cycles that pass with the n-th step (R19, R348). -/
opaque cycles : Nat → Nat

/-- The public key, a point of the curve, that has a given hash (R335, R339). -/
opaque publicKey : Nat → Nat × Nat

/-- Renward's signature of a digest; the flag selects the fixed RMA key (R337, R338). -/
opaque sign : Bool → Nat → List Byte

/-- SHA-384 of the device's identity public key, and of the boot ROM (R336, R337). -/
opaque identityHash : Nat
opaque romHash : Nat

/-- The fuse configuration as bytes, whose form the manual does not give: of the life-cycle state, the minimum SVN and the revoked key slots
(R335, R337, R338). -/
opaque fuseImage (lcstate minSvn : Nat) (revoked : List Nat) : List Byte

/-- The n-th nonce Renward draws (R339). -/
opaque nonce : Nat → List Byte

/-- The key hashes held in fuses: four firmware keys and the debug key (R335, R339). -/
opaque fuseKey : Nat → Nat
opaque debugKey : Nat

/-- The kinds of bitstream that R199 names: what the eight decoders accept, and what they do not support. -/
inductive Bitstream where
  | av1Main | hevcMain | hevcMain10 | av1High | av1Professional | largeScaleTile | hevcRange | hevcScalable | hevcMultiView
  deriving DecidableEq, Repr, Inhabited

/-- What a media decoder makes of one access unit (R199), from the codec, what the session holds (the bytes of its reference store and the
units since its reset, R203; nothing after a reset) and the unit's bytes: its kind; SHOWN, MONO, TEN, ERR; the picture size; ORDER and
CONCEALED; and each plane's samples. The AV1 and HEVC standards are not part of the spec's text. -/
opaque decodeKind (codec : Nat) (earlier : List (List Byte)) (unit : List Byte) : Bitstream
opaque decodeStatus (codec : Nat) (earlier : List (List Byte)) (unit : List Byte) : Bool × Bool × Bool × Nat
opaque decodeSize (codec : Nat) (earlier : List (List Byte)) (unit : List Byte) : Nat × Nat
opaque decodeOrder (codec : Nat) (earlier : List (List Byte)) (unit : List Byte) : Word × Word
opaque decodeSample (codec : Nat) (earlier : List (List Byte)) (unit : List Byte) (plane x y : Nat) : Nat

/-- The cause recorded for a halt that no instruction raised: a pre-emption that failed or passed its time (R319, R347). -/
opaque haltCause : Nat

/-- Bytes whose form the manual does not fix (R325, R340, R386): implementation state of staging slots, Mill and engine images. -/
opaque implByte : Nat → Nat → Byte

/-- The DER certificate readable at window A (R336). -/
opaque certificate : Nat → Byte

end Sys2Proof.Config
end

