-- ==== Sys2Proof/Machine/Tbl.lean ====
section
/-! DEFINITION. Sparse tables keyed by numbers, and memory as a list of cells in one canonical form. -/

namespace Sys2Proof.Machine

/-- A sparse table: entries in rising key order; an unlisted key reads as a default the reader names. -/
abbrev Tbl (α : Type) := List (Nat × α)

namespace Tbl

variable {α : Type}

def find? : Tbl α → Nat → Option α
  | [], _ => none
  | (j, x) :: t, k => if j = k then some x else find? t k

def get (d : α) (t : Tbl α) (k : Nat) : α := (find? t k).getD d

/-- The entry at k replaced, or inserted at its place. -/
def set : Tbl α → Nat → α → Tbl α
  | [], k, x => [(k, x)]
  | (j, y) :: t, k, x =>
    if j = k then (k, x) :: t else if k < j then (k, x) :: (j, y) :: t else (j, y) :: set t k x

def erase : Tbl α → Nat → Tbl α
  | [], _ => []
  | (j, y) :: t, k => if j = k then erase t k else (j, y) :: erase t k

def mem (t : Tbl α) (k : Nat) : Bool := (find? t k).isSome
def keys (t : Tbl α) : List Nat := t.map Prod.fst
def vals (t : Tbl α) : List α := t.map Prod.snd

/-- The lowest key not below `from` and below `from + n` that is unlisted. -/
def freeKey (t : Tbl α) (n : Nat) : Option Nat := (List.range n).find? fun k => !mem t k

end Tbl

/-- Memory: cells at strictly rising addresses, none holding what an unlisted address reads as. -/
abbrev Memory := List Host.Cell

namespace Memory

/-- What an unlisted address reads as: zero (DESIGN CHOICE, assumption 2). -/
def unlisted : Byte := 0

def read (m : Memory) (a : Nat) : Byte := Tbl.get unlisted m a

def write : Memory → Nat → Byte → Memory
  | [], a, b => if b = unlisted then [] else [(a, b)]
  | (j, y) :: t, a, b =>
    if j = a then (if b = unlisted then t else (a, b) :: t)
    else if a < j then (if b = unlisted then (j, y) :: t else (a, b) :: (j, y) :: t)
    else (j, y) :: write t a b

def readBytes (m : Memory) (a : Nat) : Nat → List Byte
  | 0 => []
  | n + 1 => read m a :: readBytes m (a + 1) n

def writeBytes (m : Memory) (a : Nat) : List Byte → Memory
  | [] => m
  | b :: bs => writeBytes (write m a b) (a + 1) bs

/-- Strictly rising addresses above a bound, no default bytes. -/
def wfAbove : Nat → Memory → Bool
  | _, [] => true
  | lo, (a, b) :: t => decide (lo ≤ a) && b != unlisted && wfAbove (a + 1) t

/-- The canonical form. -/
def wf (m : Memory) : Bool := wfAbove 0 m

end Memory

end Sys2Proof.Machine
end

