-- ==== Sys2Proof/Machine/State.lean ====
section
/-! DEFINITION. The state of one Q6: the device, the resident context, the saved contexts, the inputs that wait at its ports, and
the model's own counters. Plain data throughout. INVENTORY.md lists every piece with the rule that names it. -/

namespace Sys2Proof.Machine

/-- Why the machine stops with a fault. -/
inductive Fault where
  /-- Raised by every instruction word executed with no issue slot in hand (State.cur is none). The step never does this; an
  instruction of the Q6 has no effect outside an issue slot (R272). Safe: it only withholds an effect. -/
  | noIssuingSet
  deriving DecidableEq, Repr

/-- Why an instruction has no meaning in this model. -/
inductive Refusal where
  /-- Raised by an arm of exec that has no meaning yet. No arm raises it now. Safe: nothing can be proved of such a run. -/
  | notModelled (mnemonic : String)
  /-- Raised by `step` never; kept for a word that decodes to no instruction of R63, which traps instead (R65). Safe. -/
  | undecodable
  deriving DecidableEq, Repr

/-- An error found by an access: its cause (R312), the bref of the first faulting byte, and the TINFO bits it sets (R315). -/
structure Err where
  cause : Nat
  addr : Nat
  info : Nat
  deriving DecidableEq, Repr

/-- A trap as it is raised (R314). `seq` places its instruction in issue order (R70). -/
structure Trap where
  cause : Nat
  tpc : Nat
  tresume : Nat
  addr : Nat
  lanes : Lanes
  info : Nat
  seq : Nat
  deriving DecidableEq, Repr

inductive Cond where
  | running | blocked | exited
  deriving DecidableEq, Repr

/-- What a blocked lane waits in (R272, R385). Deadlines are device times, or a core cycle count for BARW. -/
inductive Wait where
  | none
  | waitm (m : Nat) (clr : Bool)
  | reconv
  | nap (deadline : Nat)
  | twait (reg : Nat)
  | sigwait (deadline : Nat)
  | bara
  | barw (cycle : Option Nat)
  | spawn
  | timeat
  | debug
  deriving DecidableEq, Repr

/-- A lookahead window: the access whose result it waits for, and how many instructions it still covers (R68). -/
structure Window where
  acc : Nat
  left : Nat
  deriving DecidableEq, Repr

/-- One lane (R272, R277, R48). `hold` names the record of an instruction that holds the lane without blocking it (FENCE,
STUNMAP, R384); `resumeAt` is TRESUME of a retry that ERET has sent the lane to (R318); `age` is its ageing count (R273). -/
structure Lane where
  pc : Nat
  cond : Cond
  wait : Wait
  hold : Option Nat
  stack : List Nat
  v : Tbl Word
  g : BitVec 8
  wins : List Window
  resumeAt : Option Nat
  age : Nat
  deriving DecidableEq, Repr

/-- A lane (64 for the uniform stream) has read or written bytes of a location at an instant (R165, R169). -/
structure Touch where
  lane : Nat
  loc : Nat
  n : Nat
  at' : Nat
  deriving DecidableEq, Repr

/-- What has been ordered before a gang's later accesses (R169, R171, R175, R383), for each lane, and under 64 for the uniform stream; instants
count steps. `placed` is the gang's placement; `since` when a lane's window for fetches opened, `floor` the instant before which no later
load is served (under 65 for all of them); `acq` and `raise` the lanes whose last word was a FENCE.acq naming LSU, or a word that orders their
later accesses; `stamps` when the load that a register's value depends on was served; `dep` the latest stamp of the address registers of the load
in hand, by lane; `touched` what bytes a lane has read or written, and when. The model's own fields (DEDUCED, assumption 68). -/
structure Order where
  placed : Nat
  since : Tbl Nat
  floor : Tbl Nat
  acq : Lanes
  raise : Lanes
  stamps : Tbl Nat
  dep : Tbl Nat
  touched : List Touch
  deriving DecidableEq, Repr

/-- Bytes of memory that a write performed at an instant has replaced (R165). -/
structure Past where
  at' : Nat
  loc : Nat
  bytes : List Byte
  deriving DecidableEq, Repr

/-- Stash bytes that an engine's write on a path has replaced, for the gang that issued the engine's instruction (R173): the engine's job, whether
its token has been read, the paths whose reads are ordered after the write (`seen`), and for a Carter tile the barrier object it arrives at with
the phase of its arrive-end (R192). -/
structure StashPast where
  gang : Nat
  path : Nat
  team : Nat
  off : Nat
  bytes : List Byte
  job : Nat
  read : Bool
  seen : Nat
  obj : Option (Nat × Nat)
  deriving DecidableEq, Repr

/-- Pending WCT and error of a path and scope class (R176). `seq` is the issue order of the write that met the error. -/
structure StoreSet where
  wct : Nat
  err : Option Err
  logged : Bool
  seq : Nat
  deriving DecidableEq, Repr

/-- Trap registers of a gang (R52, R315). -/
structure TrapRegs where
  cause : Nat
  tpc : Nat
  tresume : Nat
  addr : Nat
  lanes : Lanes
  info : Nat
  deriving DecidableEq, Repr

/-- One gang. `engFault` and `engInfo` hold, by token register, the address and the TINFO detail that go with the token's cause; `unread`
holds, by token register, the writes of engines whose token is written and not yet read (R173). -/
structure Gang where
  live : Bool
  team : Nat
  gangIdx : Nat
  s : Tbl Word
  z : BitVec 4
  m : Tbl Lanes
  fflags : BitVec 5
  t : TrapRegs
  hmode : Bool
  hset : Lanes
  traps : Nat
  trapTime : Nat
  waitTrap : List Trap
  held : List Trap
  retry : Bool
  tokens : Tbl Nat
  unread : Tbl (List (Nat × StoreSet))
  engFault : Tbl Nat
  engInfo : Tbl Nat
  stores : Tbl StoreSet
  stopped : Bool
  stepOne : Bool
  yielded : Option Nat
  lastIssue : Nat
  lanes : Tbl Lane
  deriving DecidableEq, Repr

/-- A mapped stash region (R126, R132). -/
structure Region where
  so : Nat
  n : Nat
  handle : Nat
  off : Nat
  mode : MapMode
  deriving DecidableEq, Repr

/-- Fill state and dirty mask of a 64-byte stash sector (R127). -/
structure Sector where
  expiry : Option Nat
  dirty : BitVec 64
  poison : Bool
  deriving DecidableEq, Repr

/-- One resident team (R124, R126, R190, R299). Runs are pool byte addresses; `gone` keeps its retired gangs as they ended (R386). -/
structure Team where
  live : Bool
  grid : Nat
  teamIdx : Nat
  regRun : Nat
  stashRun : Nat
  saveRun : Nat
  tiles : List Nat
  gangSlots : List Nat
  permits : Tbl Nat
  maps : List Region
  sectors : Tbl Sector
  exited : Bool
  wct : Nat
  gone : List Gang
  deriving DecidableEq, Repr

/-- An accumulator tile: element (i, j) at 64 i + j, and its status word (R135, R244). -/
structure Tile where
  el : Tbl Word
  status : Nat
  deriving DecidableEq, Repr

inductive SlotState where
  | free | opened | joining
  deriving DecidableEq, Repr

/-- One outlier line of a step (R234): kind A or B, K, LINE, and its terms by partner. A term is an encoding: sign, magnitude and
exponent of an exact number, or a special. -/
inductive Term where
  | nan (nv : Bool)
  | inf (neg : Bool)
  | num (neg : Bool) (m : Nat) (e : Int)
  deriving DecidableEq, Repr

structure OutLine where
  k : Nat
  isB : Bool
  line : Nat
  terms : List (Nat × Term)
  deriving DecidableEq, Repr

/-- A step's identity: the step block and, in table mode, the 16 table bytes (R227, R233). -/
structure StepId where
  block : List Word
  table : Option (List Word)
  deriving DecidableEq, Repr

/-- A Joiner staging slot (R136, R228). `dense` holds the exact dense terms before their rounding, for the Assayer as well; the CRCs are
those of the bodies the Loom read whole and those the records hold where they are checked (R247). -/
structure Slot where
  state : SlotState
  owner : Nat
  step : StepId
  mmbIssued : Bool
  moutIssued : Bool
  mmbDone : Bool
  moutDone : Bool
  mmbErr : Option Err
  moutErr : Option Err
  dense : Tbl Term
  flags : BitVec 5
  lines : List OutLine
  bodyCrc : List (Option Nat)
  wantCrc : List (Option Nat)
  reserved : Option Nat
  deriving DecidableEq, Repr

/-- The HOLD latch of a core's Loom (R232). -/
structure Latch where
  gang : Nat
  fields : List Word
  body : List Byte
  scales : List Byte
  deriving DecidableEq, Repr

/-- A leased copy of a line in a core cache (R122). -/
structure CacheLine where
  expiry : Nat
  bytes : List Byte
  poison : List Bool
  deriving DecidableEq, Repr

/-- A team in a queue (R296): grid-table entry, TEAMIDX, priority, the instant and order it entered this level, how often it was
bypassed (R298). -/
structure QEntry where
  grid : Nat
  teamIdx : Nat
  prio : Nat
  at' : Nat
  seq : Nat
  bypassed : Nat
  deriving DecidableEq, Repr

/-- What a core holds for the context (R123, R135, R136, R232, R304, R296). `bad` names the 64-byte sectors of its memories, by their place in
the core block of R325, that have met an uncorrectable error (R319, R330). -/
structure Core where
  b1 : Nat
  b2 : Nat
  b3 : Nat
  pool : Memory
  acc : Tbl Tile
  slots : Tbl Slot
  latch : Option Latch
  items : List Word
  queue : List QEntry
  cache : Tbl CacheLine
  bad : List Nat
  deriving DecidableEq, Repr

/-- One issue slot (R272): the core, the gang slot, the issuing set, its PC, and whether a blocked instruction is made again. -/
structure Issue where
  core : Nat
  slot : Nat
  lanes : Lanes
  pc : Nat
  again : Bool
  deriving DecidableEq, Repr

/-- Counters and samplers of a core (R52, R247, R342, R345). `lastIssue` is the last slot of lane pipe 0 that issued and `lastCycle` its cycle,
what the sampler looks at; `issued` and `issuedU` count the lane words and the uniform words issued in this cycle (R206), `issuedBy` by gang
slot the lane words and four times the uniform words, and `why` holds, by gang slot, the reason of R343 for which a gang's groups did not issue
in the last cycle, and at 64 + 64 times the slot + a lane that of a running lane's group. -/
structure CoreDev where
  perfSel : Tbl Nat
  perf : Tbl Nat
  sampleCtl : Nat
  lfsr : Nat
  sampleAt : Nat
  lastIssue : Option Issue
  lastCycle : Nat
  issued : Nat
  issuedU : Nat
  issuedBy : Tbl Nat
  why : Tbl Nat
  assayStat : Nat
  assayCount : Nat
  deriving DecidableEq, Repr

/-- A grid-table entry (R294, R295). `record` is the 64 bytes of its launch record, `start` the WCT of the host writes that its teams wait
for (R180), `wct` the largest WCT of its own writes. -/
structure Grid where
  record : List Byte
  next : Nat
  unended : Nat
  cause : Nat
  nerr : Nat
  thandler : Nat
  spawnCore : Option Nat
  seq : Nat
  start : Nat
  wct : Nat
  signalDue : Option Nat
  crefId : Nat
  deriving DecidableEq, Repr

/-- A grid waiting in the timer wheel (R303). -/
structure WheelGrid where
  record : List Byte
  release : Nat
  seq : Nat
  spawnCore : Option Nat
  crefId : Nat
  deriving DecidableEq, Repr

inductive TrigState where
  | idle | armed | spent | faulted
  deriving DecidableEq, Repr

/-- A trigger entry (R267, R268); `grid` and `gridSeq` name the grid that armed it, `stamp` the arming; `due` is the WCT at which the fired
action starts (R269), and `look` tells that an evaluation of the signal waits for its page. -/
structure Trigger where
  image : List Byte
  state : TrigState
  fires : Nat
  cause : Nat
  gridId : Nat
  grid : Nat
  gridSeq : Nat
  stamp : Nat
  due : Option Nat
  look : Bool
  deriving DecidableEq, Repr

inductive CircState where
  | free | active | broken
  deriving DecidableEq, Repr

/-- An order-circle slot (R261 to R266), with the Crier's queue, the counts members reported to it, the incarnation each last reported ACTIVE
under, and its list of their device ids. `doing` says
that the record of sequence `applied` is performed and not yet counted, `waits` that its apply waits for a page. -/
structure Circle where
  state : CircState
  crier : Bool
  err : Bool
  index : Nat
  last : Nat
  incarn : Nat
  gapus : Nat
  applied : Nat
  issued : Nat
  brokenAt : Nat
  bvalid : Bool
  applyErr : Nat
  window : Tbl CircleRec
  gapSince : Option Nat
  doing : Bool
  waits : Bool
  lastWct : Nat
  queue : List CircleRec
  nextSeq : Nat
  counts : Tbl Nat
  ready : Tbl Nat
  members : Tbl Nat
  deriving DecidableEq, Repr

/-- A fault-queue record (R321) and whether the host has read its index. -/
structure FqRec where
  va : Nat
  buf : Nat
  wr : Bool
  gridId : Nat
  read : Bool
  order : Nat
  deriving DecidableEq, Repr

/-- A miss entry, keyed by page: the record posted for it, if any (R322). -/
structure Miss where
  rec' : Option Nat
  buf : Nat
  wr : Bool
  gridId : Nat
  deriving DecidableEq, Repr

/-- Kinds of access in flight. -/
inductive AccKind where
  | load | store | atom | red | lds | sts | atoms | sld | sst | div | writeBack | signal | prefetch
  deriving DecidableEq, Repr

/-- One lane's part of an access (lane 64 stands for the uniform stream; for a write-back it is the stash sector). -/
structure Req where
  lane : Nat
  off : Nat
  data : Nat
  expect : Nat
  deriving DecidableEq, Repr

/-- An access in flight: issued and not yet served or performed (R145, R155, R157, R259). `ent` is the buffer entry it was checked
against, where it was checked at issue (R82); it is not performed before device time `notBefore` (R308); `erred` says that one of its
writes has met an error, which stands for them all (R176); `stall` gives, by request, the page it waits for; `wrote` which bytes of each
sector its lanes have written, since together they may write a whole one (R91), or, of the beats of a write graph, which lanes wrote in each; `reply` names the device that
the outcome goes to, with the outcome so far; `gate` names the beats for which the GEN check of R84 is still to be made, since their page was missing at issue;
`out` names the lanes whose requests are at another device and not yet answered, all sent at `sent` (R144); `since` is the device time of its issue (R97); `after` the instant before which a lane's read is not served, for what its address depends on (R169). -/
structure Access where
  kind : AccKind
  path : Nat
  gang : Nat
  core : Nat
  team : Nat
  grid : Nat
  gridId : Nat
  handle : Nat
  wd : Width
  pol : Policy
  aop : Aop
  scope : Scope
  reg : Nat
  pc : Nat
  la : Nat
  reqs : List Req
  faults : List (Nat × Err)
  stall : Tbl Nat
  sent : Option Nat
  work : Option Nat
  notBefore : Nat
  ent : List Byte
  orphan : Bool
  erred : Bool
  wrote : Tbl (BitVec 64)
  reply : Option (Nat × StoreSet)
  gate : List Nat
  since : Nat
  after : Tbl Nat
  out : List Nat
  deriving DecidableEq, Repr

/-- A memory or stash side of a transfer. -/
structure Side where
  stash : Bool
  handle : Nat
  off : Nat
  deriving DecidableEq, Repr

inductive XferOp where
  | put | get | red (aop : Aop) (d : Bool)
  deriving DecidableEq, Repr

/-- Elements of one row of a tile that are still to be moved: the place of the first in the tile's order, source, destination, bytes. -/
structure TileRow where
  pos : Nat
  src : Nat
  dst : Nat
  n : Nat
  deriving DecidableEq, Repr

/-- A walk's tile in hand (R188, R191): its index, the teams it goes to whose arrive-start was made, the page it waits for, the step at which
it started (`born`), and what is still to be moved (`left`). -/
structure TileInHand where
  i3 : Nat
  teams : List Nat
  stall : Option Nat
  born : Nat
  left : List TileRow
  deriving DecidableEq, Repr

/-- The jobs of the engines. -/
inductive Job where
  | carter (d : List Word) (next : Nat) (hand : List TileInHand) (first : Nat) (stopped : Bool)
  | gath (h base idx n data : Nat) (wd : Width) (i cnt : Nat)
  | scat (h base idx n data : Nat) (wd : Width) (op : ScatOp) (i cnt : Nat)
  | sinter (h bound out cap offA lenA offB lenB : Nat) (emit : Bool) (a b cnt : Nat)
  | mdec (h off auOff auLen decoder : Nat) (taken : List (List Byte)) (row : Nat)
  | millld (h off slot gen : Nat)
  | millbind (h slot : Nat) (wr unbind : Bool)
  | millstat (h off slot : Nat) (clr : Bool)
  | qscale (h t so pitch dst : Nat) (bf : Bool)
  | qsplit (h t so pitch : Nat) (bf : Bool) (lines : List (List Nat))
  | qdeq (h t so pitch pq : Nat) (bf : Bool)
  | mmb (step : StepId) (slot : Nat) (hold : Bool)
  | mout (step : StepId) (slot : Nat)
  | mjoin (slot ct : Nat)
  | mloop (step : StepId) (loop : List Word) (ct s0 : Nat) (two : Bool) (j : Nat) (ph0 : List Nat)
  | cld (so pitch ct : Nat) (bf : Bool)
  | cst (so pitch ct : Nat) (bf clr : Bool)
  | xfer (op : XferOp) (src dst : Side) (n chunk : Nat) (sig : Option (Nat × Nat)) (left : List Nat) (adds : List (List Nat × Nat × Nat))
  | circle (rec' : CircleRec) (circle : Nat) (src : Side) (n : Nat) (sent : Bool) (seq : Option Nat)
  | stflush (sectors : List Nat) (inv : Bool) (count lo n : Nat)
  deriving DecidableEq, Repr

/-- The teams that a walk's tiles in hand go to, renamed. -/
def Job.mapTeams (f : Nat → Nat) : Job → Job
  | .carter d next hand first stopped => .carter d next (hand.map fun t => { t with teams := t.teams.map f }) first stopped
  | j => j

/-- The job of one asynchronous instruction: its token register, who is charged, and the first cause met. `errs` holds the addresses of
the writes that met an error. `fin` holds the token's
cause and count and the fault address once the engine is done and only its writes are awaited, `due` the device time before which the
token is not written. `trigger` names the entry whose action it is, the arming and the sequence of the requester grid (R270). `info` is the TINFO detail of the cause; `parts` the written bytes (handle, offset, bytes) of beats of a write graph that are not
whole yet (R105); `since` the device time at which it was handed over (R97), and `born` the step: what the
job reads may have been read at any instant since (R13). Of a transfer, `begun` holds the chunks that have started and `failed` the one whose
cause is recorded (R256). -/
structure Work where
  job : Job
  op10 : Nat
  gang : Nat
  core : Nat
  team : Nat
  grid : Nat
  gridId : Nat
  tok : Nat
  cause : Nat
  faultAt : Nat
  stores : List (Nat × StoreSet)
  errs : List Nat
  stall : Option Nat
  sent : Option Nat
  fin : Option (Nat × Nat × Nat)
  due : Option Nat
  trigger : Option (Nat × Nat × Nat)
  orphan : Bool
  info : Nat
  parts : List (Nat × Nat × List Byte)
  since : Nat
  born : Nat
  begun : List Nat
  failed : Option Nat
  deriving DecidableEq, Repr

/-- A read sent to another device for an access or an engine, and its answer once it is there (R251); `bad` is the offset of the first byte
that failed. -/
structure Reply where
  dev : Nat
  buf : Nat
  off : Nat
  n : Nat
  sent : Nat
  done : Bool
  bytes : List Byte
  cause : Nat
  info : Nat
  wct : Nat
  bad : Nat
  deriving DecidableEq, Repr

/-- An instruction that holds its lanes until a completion event: FENCE, STUNMAP, SIGADD.rel, a SPAWN or TIMEAT
seeking a place, or one that waits for a page or for another device. -/
inductive HoldKind where
  | fence (paths : Nat) (scope : Scope) (rel acq : Bool)
  | stunmap (so : Nat) (drop : Bool)
  | sigadd (paths : Nat) (scope : Scope) (h off v : Nat)
  | spawn (record : List Byte)
  | page (page : Nat)
  | remote
  deriving DecidableEq, Repr

structure Hold where
  kind : HoldKind
  gang : Nat
  lanes : Lanes
  pc : Nat
  accs : List Nat
  err : Option Err
  deriving DecidableEq, Repr

/-- A context-error-log entry (R323). -/
structure LogEntry where
  cause : Nat
  detail : Nat
  source : Nat
  gridId : Nat
  core : Nat
  gangIdx : Nat
  addr : Nat
  time : Nat
  index : Nat
  deriving DecidableEq, Repr

/-- A line in custody of a cluster (R154), with the gangs and grids whose atomics it holds. -/
structure Custody where
  cluster : Nat
  since : Nat
  ret : Bool
  users : List (Nat × Nat)
  deriving DecidableEq, Repr

/-- An encode tile context of a Mill (R109), with the backing that its view had when its first beat was checked (R82). Once its close has encoded the tile and made the reservation (R40), `left` holds what is still
to be written, as handle, offset and bytes, and `wrote` the outcome of what has been. -/
structure TileCtx where
  view : Nat
  back : Nat
  tile : Nat
  gen : Nat
  gridId : Nat
  beats : Tbl (List Byte)
  fail : Option Err
  waiters : List (Nat × Nat)
  last : Nat
  left : Option (List (Nat × Nat × List Byte))
  wrote : StoreSet
  deriving DecidableEq, Repr

/-- What one Mill keeps for one slot (R99, R103, R116). -/
structure MillPart where
  stats : List Nat
  flags : BitVec 5
  crc : Tbl Nat
  bstat : Tbl Nat
  beats : Nat
  errs : Nat
  lastDetail : Nat
  lastErrAt : Nat
  tiles : Nat
  abandoned : Nat
  ctxs : List TileCtx
  deriving DecidableEq, Repr

/-- A Mill slot, the same in all 256 Mills (R99). -/
structure MillSlot where
  gen : Option Nat
  image : List Byte
  draining : Option (Nat × List Byte)
  binds : List (Nat × Bool)
  deriving DecidableEq, Repr

/-- The escalation that halts a context (R319, R327). -/
structure Halt where
  cause : Nat
  nested : Bool
  gridId : Nat
  core : Nat
  gangIdx : Nat
  trap : Trap
  time : Nat
  broadcast : Bool
  deriving DecidableEq, Repr

/-- Lane, gang, team and grid state of the context. -/
structure Ctx where
  gangs : Tbl Gang
  teams : Tbl Team
  cores : Tbl Core
  grids : Tbl Grid
  wheel : List WheelGrid
  dieQ : Tbl (List QEntry)
  clusterQ : Tbl (List QEntry)
  triggers : Tbl Trigger
  circles : Tbl Circle
  fq : Tbl FqRec
  misses : Tbl Miss
  redHold : List Nat
  millSlots : Tbl MillSlot
  mills : Tbl MillPart
  accs : Tbl Access
  works : Tbl Work
  replies : Tbl (List Reply)
  holds : Tbl Hold
  custody : Tbl Custody
  sessions : Tbl (List (List Byte))
  order : Tbl Order
  stashOld : List StashPast
  poolPast : List Past
  log : List LogEntry
  logWrite : Nat
  logDropped : Nat
  logSeen : List Nat
  nextId : Nat
  seq : Nat
  halt : Option Halt
  wct : Nat
  deriving DecidableEq, Repr

/-- A class window (R86). -/
structure ClassWin where
  wstart : Nat
  wsize : Nat
  err : Bool
  deriving DecidableEq, Repr

/-- A 64-byte sector of a line in L2 (R119). -/
structure L2Sector where
  valid : Bool
  dirty : Bool
  poison : Bool
  deriving DecidableEq, Repr

/-- A resident line of an L2 slice (R119) and its two sectors. -/
structure L2Line where
  lexp : Nat
  xdev : Bool
  lo : L2Sector
  hi : L2Sector
  deriving DecidableEq, Repr

/-- Refresh and repair state of a channel (R88, R89, R94); `hot` says that its stack was above 85 °C at the last reading. -/
structure Channel where
  debt : Int
  peak : Nat
  forced : Nat
  nextTick : Nat
  hot : Bool
  lost : Bool
  rowErrs : Tbl Nat
  sparesUsed : Tbl Nat
  remaps : Tbl Nat
  deriving DecidableEq, Repr

inductive SlotLoad where
  | empty
  | filling (bytes : Tbl Byte)
  | held (record : List Byte)
  deriving DecidableEq, Repr

/-- Launch registers (R292, R293). -/
structure Launch where
  slots : Tbl SlotLoad
  rejCause : Nat
  rejSlot : Nat
  rejCount : Nat
  rejDrop : Nat
  deriving DecidableEq, Repr

/-- The time unit (R162, R163). -/
structure TimeUnit where
  free : Bool
  lastSync : Nat
  goodSince : Option Nat
  offset : Int
  deriving DecidableEq, Repr

/-- A ring in host memory (R345, R346). -/
structure Ring where
  base : Nat
  size : Nat
  head : Nat
  tail : Nat
  drop : Nat
  deriving DecidableEq, Repr

/-- Power and thermal state (R347, R348). `temps` holds the last readings, in eighths of a degree: 96 of the cores' dies, 4 of the base, 32 of
the stacks. -/
structure Power where
  cap : Nat
  enabled : Bool
  step : Nat
  belowSince : Option Nat
  tripped : Bool
  overheated : Bool
  preemptAt : Option Nat
  nextMonitor : Nat
  temps : List Nat
  deriving DecidableEq, Repr

/-- Identity, attestation, debug (R335 to R341). -/
structure Security where
  lcstate : Nat
  bootstat : Nat
  minSvn : Nat
  revoked : List Nat
  fwSvn : Nat
  fwBody : List Byte
  debug : Nat
  nonceIndex : Nat
  attNonce : Tbl Nat
  attRep : List Byte
  token : Tbl Nat
  dbgLoad : Nat
  keyAlive : Bool
  attached : Bool
  deriving DecidableEq, Repr

/-- Pre-emption bits and dump registers (R321). -/
structure Pre where
  req : Bool
  done : Bool
  restore : Bool
  resident : Bool
  ctxBase : Nat
  dumpBase : Nat
  dumpSize : Nat
  deriving DecidableEq, Repr

/-- Registers of host window A without a block of their own, and the readback mailbox (R332, R340): `rbReq` holds the last request's unit, index,
offset and length, `dbgctl` the last action asked of debug control (R341). -/
structure HostRegs where
  devnum : Nat
  hosterr : Nat
  cwin : Nat
  msix : Nat
  btBase : Nat
  ptRoot : Nat
  ptClass : Nat
  hostTimeout : Nat
  farTimeout : Nat
  fabricTimeout : Nat
  assayPol : Nat
  assayN : Nat
  leaseNs : Nat
  fqDone : Nat
  rbDone : Bool
  rbReply : List Byte
  lastRead : List Byte
  rbReq : List Nat
  dbgctl : Nat
  deriving DecidableEq, Repr

/-- The copy that a checkpoint left (R331): of host memory alone or split with the far tier, the channels' bytes, their poison map, and the
contexts that the context areas among those bytes hold (R326). -/
structure Ckpt where
  both : Bool
  mem : Memory
  poison : Tbl Bool
  saved : Tbl Ctx
  deriving DecidableEq, Repr, Inhabited

/-- The device, which outlives contexts. `ckpt` is the copy of the last checkpoint (R331), `carried` the CTXBASEs of context areas that a reload
brought from another Q6 (R326); `fuseRemaps` the row remaps made at manufacture, by channel (R94); `idle` gives, by gang slot, the last core cycle at which the gang was seen with no ready group (R273). -/
structure Dev where
  dtime : Nat
  cycle : Nat
  mem : Memory
  past : List Past
  poison : Tbl Bool
  l2 : Tbl L2Line
  evmax : Tbl Nat
  classes : Tbl ClassWin
  btStale : Tbl (List Byte)
  tlb : Tbl (List Nat)
  channels : Tbl Channel
  fuseRemaps : Tbl (Tbl Nat)
  hostUp : Bool
  farUp : Bool
  ports : BitVec 18
  launch : Launch
  time : TimeUnit
  host : HostRegs
  pre : Pre
  sec : Security
  power : Power
  tel : Ring
  smp : Ring
  cores : Tbl CoreDev
  idle : Tbl Nat
  hostWct : Nat
  ckpt : Option Ckpt
  carried : List Nat
  outbox : List (Nat × List Byte)
  deriving DecidableEq, Repr

/-- The machine. `saved` holds the context areas that pre-emption wrote, by CTXBASE; `inputs` the operations of the outside world
that wait at the ports, oldest first; `eng` is the access or engine job whose request is being made; `cur` is the issue slot in hand; `ticks` counts steps, and the free values of Config are applied to it. -/
structure State where
  dev : Dev
  ctx : Ctx
  saved : Tbl Ctx
  cur : Option Issue
  eng : Option Nat
  inputs : List Instr
  ticks : Nat
  deriving DecidableEq, Repr

/-! Defaults of the tables, and reset. -/

def TrapRegs.zero : TrapRegs := ⟨0, 0, 0, 0, 0, 0⟩

/-- A lane as R51 starts it, at code offset pc. -/
def Lane.start (pc : Nat) : Lane :=
  { pc := pc, cond := .running, wait := .none, hold := none, stack := [], v := [], g := 0, wins := [], resumeAt := none, age := 0 }

/-- A lane no gang has. -/
def Lane.absent : Lane := { Lane.start 0 with cond := .exited }

def Gang.absent : Gang :=
  { live := false, team := 0, gangIdx := 0, s := [], z := 0, m := [], fflags := 0, t := .zero, hmode := false, hset := 0,
    traps := 0, trapTime := 0, waitTrap := [], held := [], retry := false, tokens := [], unread := [], engFault := [], engInfo := [],
    stores := [], stopped := false, stepOne := false, yielded := none, lastIssue := 0, lanes := [] }

def Team.absent : Team :=
  { live := false, grid := 0, teamIdx := 0, regRun := 0, stashRun := 0, saveRun := 0, tiles := [], gangSlots := [], permits := [],
    maps := [], sectors := [], exited := false, wct := 0, gone := [] }

def Sector.clean : Sector := ⟨none, 0, false⟩
def Tile.zero : Tile := ⟨[], 0⟩
def StepId.none : StepId := ⟨[], Option.none⟩
def Slot.free : Slot :=
  { state := .free, owner := 0, step := .none, mmbIssued := false, moutIssued := false, mmbDone := false, moutDone := false,
    mmbErr := Option.none, moutErr := Option.none, dense := [], flags := 0, lines := [], bodyCrc := [], wantCrc := [], reserved := Option.none }

/-- A core that holds no team (R124 sets its boundaries with the first one). -/
def Core.empty : Core :=
  { b1 := 0, b2 := 0, b3 := 1572864, pool := [], acc := [], slots := [], latch := none, items := [], queue := [], cache := [], bad := [] }

def CoreDev.reset : CoreDev :=
  { perfSel := [], perf := [], sampleCtl := 0, lfsr := 0, sampleAt := 0, lastIssue := none, lastCycle := 0, issued := 0, issuedU := 0, issuedBy := [], why := [], assayStat := 0, assayCount := 0 }

def Grid.absent : Grid :=
  { record := [], next := 0, unended := 0, cause := 0, nerr := 0, thandler := 0, spawnCore := none, seq := 0, start := 0, wct := 0,
    signalDue := none, crefId := 0 }

def Trigger.idle : Trigger := { image := [], state := .idle, fires := 0, cause := 0, gridId := 0, grid := 0, gridSeq := 0, stamp := 0, due := none, look := false }

/-- A circle slot at reset: GAPUS is 50 (R261). -/
def Circle.free : Circle :=
  { state := .free, crier := false, err := false, index := 0, last := 0, incarn := 0, gapus := 50, applied := 0, issued := 0,
    brokenAt := 0, bvalid := false, applyErr := 0, window := [], gapSince := none, doing := false, waits := false, lastWct := 0, queue := [], nextSeq := 0,
    counts := [], ready := [], members := [] }

def MillSlot.empty : MillSlot := ⟨none, [], none, []⟩
def MillPart.zero : MillPart :=
  { stats := [0, 0, 0, 0], flags := 0, crc := [], bstat := [], beats := 0, errs := 0, lastDetail := 0, lastErrAt := 0, tiles := 0,
    abandoned := 0, ctxs := [] }

def StoreSet.none : StoreSet := ⟨0, Option.none, false, 0⟩

/-- The order of a gang placed at an instant. -/
def Order.start (now : Nat) : Order := ⟨now, [], [], 0, 0, [], [], []⟩
def L2Sector.absent : L2Sector := ⟨false, false, false⟩
def L2Line.fresh : L2Line := ⟨0, false, .absent, .absent⟩
def Channel.reset : Channel :=
  { debt := 0, peak := 0, forced := 0, nextTick := 3900, hot := false, lost := false, rowErrs := [], sparesUsed := [], remaps := [] }

/-- A channel at reset with the row remaps of its fuse copy (R94); the spare rows they use are taken. -/
def Channel.withRemaps (remaps : Tbl Nat) : Channel :=
  { Channel.reset with
    remaps := remaps
    sparesUsed := remaps.foldl (fun t r => Tbl.set t (r.1 / 2 ^ 15) (max (Tbl.get 0 t (r.1 / 2 ^ 15)) (r.2 + 1))) [] }

/-- A context with nothing in it (R99, R268, R304). -/
def Ctx.empty : Ctx :=
  { gangs := [], teams := [], cores := [], grids := [], wheel := [], dieQ := [], clusterQ := [], triggers := [], circles := [],
    fq := [], misses := [], redHold := [], millSlots := [], mills := [], accs := [], works := [], replies := [], holds := [], custody := [],
    sessions := [], order := [], stashOld := [], poolPast := [], log := [], logWrite := 0, logDropped := 0, logSeen := [], nextId := 1, seq := 0, halt := none, wct := 0 }

/-- Class windows at reset (R86): class 0 has the whole of every channel. -/
def resetClasses : Tbl ClassWin := [(0, ⟨0, 32, false⟩)]

def Security.reset : Security :=
  { lcstate := 2, bootstat := 1, minSvn := 0, revoked := [], fwSvn := 0, fwBody := [], debug := 0x200, nonceIndex := 0,
    attNonce := [], attRep := [], token := [], dbgLoad := 0, keyAlive := true, attached := false }

def HostRegs.reset : HostRegs :=
  { devnum := 0, hosterr := 0, cwin := 0, msix := 0, btBase := 0, ptRoot := 0, ptClass := 0,
    hostTimeout := 4000000, farTimeout := 4000000, fabricTimeout := 2000000, assayPol := 0,
    assayN := 0, leaseNs := 1024, fqDone := 0, rbDone := false, rbReply := [], lastRead := [], rbReq := [], dbgctl := 0 }

def Power.reset : Power :=
  { cap := 2400, enabled := false, step := 0, belowSince := none, tripped := false, overheated := false,
    preemptAt := none, nextMonitor := 100000000, temps := [] }

/-- The device right after reset, its firmware checked and running (R335). (DESIGN CHOICE, assumption 6) -/
def Dev.reset : Dev :=
  { dtime := 0, cycle := 0, mem := [], past := [], poison := [], l2 := [], evmax := [], classes := resetClasses, btStale := [], tlb := [],
    channels := [], fuseRemaps := [], hostUp := true, farUp := true, ports := BitVec.allOnes 18,
    launch := { slots := [], rejCause := 0, rejSlot := 0, rejCount := 0, rejDrop := 0 },
    time := { free := false, lastSync := 0, goodSince := none, offset := 0 },
    host := .reset,
    pre := { req := false, done := false, restore := false, resident := false, ctxBase := 0, dumpBase := 0, dumpSize := 0 },
    sec := .reset, power := .reset,
    tel := ⟨0, 0, 0, 0, 0⟩, smp := ⟨0, 0, 0, 0, 0⟩, cores := [], idle := [], hostWct := 0, ckpt := none, carried := [], outbox := [] }

/-- The machine right after reset: no context is resident and memory lists nothing. -/
def State.reset : State :=
  { dev := .reset, ctx := .empty, saved := [], cur := none, eng := none, inputs := [], ticks := 0 }

end Sys2Proof.Machine
end

