-- ==== Sys2Proof/Machine/Ops.lean ====
section
/-! DEFINITION. The named operations on the state: registers, the launch record, the class map and the homes of memory (R118 to
R121), the error log (R323), tokens (R71, R184), traps and the return from one (R314 to R319). -/

namespace Sys2Proof.Machine

/-! Cause codes (R312). -/
def cILLEGAL : Nat := 0x01
def cRESERVED : Nat := 0x02
def cPRIVILEGED : Nat := 0x03
def cLOOKAHEAD : Nat := 0x04
def cPARTIAL : Nat := 0x05
def cDEADLOCK : Nat := 0x06
def cOVERRUN : Nat := 0x07
def cUNINIT : Nat := 0x08
def cDEPTH : Nat := 0x09
def cMASK : Nat := 0x0A
def cFOOTPRINT : Nat := 0x0B
def cHANDLE : Nat := 0x10
def cOWNER : Nat := 0x11
def cRIGHTS : Nat := 0x12
def cBOUNDS : Nat := 0x13
def cMISALIGNED : Nat := 0x14
def cPAGEFATAL : Nat := 0x16
def cFAR : Nat := 0x17
def cPOISON : Nat := 0x18
def cUNMAPPED : Nat := 0x19
def cATOMIC : Nat := 0x1A
def cSKEW : Nat := 0x20
def cOVERFLOW : Nat := 0x21
def cMALFORMED : Nat := 0x22
def cSTALE : Nat := 0x23
def cMILL : Nat := 0x24
def cLOST : Nat := 0x25
def cGAP : Nat := 0x28
def cBROKEN : Nat := 0x29
def cTRIGGER : Nat := 0x2A
def cTIMEOUT : Nat := 0x2B
def cBREAKPOINT : Nat := 0x30
def cSOFTWARE : Nat := 0x31
def cHALTED : Nat := 0x32
/-- DOUBLE_FAULT (R312): no access and no token ever has it; the dump's header alone tells it, by STATUS[1] beside the second cause (R329,
R330). -/
def cDOUBLE : Nat := 0x3F

/-! TINFO bits (R315). -/
def iREMOTE : Nat := 0x10
def iHOSTPORT : Nat := 0x20
def iLOGGED : Nat := 0x40
def iCSTACK : Nat := 0x80
def iWINDOW : Nat := 0x100
def iDEFERRED : Nat := 0x200
def iHELD : Nat := 0x2000

/-! Paths (R172, R175 bit order). -/
def pLSU : Nat := 0
def pCARTER : Nat := 1
def pGLEANER : Nat := 2
def pLOOM : Nat := 3
def pFABRIC : Nat := 4
def pMEDIA : Nat := 5
def pMILL : Nat := 6

/-! Lanes and gangs. -/

def Lane.reg (l : Lane) (n : Nat) : Word := Tbl.get 0 l.v n
def Lane.setReg (l : Lane) (n : Nat) (x : Word) : Lane := { l with v := Tbl.set l.v n x }

/-- A lane guard; g7 always reads 1 (R48). -/
def Lane.guard (l : Lane) (n : Nat) : Bool := n == 7 || l.g.getLsbD n

/-- A write to g7 is discarded (R48). -/
def Lane.setGuard (l : Lane) (n : Nat) (b : Bool) : Lane :=
  if n = 7 then l else { l with g := if b then l.g ||| (1#8 <<< n) else l.g &&& ~~~ (1#8 <<< n) }

/-- A pair of lane registers, lowest register lowest bits (R49). -/
def Lane.pair (l : Lane) (n : Nat) : Nat := (l.reg n).toNat + 2 ^ 32 * (l.reg (n + 1)).toNat

/-- The low bytes of a register, pair or quadruple (R49, R139). -/
def Lane.wide (l : Lane) (n : Nat) (wd : Width) : Nat :=
  match wd with
  | .b => (l.reg n).toNat % 2 ^ 8
  | .h => (l.reg n).toNat % 2 ^ 16
  | .w => (l.reg n).toNat
  | .d => l.pair n
  | .q => l.pair n + 2 ^ 64 * l.pair (n + 2)

/-- A loaded value written to the registers its width names (R139). -/
def Lane.setWide (l : Lane) (n : Nat) (wd : Width) (x : Nat) : Lane :=
  match wd with
  | .d => (l.setReg n (BitVec.ofNat 32 x)).setReg (n + 1) (BitVec.ofNat 32 (x / 2 ^ 32))
  | .q => ((((l.setReg n (BitVec.ofNat 32 x)).setReg (n + 1) (BitVec.ofNat 32 (x / 2 ^ 32))).setReg (n + 2)
            (BitVec.ofNat 32 (x / 2 ^ 64))).setReg (n + 3) (BitVec.ofNat 32 (x / 2 ^ 96)))
  | _ => l.setReg n (BitVec.ofNat 32 x)

def Gang.lane (g : Gang) (l : Nat) : Lane := Tbl.get .absent g.lanes l
def Gang.setLane (g : Gang) (l : Nat) (x : Lane) : Gang := { g with lanes := Tbl.set g.lanes l x }
def Gang.modLane (g : Gang) (l : Nat) (f : Lane → Lane) : Gang := g.setLane l (f (g.lane l))

/-- One function applied to each lane of a set, in ascending index (R9). -/
def Gang.modLanes (g : Gang) (ls : List Nat) (f : Nat → Lane → Lane) : Gang :=
  ls.foldl (fun g l => g.modLane l (f l)) g

def Gang.sreg (g : Gang) (n : Nat) : Word := Tbl.get 0 g.s n
def Gang.setS (g : Gang) (n : Nat) (x : Word) : Gang := { g with s := Tbl.set g.s n x }
def Gang.spair (g : Gang) (n : Nat) : Nat := (g.sreg n).toNat + 2 ^ 32 * (g.sreg (n + 1)).toNat
def Gang.setSpair (g : Gang) (n : Nat) (x : Nat) : Gang :=
  (g.setS n (BitVec.ofNat 32 x)).setS (n + 1) (BitVec.ofNat 32 (x / 2 ^ 32))

/-- A uniform guard; z3 always reads 1, and a write to it is discarded (R48). -/
def Gang.zreg (g : Gang) (n : Nat) : Bool := n == 3 || g.z.getLsbD n
def Gang.setZ (g : Gang) (n : Nat) (b : Bool) : Gang :=
  if n = 3 then g else { g with z := if b then g.z ||| (1#4 <<< n) else g.z &&& ~~~ (1#4 <<< n) }

def Gang.mask (g : Gang) (n : Nat) : Lanes := Tbl.get 0 g.m n
def Gang.setMask (g : Gang) (n : Nat) (x : Lanes) : Gang := { g with m := Tbl.set g.m n x }
def Gang.flag (g : Gang) (f : BitVec 5) : Gang := { g with fflags := g.fflags ||| f }

/-- Lanes of the gang that meet a test. -/
def Gang.lanesWhere (g : Gang) (p : Nat → Lane → Bool) : Lanes :=
  laneSet ((List.range 64).filter fun l => p l (g.lane l))

def Gang.nonExited (g : Gang) : Lanes := g.lanesWhere fun _ l => l.cond != .exited

/-! Tables of the state. -/

def gangKey (core slot : Nat) : Nat := core * 64 + slot
def teamKey (core slot : Nat) : Nat := core * 16 + slot

/-- The core of a team's key, also of one beyond the team slots (R305). -/
def teamCore (team : Nat) : Nat := team / 16 % 192

namespace State

def gang (s : State) (g : Nat) : Gang := Tbl.get .absent s.ctx.gangs g
def setGang (s : State) (g : Nat) (x : Gang) : State := { s with ctx := { s.ctx with gangs := Tbl.set s.ctx.gangs g x } }
def modGang (s : State) (g : Nat) (f : Gang → Gang) : State := s.setGang g (f (s.gang g))
def team (s : State) (t : Nat) : Team := Tbl.get .absent s.ctx.teams t
def setTeam (s : State) (t : Nat) (x : Team) : State := { s with ctx := { s.ctx with teams := Tbl.set s.ctx.teams t x } }
def modTeam (s : State) (t : Nat) (f : Team → Team) : State := s.setTeam t (f (s.team t))
def core (s : State) (c : Nat) : Core := Tbl.get .empty s.ctx.cores c
def setCore (s : State) (c : Nat) (x : Core) : State := { s with ctx := { s.ctx with cores := Tbl.set s.ctx.cores c x } }
def modCore (s : State) (c : Nat) (f : Core → Core) : State := s.setCore c (f (s.core c))
def coreDev (s : State) (c : Nat) : CoreDev := Tbl.get .reset s.dev.cores c
def setCoreDev (s : State) (c : Nat) (x : CoreDev) : State := { s with dev := { s.dev with cores := Tbl.set s.dev.cores c x } }
def grid (s : State) (n : Nat) : Grid := Tbl.get .absent s.ctx.grids n
def setGrid (s : State) (n : Nat) (x : Grid) : State := { s with ctx := { s.ctx with grids := Tbl.set s.ctx.grids n x } }
def modGrid (s : State) (n : Nat) (f : Grid → Grid) : State :=
  if Tbl.mem s.ctx.grids n then s.setGrid n (f (s.grid n)) else s
def setCtx (s : State) (f : Ctx → Ctx) : State := { s with ctx := f s.ctx }
def setDev (s : State) (f : Dev → Dev) : State := { s with dev := f s.dev }
def setHost (s : State) (f : HostRegs → HostRegs) : State := s.setDev fun d => { d with host := f d.host }
def access? (s : State) (id : Nat) : Option Access := Tbl.find? s.ctx.accs id
def setAccess (s : State) (id : Nat) (a : Access) : State := s.setCtx fun c => { c with accs := Tbl.set c.accs id a }
def dropAccess (s : State) (id : Nat) : State :=
  s.setCtx fun c => { c with accs := Tbl.erase c.accs id, replies := Tbl.erase c.replies id }
def work? (s : State) (id : Nat) : Option Work := Tbl.find? s.ctx.works id
def setWork (s : State) (id : Nat) (w : Work) : State := s.setCtx fun c => { c with works := Tbl.set c.works id w }
def dropWork (s : State) (id : Nat) : State :=
  s.setCtx fun c => { c with works := Tbl.erase c.works id, replies := Tbl.erase c.replies id }
def now (s : State) : Nat := s.dev.dtime

/-- A fresh identifier for accesses, works and holds: rising in issue order. -/
def fresh (s : State) : Nat × State := (s.ctx.nextId, s.setCtx fun c => { c with nextId := c.nextId + 1 })

/-- The free choice of this step on one question (R13). -/
def pick (s : State) (question n : Nat) : Nat := Config.choice s.ticks question % n

/-- The free choice of this step on a question asked of each of many things. -/
def pickFor (s : State) (question i n : Nat) : Nat := s.pick (question + 64 * (i + 1)) n

def addAccess (s : State) (a : Access) : State := (s.fresh.2).setAccess s.fresh.1 a
def addWork (s : State) (w : Work) : State := (s.fresh.2).setWork s.fresh.1 w
def addHold (s : State) (h : Hold) : State := (s.fresh.2).setCtx fun c => { c with holds := Tbl.set c.holds s.fresh.1 h }
def dropHold (s : State) (id : Nat) : State := s.setCtx fun c => { c with holds := Tbl.erase c.holds id }

end State

/-! The launch record (R290). -/

namespace Rec

def code (r : List Byte) : Nat := numAt r 0x00 8
def codeBuf (r : List Byte) : Nat := code r / 2 ^ 52
def codeOff (r : List Byte) : Nat := code r % 2 ^ 52
def args (r : List Byte) : Nat := numAt r 0x08 8
def teamsField (r : List Byte) : Nat := numAt r 0x10 4
def teams (r : List Byte) : Nat := if teamsField r = 0 then 2 ^ 32 else teamsField r
def word10 (r : List Byte) : Nat := numAt r 0x10 8
def pgangs (r : List Byte) : Nat := bits (word10 r) 32 4
def cgangs (r : List Byte) : Nat := bits (word10 r) 36 4
def csig (r : List Byte) : Bool := bit (word10 r) 40
def prio (r : List Byte) : Nat := bits (word10 r) 48 2
def depth (r : List Byte) : Nat := bits (word10 r) 50 3
def regsp (r : List Byte) : Nat := numAt r 0x18 1
def regsc (r : List Byte) : Nat := numAt r 0x19 1
def stashk (r : List Byte) : Nat := numAt r 0x1A 2
def acct (r : List Byte) : Nat := numAt r 0x1C 1
def savek (r : List Byte) : Nat := numAt r 0x1D 1
def cref (r : List Byte) : Nat := numAt r 0x20 8
def cadd (r : List Byte) : Nat := numAt r 0x28 8
def hoff (r : List Byte) : Nat := numAt r 0x30 4
def gridId (r : List Byte) : Nat := numAt r 0x34 2
def release (r : List Byte) : Nat := numAt r 0x38 8

/-- Footprints of R123. -/
def freg (r : List Byte) : Nat := roundUp (4 * 64 * (regsp r * pgangs r + regsc r * cgangs r)) 1024
def fstash (r : List Byte) : Nat := stashk r * 1024
def fsave (r : List Byte) : Nat := savek r * 1024
def ngangs (r : List Byte) : Nat := pgangs r + cgangs r

end Rec

namespace State

def recordOf (s : State) (g : Nat) : List Byte := (s.grid (s.team (s.gang g).team).grid).record
def gridIdOf (s : State) (g : Nat) : Nat := Rec.gridId (s.recordOf g)
def gridOf (s : State) (g : Nat) : Nat := (s.team (s.gang g).team).grid

/-- Whether the gang's role is producer (R289, R52). -/
def isProducer (s : State) (g : Nat) : Bool := decide ((s.gang g).gangIdx < Rec.pgangs (s.recordOf g))

/-- The register budget of the gang's role (R50). -/
def budget (s : State) (g : Nat) : Nat :=
  if s.isProducer g then Rec.regsp (s.recordOf g) else Rec.regsc (s.recordOf g)

def fstash (s : State) (t : Nat) : Nat := Rec.fstash (s.grid (s.team t).grid).record

end State

/-! Addresses of locations. One number names every location: HBM4 channel c, channel offset o is c * 2^31 + o; far-tier byte a is
2^43 + a; host byte a is 2^64 + a. -/

def farBase : Nat := 2 ^ 43
def hostBase : Nat := 2 ^ 64

/-- N and the granule of a class (R85). -/
def classShape (c : Nat) : Nat × Nat :=
  if c = 0 then (256, 256) else if c = 1 then (256, 4096) else if c = 2 then (256, 16384) else if c = 3 then (256, 65536)
  else if c ≤ 11 then (32, 16384) else if c = 12 then (128, 4096) else if c = 13 then (128, 4096) else (256, 2097152)

/-- The channel of slot i of a class (R85, R16). -/
def classChannel (c i : Nat) : Nat :=
  if c ≤ 3 || c = 14 then 32 * (i % 8) + i / 8
  else if c ≤ 11 then 32 * (c - 4) + i
  else if c = 12 then 32 * (i % 4) + i / 4
  else 32 * (4 + i % 4) + i / 4

def Dev.window (d : Dev) (c : Nat) : ClassWin := Tbl.get ⟨0, 0, false⟩ d.classes c

/-- R85: the location of a class-space address, or none past the class's window. -/
def Dev.classLoc (d : Dev) (c a : Nat) : Option Nat :=
  let (n, g) := classShape c
  let w := d.window c
  if a / 2 ^ 26 ≥ n * w.wsize then none
  else
    let q := a / g
    some (2 ^ 31 * classChannel c (q % n) + 2 ^ 26 * w.wstart + g * (q / n) + a % g)

/-- The channel of an HBM4 location. -/
def chanOf (loc : Nat) : Option Nat := if loc < 2 ^ 39 then some (loc / 2 ^ 31) else none

def Dev.channel (d : Dev) (c : Nat) : Channel := Tbl.get .reset d.channels c

/-- Whether a location lies in a channel in CHANNEL_LOST (R94). -/
def Dev.lostAt (d : Dev) (loc : Nat) : Bool :=
  match chanOf loc with
  | some c => (d.channel c).lost
  | none => false

/-- Bytes of class space, one location at a time; bytes outside the window read as zero and swallow writes, and a channel in CHANNEL_LOST
drops them (R94). -/
def Dev.classRead (d : Dev) (c a n : Nat) : List Byte :=
  (List.range n).map fun i => match d.classLoc c (a + i) with
    | some l => d.mem.read l
    | none => 0
def Dev.classWrite (d : Dev) (c a : Nat) (bs : List Byte) : Dev :=
  { d with mem := (bs.zipIdx).foldl (fun m (b, i) => match d.classLoc c (a + i) with
      | some l => if d.lostAt l then m else m.write l b
      | none => m) d.mem }

/-- Home slice of a location (R118). -/
def homeSlice (loc : Nat) : Nat :=
  match chanOf loc with
  | some c => c % 64
  | none => let a := if loc < hostBase then loc - farBase else loc - hostBase
            (bits a 7 6 ^^^ bits a 13 6 ^^^ bits a 19 6)

/-- The set of an L2 slice that holds a line: the manual does not fix which (assumption 20). -/
def l2Set (line : Nat) : Nat := homeSlice (128 * line) * 2048 + line % 2048

def Dev.l2Line (d : Dev) (line : Nat) : L2Line := Tbl.get .fresh d.l2 line
def L2Line.sector (x : L2Line) (sec : Nat) : L2Sector := if sec % 2 = 0 then x.lo else x.hi
def L2Line.setSector (x : L2Line) (sec : Nat) (y : L2Sector) : L2Line := if sec % 2 = 0 then { x with lo := y } else { x with hi := y }

/-- The mark of a sector in DRAM, far or host memory; a channel in CHANNEL_LOST reads as poisoned (R90, R94). -/
def Dev.marked (d : Dev) (sec : Nat) : Bool := Tbl.get false d.poison sec || d.lostAt (64 * sec)

/-- Whether a sector reads as poisoned at its home: by the bit in L2 where it is resident, by its mark in memory where not (R121). -/
def Dev.poisoned (d : Dev) (sec : Nat) : Bool :=
  let x := (d.l2Line (sec / 2)).sector sec
  if x.valid then x.poison else d.marked sec

/-- The first poisoned byte of a range. -/
def Dev.poisonAt (d : Dev) (loc n : Nat) : Option Nat :=
  ((List.range ((loc + n - 1) / 64 - loc / 64 + 1)).find? fun i => d.poisoned (loc / 64 + i)).map fun i => max loc (64 * (loc / 64 + i))

def Dev.isPoisoned (d : Dev) (loc n : Nat) : Bool :=
  (List.range ((loc + n - 1) / 64 - loc / 64 + 1)).any fun i => d.poisoned (loc / 64 + i)

def Dev.setPoison (d : Dev) (sector : Nat) (b : Bool) : Dev :=
  { d with poison := if b then Tbl.set d.poison sector true else Tbl.erase d.poison sector }

/-- A dirty sector reaches its channel with its mark; a channel in CHANNEL_LOST drops it (R94, R121). -/
def Dev.writeSector (d : Dev) (sec : Nat) (x : L2Sector) : Dev :=
  if x.dirty && !d.lostAt (64 * sec) then d.setPoison sec x.poison else d

/-- A line is made resident at its home (R119): one line of a full set leaves first, its dirty sectors written to DRAM (R121) and its
lease remembered in EVMAX. -/
def Dev.touch (d : Dev) (pick : Nat) (line : Nat) : Dev :=
  if Tbl.mem d.l2 line then d
  else
    let k := l2Set line
    let mates := (Tbl.keys d.l2).filter fun j => l2Set j == k
    let d := match (if mates.length < 16 then none else mates[pick % 16]?) with
      | none => d
      | some v =>
        let x := d.l2Line v
        let d := (d.writeSector (2 * v) x.lo).writeSector (2 * v + 1) x.hi
        { d with l2 := Tbl.erase d.l2 v,
                 evmax := if x.lexp > d.dtime then Tbl.set d.evmax k (max (Tbl.get 0 d.evmax k) x.lexp) else d.evmax }
    let ev := Tbl.get 0 d.evmax k
    { d with l2 := Tbl.set d.l2 line (if ev > d.dtime then { L2Line.fresh with lexp := ev, xdev := true } else L2Line.fresh) }

/-- A line is brought from memory into its home slice (R118, R121). -/
def Dev.bring (d : Dev) (pick : Nat) (line : Nat) : Dev :=
  let d := d.touch pick line
  let x := d.l2Line line
  { d with l2 := Tbl.set d.l2 line { x with lo := { x.lo with valid := true, poison := d.poisoned (2 * line) },
                                            hi := { x.hi with valid := true, poison := d.poisoned (2 * line + 1) } } }

/-- The sectors of a line that bytes [loc, loc + n) write: dirty, and good where they are written whole (R91, R121). -/
def Dev.writeMarks (d : Dev) (x : L2Line) (loc n : Nat) : L2Line :=
  [loc / 64, (loc + n - 1) / 64].foldl (fun x sec =>
    x.setSector sec ⟨true, true, if loc ≤ 64 * sec && 64 * sec + 64 ≤ loc + n then false else d.poisoned sec⟩) x

/-- A write within one line performed at the home at this instant: WCT := max(LEXP, t) + m (R120). -/
def Dev.homeWrite (d : Dev) (pick : Nat) (loc : Nat) (bs : List Byte) : Dev × Nat :=
  let line := loc / 128
  let d := d.touch pick line
  let x := d.l2Line line
  let w := max x.lexp d.dtime + (if x.xdev then 40 else 2)
  ({ d with mem := d.mem.writeBytes loc bs, l2 := Tbl.set d.l2 line (d.writeMarks x loc bs.length) }, w)

/-- The mark of a resident sector is set or cleared. -/
def Dev.setMark (d : Dev) (sec : Nat) (b : Bool) : Dev :=
  let x := d.l2Line (sec / 2)
  if (x.sector sec).valid then { d with l2 := Tbl.set d.l2 (sec / 2) (x.setSector sec { x.sector sec with poison := b }) } else d

/-- A copy granted under a lease: its expiry, and LEXP raised (R120). -/
def Dev.grant (d : Dev) (pick : Nat) (line : Nat) (other : Bool) : Dev × Nat :=
  let d := d.bring pick line
  let x := d.l2Line line
  let e := d.dtime + d.host.leaseNs
  ({ d with l2 := Tbl.set d.l2 line { x with lexp := max x.lexp e, xdev := x.xdev || other } }, e)

/-- Every dirty sector of L2 reaches its channel, and the lines stay (R121, R331). -/
def Dev.drainL2 (d : Dev) : Dev :=
  let d := d.l2.foldl (fun d x => (d.writeSector (2 * x.1) x.2.lo).writeSector (2 * x.1 + 1) x.2.hi) d
  { d with l2 := d.l2.map fun x => (x.1, { x.2 with lo := { x.2.lo with dirty := false }, hi := { x.2.hi with dirty := false } }) }

namespace State

/-! Telemetry, interrupts and the context error log. -/

/-- MSI-X vector v is raised and its MSIXSTAT bit set (R334). -/
def msix (s : State) (v : Nat) : State := s.setHost fun h => { h with msix := h.msix ||| 2 ^ v }

/-- In RECOVERY only the first block of window A answers (R335). -/
def whenReady (s : State) (f : State → State) : State := if s.dev.sec.bootstat = 1 then f s else s

/-- A record of the telemetry ring (R346): TYPE in byte 0, DTIME at byte 8, payload from byte 16. A record that would pass TELTAIL
is dropped; a drop, or a half-full ring, raises vector 4. -/
def telemetry (s : State) (type : Nat) (payload : List Byte) : State :=
  let r := s.dev.tel
  if r.size = 0 then s
  else if (r.head + 1) % r.size = r.tail % r.size then
    (s.setDev fun d => { d with tel := { r with drop := r.drop + 1 } }).msix 4
  else
    let bytes := slice (toBytes 8 type ++ toBytes 8 (s.now % 2 ^ 64) ++ payload) 0 64
    let s := s.setDev fun d => { d with mem := d.mem.writeBytes (hostBase + r.base + 64 * (r.head % r.size)) bytes,
                                        tel := { r with head := (r.head + 1) % r.size } }
    if 2 * ((r.head + 1 + r.size - r.tail % r.size) % r.size) ≥ r.size then s.msix 4 else s

def logBytes (e : LogEntry) : List Byte :=
  toBytes 4 (e.cause % 128 + e.detail % 16 * 256 + e.source % 16 * 4096) ++
  toBytes 4 (e.gridId % 2 ^ 16 + e.core % 256 * 2 ^ 16 + e.gangIdx % 16 * 2 ^ 24) ++
  toBytes 8 e.addr ++ toBytes 8 e.time ++ toBytes 4 e.index ++ toBytes 4 0

/-- R323: an entry joins the ring in the context area, or is dropped and counted when it would overwrite an unread entry. (DEDUCED, assumption 19) -/
def logEntry (s : State) (e : LogEntry) : State :=
  let base := s.dev.pre.ctxBase
  let i := s.ctx.logWrite % 4096
  let s := if s.ctx.logWrite < 4096 || s.ctx.logSeen.contains i then
      let s := s.setCtx fun c => { c with
        log := c.log.drop (c.log.length - 4095) ++ [e], logWrite := c.logWrite + 1, logSeen := c.logSeen.filter (· != i) }
      s.setDev fun d => (d.classWrite 14 (base + 0x10000 + 32 * i) (logBytes e)).classWrite 14 (base + 0x100)
        (toBytes 8 (s.ctx.logWrite % 4096))
    else
      let s := s.setCtx fun c => { c with logDropped := c.logDropped + 1 }
      s.setDev fun d => d.classWrite 14 (base + 0x108) (toBytes 8 s.ctx.logDropped)
  s.telemetry 2 (logBytes e)

/-- An error counts in its grid's NERR, and the first sets the grid's CAUSE (R295, R307, R323). -/
def charge (s : State) (grid cause : Nat) : State :=
  s.modGrid grid fun g => { g with nerr := min (g.nerr + 1) (2 ^ 32 - 1), cause := if g.nerr = 0 then cause else g.cause }

/-- An error with no gang to trap: charged and logged. -/
def logError (s : State) (grid gridId source core gangIdx : Nat) (e : Err) (index : Nat) : State :=
  (s.charge grid e.cause).logEntry
    { cause := e.cause, detail := e.info % 16, source := source, gridId := gridId, core := core, gangIdx := gangIdx,
      addr := e.addr, time := s.now % 2 ^ 64, index := index }

/-! Performance counters (R342, R343). -/

def perfEvent (s : State) (core slot event n : Nat) : State :=
  if (s.coreDev core).perfSel.isEmpty then s else
  let c := s.coreDev core
  let hit := (List.range 8).filter fun k =>
    let sel := Tbl.get 0 c.perfSel k
    bit sel 8 && bits sel 0 8 == event && (!bit sel 9 || event ≤ 2 || bits sel 10 6 == slot)
  s.setCoreDev core { c with perf := hit.foldl (fun t k => Tbl.set t k ((Tbl.get 0 t k + n) % 2 ^ 64)) c.perf }

/-! Stores sets and tokens (R173, R176, R184). -/

/-- Key of a path and scope class in a store set: class 0 is the device class, 1 the system class (R176). -/
def setKey (path : Nat) (sys : Bool) : Nat := 2 * path + boolNat sys

/-- The error whose address is the lower. -/
def firstErr : Option Err → Option Err → Option Err
  | some a, some b => some (if b.addr < a.addr then b else a)
  | some a, none => some a
  | none, b => b

/-- Of two pending errors of one path and class, the earlier in issue order is held, the other is logged (R176). Those of one
instruction are one error, that of the first faulting byte (R176, assumption 62). -/
def mergeStore (a b : StoreSet) : StoreSet :=
  let w := max a.wct b.wct
  match a.err, b.err with
  | some _, some _ => if b.seq = a.seq then ⟨w, firstErr a.err b.err, a.logged || b.logged, a.seq⟩ else if b.seq < a.seq then ⟨w, b.err, true, b.seq⟩ else ⟨w, a.err, true, a.seq⟩
  | some _, none => ⟨w, a.err, a.logged || b.logged, a.seq⟩
  | none, _ => ⟨w, b.err, a.logged || b.logged, b.seq⟩

/-- A performed write joins the store set of its gang: its WCT, and any error. A gang that has exited has none: its error goes
to the log (R176). Every WCT also bounds the grid's completion and the context save (R180). -/
def noteStore (s : State) (gang grid gridId core : Nat) (orphan : Bool) (key : Nat) (x : StoreSet) : State :=
  let s := (s.modGrid grid fun g => { g with wct := max g.wct x.wct }).setCtx fun c => { c with wct := max c.wct x.wct }
  let x := if x.seq = 0 then { x with seq := s.eng.getD s.ctx.nextId } else x
  let old := Tbl.get .none (s.gang gang).stores key
  let log := fun (s : State) (e : Option Err) => match e with
    | some e => s.logError grid gridId 0 core (s.gang gang).gangIdx e 0
    | none => s
  if orphan || !(s.gang gang).live then log s x.err
  else
    let s := s.modGang gang fun g => { g with stores := Tbl.set g.stores key (mergeStore old x) }
    if old.err.isNone || x.err.isNone || old.seq = x.seq then s else log s (if x.seq < old.seq then old.err else x.err)

/-- An instruction reads a token register that is written: the engine's writes join the store set (R173). -/
def readToken (s : State) (gang reg : Nat) : State :=
  match Tbl.find? (s.gang gang).unread reg with
  | none => s
  | some xs =>
    let s := s.modGang gang fun g => { g with unread := Tbl.erase g.unread reg }
    let s := if s.ctx.stashOld.isEmpty then s else s.setCtx fun c => { c with
      stashOld := c.stashOld.map fun y => if xs.any fun x => x.2.seq == y.job then { y with read := true } else y }
    xs.foldl (fun s (k, x) => s.noteStore gang (s.gridOf gang) (s.gridIdOf gang) (gang / 64) false k x) s

/-- The token value of R12. -/
def tokenValue (cause count : Nat) : Nat := 2 ^ 31 + cause % 128 * 2 ^ 24 + count % 2 ^ 24

def trigger (s : State) (k : Nat) : Trigger := Tbl.get .idle s.ctx.triggers k
def setTrigger (s : State) (k : Nat) (x : Trigger) : State := s.setCtx fun c => { c with triggers := Tbl.set c.triggers k x }

/-- A fired action faults (R270): its entry, where it still stands as it was armed, is FAULTED with the action's cause; the requester grid,
if it is still there, is charged; and the log has a TRIGGER_FAULT record of source 3, whose detail holds what fits of the action's cause
(DEDUCED, assumption 81). -/
def faultAction (s : State) (k stamp grid gridSeq gridId cause addr : Nat) : State :=
  let t := s.trigger k
  let s := if t.stamp = stamp && t.state != .idle then s.setTrigger k { t with state := .faulted, cause := cause, due := none } else s
  let s := if (s.grid grid).seq = gridSeq then s.charge grid cause else s
  s.logEntry { cause := cTRIGGER, detail := cause % 16, source := 3, gridId := gridId, core := 0xFF, gangIdx := 0xF, addr := addr,
               time := s.now % 2 ^ 64, index := k }

/-- The action of an entry as it stands faults. -/
def faultTrigger (s : State) (k cause addr : Nat) : State :=
  let t := s.trigger k
  s.faultAction k t.stamp t.grid t.gridSeq t.gridId cause addr

/-- An engine ends: the token is written, the fault record set, and its writes wait for the reading (R71, R173, R184). With the
gang gone, a cause goes to the log (R185). -/
def endWork (s : State) (id : Nat) (w : Work) (cause count addr : Nat) : State :=
  let s := s.dropWork id
  if w.orphan || !(s.gang w.gang).live then
    let s := w.stores.foldl (fun s (k, x) => s.noteStore w.gang w.grid w.gridId w.core true k x) s
    if cause = 0 then s else match w.trigger with
      | some (k, stamp, seq) => s.faultAction k stamp w.grid seq w.gridId cause addr
      | none => s.logError w.grid w.gridId 1 w.core (s.gang w.gang).gangIdx ⟨cause, addr, w.info⟩ w.tok
  else
    -- a job without writes of memory still has its token's reading ordered before later fences
    let stores := (if w.stores.isEmpty then [(0, StoreSet.none)] else w.stores).map fun x => (x.1, { x.2 with seq := id })
    let s := w.stores.foldl (fun s (_, x) =>
      (s.modGrid w.grid fun g => { g with wct := max g.wct x.wct }).setCtx fun c => { c with wct := max c.wct x.wct }) s
    s.modGang w.gang fun g =>
      { g.setS w.tok (BitVec.ofNat 32 (tokenValue cause count)) with
               tokens := Tbl.erase g.tokens w.tok,
               unread := Tbl.set g.unread w.tok (Tbl.get [] g.unread w.tok ++ stores),
               engFault := if cause = 0 then g.engFault else Tbl.set g.engFault w.tok addr,
               engInfo := if cause = 0 then g.engInfo else Tbl.set g.engInfo w.tok w.info }

/-- A write an engine made joins the sets it will bring to the token's reading. -/
def Work.note (w : Work) (key : Nat) (x : StoreSet) : Work :=
  { w with stores := Tbl.set w.stores key (mergeStore (Tbl.get .none w.stores key) x),
           errs := match x.err with
             | some e => w.errs ++ [e.addr]
             | none => w.errs }

/-! Traps. -/

/-- The trap frame of R316, from the gang's trap registers. -/
def frameBytes (g : Gang) : List Byte :=
  toBytes 4 (g.t.cause % 128 + boolNat g.hmode * 256) ++ toBytes 4 g.t.tpc ++ toBytes 4 g.t.tresume ++ toBytes 4 g.t.info ++
  toBytes 8 g.t.addr ++ toBytes 8 g.t.lanes.toNat ++ toBytes 8 g.hset.toNat ++ toBytes 8 g.trapTime ++ toBytes 4 g.traps ++
  List.replicate 204 0

def writeFrame (s : State) (gang : Nat) : State :=
  let g := s.gang gang
  s.modCore (gang / 64) fun c =>
    { c with pool := c.pool.writeBytes ((s.team g.team).saveRun + 256 * g.gangIdx) (frameBytes g) }

/-- The six trap registers and the trap count that a trap leaves (R314, R316). -/
def recordTrap (s : State) (gang : Nat) (t : Trap) : State :=
  s.modGang gang fun g => { g with t := ⟨t.cause, t.tpc, t.tresume, t.addr, t.lanes, t.info⟩,
                                   traps := min (g.traps + 1) (2 ^ 32 - 1), trapTime := s.now % 2 ^ 64 }

/-- Escalation (R319): a gang's trap is recorded in its registers and frame, handler mode set and H its lanes, with no lane moved
(assumption 61); the halt is recorded, and the management controller broadcasts it next (R327). -/
def escalate (s : State) (gang : Option Nat) (t : Trap) (nested : Bool) : State :=
  match s.ctx.halt with
  | some _ => s
  | none =>
    let h : Halt :=
      { cause := t.cause, nested := nested,
        gridId := (gang.map s.gridIdOf).getD 0xFFFF, core := (gang.map (· / 64)).getD 0xFF,
        gangIdx := (gang.map fun g => (s.gang g).gangIdx).getD 0xF,
        trap := t, time := s.now % 2 ^ 64, broadcast := false }
    let s := match gang with
      | some g => ((s.recordTrap g t).modGang g fun x => { x with hset := t.lanes, hmode := true }).writeFrame g
      | none => s
    s.setCtx fun c => { c with halt := some h }

/-- R314: the six trap registers are written, H is fixed, handler mode is set, and every lane of H goes to THANDLER with its
windows closed; then the frame is written (R316). -/
def enterHandler (s : State) (gang : Nat) (t : Trap) : State :=
  let th := (s.grid (s.gridOf gang)).thandler
  let s := (s.recordTrap gang t).modGang gang fun g =>
    let g := { g with hset := t.lanes, hmode := true, retry := false }
    g.modLanes (laneList t.lanes) fun _ l =>
      { l with pc := th, cond := .running, wait := .none, hold := none, wins := [], resumeAt := none }
  (s.perfEvent (gang / 64) (gang % 64) 0x17 1).writeFrame gang

/-- A trap is taken (R314, R319): held while pre-emption drains, or when it concerns lanes outside H of a running handler;
escalated when the grid has no handler or a handler's own lanes raise it. -/
def takeTrap (s : State) (gang : Nat) (t : Trap) : State :=
  let g := s.gang gang
  if g.hmode && (t.lanes &&& g.hset) != 0 then s.escalate (some gang) t true
  else if g.hmode || (s.dev.pre.req && !s.dev.pre.done) then s.modGang gang fun g => { g with held := g.held ++ [t] }
  else if (s.grid (s.gridOf gang)).thandler = 0 then s.escalate (some gang) t false
  else s.enterHandler gang t

/-- Lanes of a set that still wait for the result of a window (R69). -/
def windowPending (s : State) (gang : Nat) (m : Lanes) : Bool :=
  (laneList m).any fun l => ((s.gang gang).lane l).wins.any fun w => Tbl.mem s.ctx.accs w.acc

/-- A fault is raised: the lanes it concerns first wait for the results their windows are owed (R70, R314). Of two faults of one lane
that wait, the earlier in issue order stands and the other is discarded. -/
def raise (s : State) (gang : Nat) (t : Trap) : State :=
  let older := (s.gang gang).waitTrap.foldl (fun m u => if u.seq < t.seq then m ||| u.lanes else m) 0
  let m := t.lanes &&& ~~~ older
  let s := s.modGang gang fun g => { g with
    waitTrap := (g.waitTrap.map fun u => { u with lanes := u.lanes &&& ~~~ m }).filter fun u => u.lanes != 0 }
  let t := { t with lanes := m }
  if m == 0 then s
  else if s.windowPending gang m then s.modGang gang fun g => { g with waitTrap := g.waitTrap ++ [t] }
  else s.takeTrap gang t

/-- Waiting traps whose lanes are owed nothing any more are taken, oldest first. -/
def settleTraps (s : State) (gang : Nat) : State :=
  (s.gang gang).waitTrap.foldl (fun s t =>
    if s.windowPending gang t.lanes then s
    else (s.modGang gang fun g => { g with waitTrap := g.waitTrap.erase t }).takeTrap gang t) s

/-- The oldest held fault is taken once no handler runs and no retry is still to issue (R314). -/
def takeHeld (s : State) (gang : Nat) : State :=
  let g := s.gang gang
  if g.hmode || g.retry then s
  else match g.held with
    | [] => s
    | t :: rest => (s.setGang gang { g with held := rest }).takeTrap gang { t with info := t.info ||| iHELD }

/-- The return from a trap (R318): the frame is written, handler mode ends, and the lanes go to TPC for a retry (then on to
TRESUME) or to TRESUME. Lanes of H outside the issuing set stay at the offset after the ERET. -/
def returnFromTrap (s : State) (gang : Nat) (lanes : Lanes) (next : Nat) (skip : Bool) : State :=
  let s := (s.modGang gang fun g => { g with hmode := false }).writeFrame gang
  let s := s.modGang gang fun g =>
    let g' := g.modLanes (laneList (g.hset &&& ~~~ lanes)) fun _ l =>
      if l.cond == .exited then l else { l with pc := next, cond := .running, wait := .none, hold := none, resumeAt := none }
    let g' := g'.modLanes (laneList lanes) fun i l =>
      if !skip && g.t.lanes.getLsbD i then { l with pc := g.t.tpc, resumeAt := some g.t.tresume }
      else { l with pc := g.t.tresume }
    { g' with retry := !skip && (g.t.lanes &&& lanes) != 0 }
  s.takeHeld gang

end State

end Sys2Proof.Machine
end

