-- ==== Sys2Proof/Machine/Port.lean ====
section
/-! DEFINITION. The memory port: buffer-table entries (R82, R83), the checks of R84, translation (R320, R321), interleave (R85),
straddles (R142), page-fault records (R322), and reads and writes of located bytes (R120, R122, R165, R166). -/

namespace Sys2Proof.Machine

/-- What a request can wait for without a fault: the answer of another device to a read of its buffer (`line` where its lines are to be kept under
leases, R120) or to a reservation on a fill counter there (R40), a line that a cluster holds in
custody (R154), or something that ends without being asked: a beat admitted before it to a Mill (R107), a full fault-hold queue (R158). -/
inductive Away where
  | remote (dev buf off n : Nat)
  | line (dev buf off n : Nat)
  | reserve (dev buf off count limit : Nat)
  | custody (loc : Nat)
  | beat
  deriving DecidableEq, Repr

/-- What a port request comes to: an answer, a fault, a replayable page fault on a 64 KiB page, met through a buffer index, or a wait. -/
inductive Port (α : Type) where
  | ok (a : α)
  | fail (e : Err)
  | miss (page buf : Nat)
  | away (w : Away)
  deriving Repr

def Port.bind {α β : Type} : Port α → (α → Port β) → Port β
  | .ok a, f => f a
  | .fail e, _ => .fail e
  | .miss p b, _ => .miss p b
  | .away w, _ => .away w

def Port.map {α β : Type} (f : α → β) (x : Port α) : Port β := x.bind fun a => .ok (f a)

/-- One request after another. Where the whole must wait for a page or for another device, the state is of no use and the request is
made again from its start. -/
def andThen {α β : Type} (x : State × Port α) (f : State → α → State × Port β) : State × Port β :=
  match x.2 with
  | .ok a => f x.1 a
  | .fail e => (x.1, .fail e)
  | .miss p b => (x.1, .miss p b)
  | .away w => (x.1, .away w)

/-- The address of a fault renamed to the access that met it. -/
def Port.at' {α : Type} (a : Nat) : Port α → Port α
  | .fail e => .fail { e with addr := a }
  | x => x

/-- A page fault met by a write is marked as one (R322). -/
def Port.write {α : Type} : Port α → Port α
  | .miss p b => .miss p (b % 4096 + 4096)
  | x => x

/-- A buffer-table entry (R83). -/
structure Entry where
  base : Nat
  length : Nat
  rights : Nat
  kind : Nat
  owner : Nat
  cls : Nat
  millrd : Nat
  millwr : Nat
  gen : Nat
  data : Nat
  deriving DecidableEq, Repr

def parseEntry (b : List Byte) : Entry :=
  { base := numAt b 0 8, length := numAt b 8 8, rights := numAt b 16 1, kind := numAt b 17 1, owner := numAt b 18 2,
    cls := numAt b 20 1, millrd := numAt b 21 1, millwr := numAt b 22 1, gen := numAt b 23 1, data := numAt b 24 8 }

/-- Rights bits of R83. -/
def rR : Nat := 1
def rW : Nat := 2
def rX : Nat := 4
def rATOM : Nat := 8
def rMILLR : Nat := 16
def rMILLW : Nat := 32
def rMCST : Nat := 64
def rFAR : Nat := 128

def Entry.grants (e : Entry) (mask : Nat) : Bool := e.rights &&& mask == mask

/-- R83, R250, R266: an entry that breaks a rule of the table. -/
def Entry.malformed (e : Entry) (devnum : Nat) : Bool :=
  e.kind > 7 || e.base % 128 != 0 || ((e.kind == 3 || e.kind == 5 || e.kind == 6) && e.base != 0) ||
  e.length > 2 ^ 52 || e.base + e.length > 2 ^ 64 || e.cls > 14 || (4 ≤ e.kind && e.cls != 0) ||
  (8 ≤ e.millrd && e.millrd ≤ 0xFE) || (8 ≤ e.millwr && e.millwr ≤ 0xFE) ||
  (match e.kind with
   | 0 => e.data != 0
   | 1 => e.data != 0
   | 2 => e.data % 64 != 0
   | 3 => e.data ≥ 4096
   | 4 => e.data != 0 || e.base ≥ 2 ^ 42
   | 5 => e.data ≥ 2 ^ 28 || e.data % 2 ^ 16 ≥ 1024 || e.data % 2 ^ 16 == devnum
   | 6 => e.data ≥ 64 || e.length != 64
   | _ => e.data != 0)

/-- Whether a class-space structure that lies within a sector stands in one that reads as poisoned. -/
def Dev.classPoisoned (d : Dev) (c a : Nat) : Bool :=
  match d.classLoc c a with
  | some l => d.poisoned (l / 64)
  | none => false

/-- The bytes of entry i in the table at BTBASE (R82). An entry in a poisoned sector counts as empty, so that it gives HANDLE: the port
does not go on with bytes that no rule gives (R14; DESIGN CHOICE, assumption 72). -/
def Dev.entryBytes (d : Dev) (i : Nat) : List Byte :=
  if d.classPoisoned 14 (d.host.btBase + 32 * i) then List.replicate 32 0 else d.classRead 14 (d.host.btBase + 32 * i) 32

/-- The entry a request uses: until BTSYNC has dropped the cached copy, the old one or the new one (R82, R13). -/
def State.entryRaw (s : State) (i : Nat) : List Byte :=
  match Tbl.find? s.dev.btStale i with
  | some old => if s.pickFor 18 i 2 = 1 then old else s.dev.entryBytes i
  | none => s.dev.entryBytes i
def State.entry (s : State) (i : Nat) : Entry := parseEntry (s.entryRaw i)

/-- The buffers of the system class (R174, R176). -/
def Entry.system (e : Entry) : Bool := e.kind == 4 || e.kind == 5 || e.kind == 7

/-! Mill slots and their gate (R104). -/

def noGraph : Nat := 0xFF

/-- Whether a request through an entry goes to a Mill slot: through a view always, through any other entry where it names a slot (R104). -/
def Entry.milled (e : Entry) (wr : Bool) : Bool := e.kind == 3 || (if wr then e.millwr else e.millrd) != noGraph

def State.millSlot (s : State) (k : Nat) : MillSlot := Tbl.get .empty s.ctx.millSlots k

/-- What a request asks of R84: rights, alignment, whether it is an atomic, and whether the requester is a split reader. -/
structure Need where
  rights : Nat
  align : Nat
  atomic : Bool
  split : Bool
  deriving DecidableEq, Repr

/-- Requests of device scope name their grid id; firmware and the other devices pass as 0x10000, which no entry owns. -/
def anyGrid : Nat := 0x10000

/-- R84, in its order, up to translation. An atomic is no store to a circle window: there it meets ATOMIC_KIND. -/
def State.check (s : State) (gridId h : Nat) (off : Int) (n : Nat) (q : Need) : Except Nat Entry :=
  let e := s.entry (h % 4096)
  let stores := q.rights &&& rW != 0 && !q.atomic
  if h ≥ 4096 || e.kind = 0 || e.malformed s.dev.host.devnum then .error cHANDLE
  else if e.kind = 2 && !q.split then .error cHANDLE
  else if e.owner ≠ 0xFFFF && e.owner ≠ gridId then .error cOWNER
  else if !e.grants (q.rights ||| (if e.kind = 4 || e.kind = 5 || e.kind = 7 then rFAR else 0)) || (e.kind = 6 && stores) then
    .error cRIGHTS
  else if off < 0 || off.toNat + n > e.length then .error cBOUNDS
  else if off.toNat % q.align ≠ 0 then .error cMISALIGNED
  else if q.atomic && (e.kind = 2 || e.kind = 3 || e.kind = 6) then .error cATOMIC
  else .ok e

/-! Translation. -/

/-- A leaf: the page's first va, its size, its class-space address and its attribute (R320, R140). -/
structure Leaf where
  va : Nat
  size : Nat
  addr : Nat
  attr : Nat
  deriving DecidableEq, Repr

inductive Walk where
  | leaf (l : Leaf)
  | fatal
  | miss
  deriving DecidableEq, Repr

/-- The levels of the walk below a table: low index bit, index width, level number (R320). -/
def walkLevels : List (Nat × Nat × Nat) := [(38, 10, 0), (32, 6, 1), (26, 6, 2), (21, 5, 3), (16, 5, 4)]

/-- The walk of the tables. An entry in a poisoned sector counts as malformed (R14; DESIGN CHOICE, assumption 72). -/
def Dev.walkFrom (d : Dev) (va : Nat) : List (Nat × Nat × Nat) → Nat → Walk
  | [], _ => .fatal
  | (lo, w, lv) :: rest, table =>
    match d.classLoc d.host.ptClass (table + 8 * bits va lo w) with
    | none => .fatal
    | some _ =>
      let e := ofBytes (d.classRead d.host.ptClass (table + 8 * bits va lo w) 8)
      let addr := e / 2 ^ 16 * 2 ^ 16
      if bits e 5 11 ≠ 0 || d.classPoisoned d.host.ptClass (table + 8 * bits va lo w) then .fatal
      else if !bit e 0 then (if bit e 4 then .fatal else .miss)
      else if bit e 1 then
        if lv = 0 || bits e 2 2 = 3 || addr % 2 ^ lo ≠ 0 then .fatal
        else .leaf ⟨va / 2 ^ lo * 2 ^ lo, 2 ^ lo, addr, bits e 2 2⟩
      else if lv = 4 then .fatal
      else d.walkFrom va rest addr

def Dev.walk (d : Dev) (va : Nat) : Walk := if va ≥ 2 ^ 48 then .fatal else d.walkFrom va walkLevels (d.host.ptRoot)

/-- R321: until PTSYNC has dropped it, a cached translation or the tables, decided per request. A page whose service the host has
failed is fatal to the accesses that wait for it (R322): it stands in the table as a list of one number while they are failed. -/
def State.translate (s : State) (va : Nat) : Walk :=
  match Tbl.find? s.dev.tlb (va / 2 ^ 16) with
  | some [v, z, a, t] => if s.dev.walk va = .leaf ⟨v, z, a, t⟩ then .leaf ⟨v, z, a, t⟩
      else if s.pickFor 19 (va / 2 ^ 16) 2 = 1 then .leaf ⟨v, z, a, t⟩ else s.dev.walk va
  | some [_] => .fatal
  | _ => s.dev.walk va

/-- A request's translation stays cached at its port (R321). -/
def State.cacheLeaf (s : State) (va : Nat) : State :=
  match s.translate va with
  | .leaf l => s.setDev fun d => { d with tlb := Tbl.set d.tlb (va / 2 ^ 16) [l.va, l.size, l.addr, l.attr] }
  | _ => s

/-- The translations of a request that has been served stay cached; those of kinds 4, 5 and 7 have none (R320). -/
def State.keepLeaves (s : State) (e : Entry) (off n : Nat) : State :=
  if e.kind ≠ 1 || n = 0 then s
  else
    let lo := (e.base + off) / 2 ^ 16
    (List.range ((e.base + off + n - 1) / 2 ^ 16 - lo + 1)).foldl (fun s k => s.cacheLeaf ((lo + k) * 2 ^ 16)) s

/-- One part of an access, located: its location, length and page attribute. -/
structure Piece where
  loc : Nat
  n : Nat
  attr : Nat
  va : Nat
  deriving DecidableEq, Repr

/-- A bref as one number (R80). -/
def bref (h off : Nat) : Nat := h % 4096 * 2 ^ 52 + off % 2 ^ 52

def errAt (cause h off : Nat) : Err := ⟨cause, bref h off, 0⟩

/-- R104: a request through a slot, by direction. The answer is the slot, or the fault. -/
def State.gateOf (s : State) (e : Entry) (h off : Nat) (wr : Bool) : Except Err Nat :=
  let k := if wr then e.millwr else e.millrd
  if k = noGraph then .error (errAt cRIGHTS h off)
  else match (s.millSlot k).gen with
    | none => .error { errAt cSTALE h off with info := 1 }
    | some g =>
      if g ≠ e.gen then .error { errAt cSTALE h off with info := 2 }
      else if !(s.millSlot k).binds.contains (h % 4096, wr) then .error { errAt cSTALE h off with info := 3 }
      else .ok k
def State.millGate (s : State) (h off : Nat) (wr : Bool) : Except Err Nat := s.gateOf (s.entry (h % 4096)) h off wr

/-- R84's GEN check, in each direction of the request. -/
def State.gates (s : State) (e : Entry) (h off : Nat) (q : Need) : Option Err :=
  let stale := fun (wr : Bool) => if !e.milled wr then none else match s.gateOf e h off wr with
    | .error x => some x
    | .ok _ => none
  (if q.rights &&& (rR ||| rX) != 0 then stale false else none).or (if q.rights &&& rW != 0 then stale true else none)

/-- The entry an access was checked against at issue, or the table's. -/
def State.entryOf (s : State) (x : Access) : Entry := if x.ent.isEmpty then s.entry (x.handle % 4096) else parseEntry x.ent

/-- A reduction held for a line keeps every later access of the line waiting (R158): the page that the queue before it waits for. The
access in hand is not held up by itself. -/
def State.heldPage (s : State) (va n : Nat) : Option Nat :=
  let before := s.ctx.redHold.takeWhile fun j => some j != s.eng
  let acc := before.filterMap s.access?
  if acc.any fun y => y.reqs.any fun q =>
      let a := ((s.entryOf y).base + q.off) / 128
      decide (va / 128 ≤ a ∧ a ≤ (va + n - 1) / 128) then
    acc.findSome? fun (y : Access) => (List.find? (fun (w : Nat × Nat) => Tbl.mem s.ctx.misses w.2) y.stall).map Prod.snd
  else none

/-- The virtual address of a request, and the slice whose fault-hold queue takes it (R158). -/
def State.reqVa (s : State) (x : Access) (r : Req) : Nat := (s.entryOf x).base + r.off
def sliceOf (a : Nat) : Nat := bits a 7 6 ^^^ bits a 13 6 ^^^ bits a 19 6

/-- The reductions held in a slice's queue, with the cores that issued them (R158). -/
def State.heldIn (s : State) (slice : Nat) : List Nat :=
  s.ctx.redHold.flatMap fun j => match s.access? j with
    | none => []
    | some y => (y.reqs.filter fun q => Tbl.mem y.stall q.lane && sliceOf (s.reqVa y q) == slice).map fun _ => y.core

/-- While a slice's queue is full, every further request to the slice of a core that has filled it waits at the memory port (R158). -/
def State.sliceFull (s : State) (core va : Nat) : Bool :=
  !s.ctx.redHold.isEmpty && (let held := s.heldIn (sliceOf va); decide (256 ≤ held.length) && held.contains core)

/-- The core whose request is in hand: of an access, of an engine's job, or of an instruction that reads as it issues. -/
def State.portCore (s : State) : Option Nat :=
  s.eng.bind fun id =>
    if 2 ^ 90 ≤ id then none else if 2 ^ 64 ≤ id then some (id % 2 ^ 64 / 64)
    else ((s.work? id).map (·.core)).or ((s.access? id).map (·.core))

/-- Placed pieces go on, unless one of them must wait for room in its slice's queue (R158). -/
def State.roomFor (s : State) (core : Option Nat) (ps : List Piece) : Port (List Piece) :=
  if s.ctx.redHold.isEmpty then .ok ps
  else if core.any fun c => ps.any fun p => (List.range ((p.va + p.n - 1) / 128 - p.va / 128 + 1)).any fun i => s.sliceFull c (128 * (p.va / 128 + i))
  then .away .beat else .ok ps

/-- The bytes of kinds 1, 4 and 7 at an offset, translated and interleaved (R320, R85); none is read or written. A page with a miss entry
is not walked again before its service (R322). A kind-4 offset that runs to 4 TiB or beyond gives HANDLE, the fault of the entry that leads
there (R14; DESIGN CHOICE, assumption 70). -/
def State.place (s : State) (e : Entry) (h off n : Nat) : Port Piece :=
  let va := e.base + off
  if e.kind = 4 then (if va + n ≤ 2 ^ 42 then .ok ⟨farBase + va, n, 0, va⟩ else .fail (errAt cHANDLE h off))
  else if e.kind = 7 then .ok ⟨hostBase + va, n, 0, va⟩
  else match s.heldPage va n with
  | some p => .miss p (h % 4096)
  | none =>
    if Tbl.mem s.ctx.misses (va / 2 ^ 16) then .miss (va / 2 ^ 16) (h % 4096)
    else match s.translate va with
    | .fatal => .fail (errAt cPAGEFATAL h off)
    | .miss => .miss (va / 2 ^ 16) (h % 4096)
    | .leaf l =>
      match s.dev.classLoc e.cls (l.addr + (va - l.va)) with
      | none => .fail (errAt cPAGEFATAL h off)
      | some loc => .ok ⟨loc, n, l.attr, va⟩

/-- How far a part may run: to the end of the page or the granule, whichever is nearer (R142). A view has the pages and granules of its own
offsets. -/
def partEnd (e : Entry) (off : Nat) : Nat :=
  if e.kind = 1 || e.kind = 3 then
    let g := min (classShape e.cls).2 65536
    (e.base + off) / g * g + g - e.base
  else if e.kind = 4 && e.base + off < 2 ^ 42 then 2 ^ 42 - e.base
  else off + 2 ^ 60

/-- A range cut into parts at page and granule boundaries; fuel bounds the count. -/
def cutParts (e : Entry) : Nat → Nat → Nat → List (Nat × Nat)
  | 0, off, n => if n = 0 then [] else [(off, n)]
  | fuel + 1, off, n =>
    if n = 0 then [] else
    let m := min n (partEnd e off - off)
    if m = 0 then [(off, n)] else (off, m) :: cutParts e fuel (off + m) (n - m)

/-- One part of an access by R84 in full: its tests, its translation and the GEN check. The other kinds are not translated here (R320). -/
def State.checkPart (s : State) (gridId h off n : Nat) (q : Need) : Port (List Piece) :=
  match s.check gridId h off n q with
  | .error c => .fail (errAt c h off)
  | .ok e => (if e.kind = 1 || e.kind = 4 || e.kind = 7 then (s.place e h off n).map ([·]) else .ok []).bind fun ps =>
      match s.gates e h off q with
      | some x => .fail x
      | none => .ok ps

/-- Two parts of one access: the first that fails is the access's fault, and only where none fails does it wait (R81, R142). -/
def Port.both {α : Type} : Port (List α) → Port (List α) → Port (List α)
  | .fail x, _ => .fail x
  | _, .fail x => .fail x
  | .ok p, .ok q => .ok (p ++ q)
  | .ok _, y => y
  | x, _ => x

/-- All parts placed: the first failing part's fault wins over a page fault of another (R142). -/
def State.placeAll (s : State) (e : Entry) (h : Nat) (ps : List (Nat × Nat)) : Port (List Piece) :=
  ps.foldr (fun p acc => ((s.place e h p.1 p.2).map ([·])).both acc) (.ok [])

/-- R84 and R142 for an access of at most 16 bytes: every part passes on its own bytes, in address order. An offset below 0
is named modulo 2^52 (DESIGN CHOICE, assumption 71). -/
def State.checkParts (s : State) (gridId h : Nat) (off : Int) (n : Nat) (q : Need) : Port (Entry × List Piece) :=
  let e := s.entry (h % 4096)
  if off < 0 then match s.check gridId h off n q with
    | .error c => .fail (errAt c h (wrap 52 off))
    | .ok _ => .ok (e, [])
  else ((cutParts e 4 off.toNat n).foldr (fun p acc => (s.checkPart gridId h p.1 p.2 q).both acc) (.ok [])).map (e, ·)

/-! Page-fault records (R322). -/

/-- A miss on a page with no entry walks once and posts one record at the lowest free INDEX; with the queue full it waits
unposted. The first record raises vector 0 (R334). -/
def State.postMiss (s : State) (page buf : Nat) (wr : Bool) (gridId : Nat) : State :=
  let wr := wr || decide (4096 ≤ buf)
  let buf := buf % 4096
  match Tbl.find? s.ctx.misses page with
  | some m =>
    let fq := match m.rec' with
      | some i => (match Tbl.find? s.ctx.fq i with
        | some r => Tbl.set s.ctx.fq i { r with wr := r.wr || wr }
        | none => s.ctx.fq)
      | none => s.ctx.fq
    s.setCtx fun c => { c with misses := Tbl.set c.misses page { m with wr := m.wr || wr }, fq := fq }
  | none =>
    match Tbl.freeKey s.ctx.fq 1024 with
    | none => s.setCtx fun c => { c with misses := Tbl.set c.misses page ⟨none, buf, wr, gridId⟩ }
    | some i =>
      let first := s.ctx.fq.isEmpty
      let s := s.setCtx fun c => { c with
        misses := Tbl.set c.misses page ⟨some i, buf, wr, gridId⟩,
        fq := Tbl.set c.fq i ⟨page * 2 ^ 16, buf, wr, gridId, false, c.seq⟩, seq := c.seq + 1 }
      if first then s.msix 0 else s

/-! Located bytes. -/

/-- Cuts a location range at lines. -/
def lineCuts : Nat → Nat → Nat → List (Nat × Nat)
  | 0, loc, n => if n = 0 then [] else [(loc, n)]
  | fuel + 1, loc, n =>
    if n = 0 then [] else
    let m := min n (128 - loc % 128)
    (loc, m) :: lineCuts fuel (loc + m) (n - m)

/-- Whether a port's link is up for a location (R97). -/
def Dev.portUp (d : Dev) (loc : Nat) : Bool :=
  if loc < farBase then true else if loc < hostBase then d.farUp else d.hostUp

/-- FAR_MEMORY, with TINFO telling the host port from the far port (R97, R315). -/
def farErr (h off loc : Nat) : Err := ⟨cFAR, bref h off, if loc ≥ hostBase then iHOSTPORT else 0⟩

/-- A read at the point, with no lease: the bytes and whether a sector is poisoned. -/
def Dev.homeRead (d : Dev) (loc n : Nat) : List Byte × Bool := (d.mem.readBytes loc n, n != 0 && d.isPoisoned loc n)

def cacheOf (s : State) (core line : Nat) : Option CacheLine := Tbl.find? (s.core core).cache line

def State.setCache (s : State) (core line : Nat) (x : Option CacheLine) : State :=
  s.modCore core fun c => { c with cache := match x with
    | some x => Tbl.set c.cache line x
    | none => Tbl.erase c.cache line }

/-- A copy joins a core cache of 8 ways and (B3 − B2) / 1024 sets: one line of a full set is dropped (R122). The set of a line is its
number modulo the sets (DESIGN CHOICE, assumption 20). -/
def Core.keepCopy (c : Core) (pick line : Nat) (x : CacheLine) : Core :=
  let sets := (c.b3 - c.b2) / 1024
  let mates := (Tbl.keys c.cache).filter fun j => j != line && j % sets == line % sets
  let rest := match (if mates.length < 8 then none else mates[pick % 8]?) with
    | some v => Tbl.erase c.cache v
    | none => c.cache
  { c with cache := Tbl.set rest line x }

/-- A fetch of a whole line from its home under a lease into the core's cache (R120, R122). -/
def State.fillCache (s : State) (core slot line : Nat) : State :=
  let (d, e) := s.dev.grant (s.pickFor 3 line 16) line false
  let s := { s with dev := d }
  let bytes := d.mem.readBytes (128 * line) 128
  let x : CacheLine := ⟨e, bytes, [d.poisoned (2 * line), d.poisoned (2 * line + 1)]⟩
  (s.modCore core fun c => c.keepCopy (s.pickFor 4 line 8) line x).perfEvent core slot 0x14 1

/-- A copy whose lease stands, where the cache still has it: it may have dropped the copy (R13, R122), though not at the instant at which it
was fetched. -/
def State.copyOf (s : State) (core line : Nat) : Option CacheLine :=
  match cacheOf s core line with
  | some x => if s.now < x.expiry && (x.expiry == s.now + s.dev.host.leaseNs || decide (s.pickFor 20 line 2 = 0)) then some x else none
  | none => none

/-- Bytes of a copy at an offset in its line, and whether a sector of theirs is poisoned. -/
def CacheLine.at' (x : CacheLine) (o n : Nat) : List Byte × Bool :=
  (slice x.bytes o n, (x.poison.getD (o / 64) false) || (x.poison.getD ((o + n - 1) / 64) false))

/-- A cached read within one line: from a copy whose lease stands, or from a new copy (R120, R122, R165). -/
def State.cachedRead (s : State) (core slot loc n : Nat) : State × List Byte × Bool :=
  let line := loc / 128
  match s.copyOf core line with
  | some x => (s, x.at' (loc % 128) n)
  | none =>
    let late := match cacheOf s core line with
      | some x => decide (x.expiry ≤ s.now)
      | none => false
    let s := (if late then s.perfEvent core slot 0x15 1 else s).fillCache core slot line
    (s, s.dev.homeRead loc n)

/-- Bytes stored at the home go into a copy the core holds; its mark goes where the store has cleared the home's (R122). -/
def State.storeCopy (s : State) (core loc : Nat) (bs : List Byte) : State :=
  match cacheOf s core (loc / 128) with
  | some x => s.setCache core (loc / 128) (some { x with
      bytes := patch x.bytes (loc % 128) bs,
      poison := x.poison.zipIdx.map fun (p, k) => p && s.dev.poisoned (loc / 128 * 2 + k) })
  | none => s

/-- A home read under policy 1 or 2 replaces the bytes of a copy the core holds, and the mark travels with them (R90, R166). -/
def State.refreshCopy (s : State) (core loc : Nat) (bs : List Byte) : State :=
  match cacheOf s core (loc / 128) with
  | some x => s.setCache core (loc / 128) (some { x with
      bytes := patch x.bytes (loc % 128) bs,
      poison := x.poison.zipIdx.map fun (p, k) => p || (decide (loc % 128 / 64 ≤ k ∧ k ≤ (loc % 128 + bs.length - 1) / 64) && s.dev.poisoned (loc / 128 * 2 + k)) })
  | none => s

/-- The lines of another device's buffer have keys of their own in a core cache (R120). -/
def remoteLine (data off : Nat) : Nat := 2 ^ 90 + data % 2 ^ 28 * 2 ^ 46 + off / 128

/-- Bytes of another device's buffer from copies under its leases, where the core holds them all (R120, R165). -/
def State.remoteCopy (s : State) (core policy data off n : Nat) : Option (List Byte × Bool) :=
  if policy = 2 then none
  else (lineCuts 2 off n).foldr (fun c acc => match acc, s.copyOf core (remoteLine data c.1) with
    | some y, some x => some ((x.at' (c.1 % 128) c.2).1 ++ y.1, (x.at' (c.1 % 128) c.2).2 || y.2)
    | _, _ => none) (some ([], false))

/-- What a write of another device's buffer does to the core's copies: the stored bytes go in, or the copies are dropped (R122). -/
def State.remoteStored (s : State) (core data off n : Nat) (bs : Option (List Byte)) : State :=
  (lineCuts 2 off n).foldl (fun s c => match bs, cacheOf s core (remoteLine data c.1) with
    | some bs, some x => s.setCache core (remoteLine data c.1) (some { x with bytes := patch x.bytes (c.1 % 128) (slice bs (c.1 - off) c.2) })
    | none, some _ => s.setCache core (remoteLine data c.1) none
    | _, none => s) s

/-- Reads of a lane or the uniform stream: `policy` is the effective policy (R140). Under policy 1 a copy that is there may serve; under
policy 2 only the home does (R122). -/
def State.readCut (s : State) (core slot policy loc n : Nat) : State × List Byte × Bool :=
  if policy = 0 then s.cachedRead core slot loc n
  else match (if policy = 1 then s.copyOf core (loc / 128) else none) with
    | some x => (s, x.at' (loc % 128) n)
    | none =>
      let (bs, p) := s.dev.homeRead loc n
      (s.refreshCopy core loc bs, bs, p)

/-- A line that the cluster holds in custody is read there, without a lease (R145). -/
def State.readCuts (s : State) (core slot policy : Nat) : List (Nat × Nat) → State × List Byte × Bool
  | [] => (s, [], false)
  | (loc, n) :: rest =>
    let (s, a, p) := s.readCut core slot (if Tbl.mem s.ctx.custody (loc / 128) then 2 else policy) loc n
    let (s, b, q) := s.readCuts core slot policy rest
    (s, a ++ b, p || q)

/-- The armed trigger entries that watch a written word are evaluated (R269): those whose signal has reached THRESH start when
device time reaches the write's WCT. -/
def State.evalTriggers (s : State) (loc n wct : Nat) : State :=
  let look := fun (t : Trigger) =>
    if t.state != .armed || t.due.isSome then t else
    let ref := numAt t.image 0 8
    match s.place (s.entry (ref / 2 ^ 52)) (ref / 2 ^ 52) (ref % 2 ^ 52) 8 with
    | .ok p =>
      if p.loc < loc + n && loc < p.loc + 8 && ofBytes (s.dev.mem.readBytes p.loc 8) ≥ numAt t.image 8 8
      then { t with due := some wct } else t
    | _ => t
  if s.ctx.triggers.isEmpty then s
  else s.setCtx fun c => { c with triggers := c.triggers.map fun x => (x.1, look x.2) }

/-- The bytes that a write replaces are kept, so that a read served before it may still return them (R165, assumption 68). -/
def State.keepPast (s : State) (loc n : Nat) : State :=
  s.setDev fun d => { d with past := ⟨s.ticks, loc, d.mem.readBytes loc n⟩ :: d.past }

/-- A write within one line performed at its home: the one place where memory changes. A write to a channel in CHANNEL_LOST is dropped
(R94). -/
def State.performLine (s : State) (loc : Nat) (bs : List Byte) : State × StoreSet :=
  if s.dev.lostAt loc then (s, ⟨0, some ⟨cLOST, 0, 0⟩, false, 0⟩)
  else
    let s := s.keepPast loc bs.length
    let (d, w) := s.dev.homeWrite (s.pickFor 5 loc 16) loc bs
    let s := { s with dev := d }
    (s.evalTriggers loc bs.length w, ⟨w, none, false, 0⟩)

/-- A write of located bytes, line by line; its WCT is the latest of theirs (R120). -/
def State.performLines (s : State) (bs : List Byte) (loc : Nat) : List (Nat × Nat) → State × StoreSet
  | [] => (s, .none)
  | [c] => s.performLine c.1 (slice bs (c.1 - loc) c.2)
  | c :: cs =>
    let (s, x) := s.performLine c.1 (slice bs (c.1 - loc) c.2)
    let (s, y) := s.performLines bs loc cs
    (s, mergeStore x y)
def State.performWrite (s : State) (loc : Nat) (bs : List Byte) : State × StoreSet :=
  s.performLines bs loc (lineCuts (bs.length / 128 + 1) loc bs.length)

/-- A write of located pieces: the later of the parts' WCTs (R142), the first part's error, and the stored bytes in the issuing
core's copy, or no copy at all under policy 1 or 2 (R122, R140). -/
def State.writePieces (s : State) (core : Option Nat) (policy h off : Nat) : List Piece → List Byte → State × StoreSet
  | [], _ => (s, .none)
  | p :: ps, bs =>
    let (s, x) : State × StoreSet :=
      if !s.dev.portUp p.loc then (s, ⟨0, some (farErr h off p.loc), false, 0⟩)
      else
        let (s, x) := s.performWrite p.loc (bs.take p.n)
        (s, { x with err := x.err.map fun e => { e with addr := bref h off } })
    let s : State := match core with
      | none => s
      | some c =>
        if x.err.isSome then s
        else if max policy p.attr = 0 then (lineCuts 4 p.loc p.n).foldl (fun s (l, m) =>
          s.storeCopy c l ((bs.drop (l - p.loc)).take m)) s
        else (lineCuts 4 p.loc p.n).foldl (fun s (l, _) => s.setCache c (l / 128) none) s
    let (s, y) := s.writePieces core policy h (off + p.n) ps (bs.drop p.n)
    (s, mergeStore x y)

/-- Custody (R154): whether a request from a cluster must wait for a line to return home. Narrow atomics and loads of the holding
cluster do not. -/
def State.custodyBlocks (s : State) (cluster loc : Nat) (inside : Bool) : Bool :=
  match Tbl.find? s.ctx.custody (loc / 128) with
  | none => false
  | some c => !(inside && c.cluster == cluster)

/-- The first byte of a piece whose line its request must wait for. -/
def State.pieceBlocked (s : State) (cluster : Nat) (inside : Bool) (p : Piece) : Option Nat :=
  ((lineCuts 4 p.loc p.n).find? fun c => s.custodyBlocks cluster c.1 inside).map Prod.fst

/-- Located pieces that no cluster holds in custody: every other request waits until the line is home (R154). -/
def State.atHome (s : State) (ps : List Piece) : Port (List Piece) :=
  if s.ctx.custody.isEmpty then .ok ps
  else match ps.find? fun p => (lineCuts (p.n / 128 + 1) p.loc p.n).any fun c => Tbl.mem s.ctx.custody (c.1 / 128) with
    | some p => .away (.custody (((lineCuts (p.n / 128 + 1) p.loc p.n).find? fun c => Tbl.mem s.ctx.custody (c.1 / 128)).getD (p.loc, 0)).1)
    | none => .ok ps

/-- A request from inside the cluster that its unit cannot serve makes it return the line (R154). -/
def State.askReturn (s : State) (cluster loc : Nat) : State :=
  match Tbl.find? s.ctx.custody (loc / 128) with
  | some c => if c.cluster = cluster then s.setCtx fun x => { x with custody := Tbl.set x.custody (loc / 128) { c with ret := true } }
    else s
  | none => s

end Sys2Proof.Machine
end

