-- ==== Sys2Proof/Machine/Ordering.lean ====
section
/-! DEFINITION. What orders a lane's accesses (R165, R169 to R171, R173, R175, R383): dependencies carried by registers, the words after which
no earlier value may be read, and the values that a read served before its issue returns. (DEDUCED, assumption 68) -/

namespace Sys2Proof.Machine

open Sys2Proof

/-- What a word does to the order of its lanes' accesses. -/
inductive OrderClass where
  /-- It carries dependencies from the registers it reads to those it writes. -/
  | carries
  /-- Its results carry none: a cross-lane word (R171), a word that reads no register a load has written, and every word whose description
  states no order (R181). -/
  | free
  /-- It accesses memory; a load is served after the loads that its address registers depend on. -/
  | access
  /-- A FENCE or a word that waits as one, on the LSU path: the lanes' later accesses come after it (R175). -/
  | fence
  deriving DecidableEq, Repr

/-- The paths of a FENCE, or of the fence that a word waits as (R175, R180, R257, R311). -/
def fencePaths : Instr → Nat
  | .fence _ paths .. => paths.toNat
  | .sigadd _ _ _ _ _ rel paths => if rel then paths.toNat else 0
  | .bara .. | .spawn .. | .timeat .. => 1
  | _ => 0

def orderClass (i : Instr) : OrderClass :=
  if bit (fencePaths i) pLSU then .fence
  else match i with
  | .ld .. | .st .. | .lds .. | .sts .. | .atom .. | .red .. | .atoms .. | .pf .. | .sld .. | .sst .. => .access
  | .shfl .. | .vote .. | .redl .. | .scanl .. | .bcast .. | .rdlane .. | .refill .. => .free
  | .sadd .. | .ssub .. | .smul .. | .sand .. | .sor .. | .sxor .. | .sshl .. | .sshr .. | .ssar .. | .smov .. | .smin .. | .smax ..
  | .scmp .. | .saddi .. | .sli .. | .scmpi .. => .carries
  | i => if isLaneSet i && i.isCode then .carries else .free

/-- Lane registers that a word writes as it executes, and those it reads. -/
def laneWrites : Instr → List Nat
  | .icmp .. | .fcmp .. | .brx .. | .st .. | .sts .. | .red .. | .pf .. | .rdlane .. => []
  | .imad _ d _ _ _ _ wide => if wide then [d, d.val + 1] else [d]
  | .lea _ d .. => [d, d.val + 1]
  | .vote _ d _ mode .. => if mode == .ballot then [d, d.val + 1] else [d]
  | .ld .. | .lds .. | .atom .. | .atoms .. => []
  | i => (laneNames i).take 1
def laneReads : Instr → List Nat
  | .imad _ _ a b c _ wide => if wide then [a, b, c, c.val + 1] else [a, b, c]
  | .lea _ _ _ vo .. => [vo]
  | .icmp _ _ a b .. => [a, b]
  | .fcmp _ _ a b .. => [a, b]
  | i => (laneNames i).drop 1

/-- Lane and uniform guards that a word reads and writes. -/
def guardReads (i : Instr) : List Nat × List Nat :=
  let g := match guardOf i with
    | .lane r _ => ([r], [])
    | .unif r _ => ([], [r])
    | .all => ([], [])
  match i with
  | .sel r .. => (r.val :: g.1, g.2)
  | .icmp _ d _ _ _ _ comb => (if comb == .set then g.1 else d.val :: g.1, g.2)
  | .fcmp _ d _ _ _ _ comb => (if comb == .set then g.1 else d.val :: g.1, g.2)
  | _ => g
def guardWrites : Instr → List Nat × List Nat
  | .icmp _ d .. => ([d], [])
  | .fcmp _ d .. => ([d], [])
  | .vote _ _ _ _ d w => (if w then [d.val] else [], [])
  | .scmp _ d .. => ([], [d])
  | .scmpi _ d .. => ([], [d])
  | .ttest _ _ _ d => ([], [d])
  | .barw _ _ _ _ _ _ d _ => ([], [d])
  | .sigwait _ _ _ _ _ d _ => ([], [d])
  | _ => ([], [])

/-- Keys of the stamps: registers and guards of a lane, and under 64 those of the uniform stream. -/
def regKey (l r : Nat) : Nat := l * 1024 + r
def guardKey (l g : Nat) : Nat := l * 1024 + 512 + g

/-- The stamps' keys of what a word reads and of what it writes in a lane. -/
def readKeys (i : Instr) (l : Nat) : List Nat :=
  (laneReads i).map (regKey l) ++ (guardReads i).1.map (guardKey l) ++ (sReads i).map (regKey 64) ++ (guardReads i).2.map (guardKey 64)
def writeKeys (i : Instr) (l : Nat) : List Nat :=
  (laneWrites i).map (regKey l) ++ (guardWrites i).1.map (guardKey l) ++ (sWrites i).map (regKey 64) ++ (guardWrites i).2.map (guardKey 64)

/-- The stamps' keys of a load's handle and offset registers (R169). -/
def addressKeys (i : Instr) (l : Nat) : List Nat :=
  match i with
  | .ld _ _ hs vo .. => [regKey 64 hs, regKey l vo]
  | .sld _ _ a b .. => [regKey 64 a, regKey 64 b]
  | _ => []

namespace Order

/-- The instant before which no later load of a lane is served; key 65 stands for all lanes and the uniform stream. -/
def floorOf (o : Order) (l : Nat) : Nat := max o.placed (max (Tbl.get 0 o.floor 65) (Tbl.get 0 o.floor l))
def sinceOf (o : Order) (l : Nat) : Nat := max o.placed (Tbl.get 0 o.since l)

def latest (o : Order) (ks : List Nat) : Nat := ks.foldl (fun m k => max m (Tbl.get 0 o.stamps k)) 0

/-- Lanes that go on after a word that orders their accesses do so from now on. -/
def resumed (o : Order) (ls : List Nat) (now : Nat) : Order :=
  let up := fun (t : Tbl Nat) (m : Lanes) => ls.foldl (fun t l => if m.getLsbD l then Tbl.set t l now else t) t
  if ls.any o.raise.getLsbD then
    { o with since := up o.since o.acq, floor := Tbl.set (up o.floor o.raise) 64 now, acq := o.acq &&& ~~~ laneSet ls,
             raise := o.raise &&& ~~~ laneSet ls }
  else o

/-- The word i, issued by a set and executed by some of its lanes; a uniform word is one of the uniform stream. -/
def executed (o : Order) (i : Instr) (set : Lanes) (run : List Nat) : Order :=
  let ls := if isLaneSet i then run else [64]
  match orderClass i with
  | .free => if o.stamps.isEmpty then o else { o with stamps := (ls.flatMap (writeKeys i)).foldl Tbl.erase o.stamps }
  | .fence =>
    let o := { o with raise := o.raise ||| set }
    (match i with
    | .fence _ _ _ _ acq => if acq then { o with acq := o.acq ||| set } else o
    | _ => o)
  | .carries => if o.stamps.isEmpty then o
    else { o with stamps := ls.foldl (fun t l =>
      let m := o.latest (readKeys i l)
      (writeKeys i l).foldl (fun t k => if m = 0 then Tbl.erase t k else Tbl.set t k m) t) o.stamps }
  | .access => if o.stamps.isEmpty && o.dep.isEmpty then o
    else { o with dep := (ls.map fun l => (l, o.latest (addressKeys i l))).filter fun x => x.2 != 0 }

end Order

/-- Replaced stash bytes without the one at an offset. -/
def StashPast.cut (x : StashPast) (a : Nat) : List StashPast :=
  if a < x.off || x.off + x.bytes.length ≤ a then [x]
  else [{ x with bytes := x.bytes.take (a - x.off) }, { x with off := a + 1, bytes := x.bytes.drop (a + 1 - x.off) }].filter fun y => !y.bytes.isEmpty

namespace State

def orderOf (s : State) (gk : Nat) : Order := Tbl.get (.start 0) s.ctx.order gk
def setOrder (s : State) (gk : Nat) (o : Order) : State := s.setCtx fun c => { c with order := Tbl.set c.order gk o }

/-- The word i is issued by a set of a gang and executed by some of its lanes. What a path that a FENCE names reads of stash bytes that an engine
on a path it names has written, with the engine's token read before, is what stands there from here on (R173, R175). -/
def ordered (s : State) (gk : Nat) (set : Lanes) (run : List Nat) (i : Instr) : State :=
  let o := s.orderOf gk
  let o' := (o.resumed (laneList set) s.ticks).executed i set run
  let s := if o' = o then s else s.setOrder gk o'
  let paths := fencePaths i
  if paths ≤ 1 || s.ctx.stashOld.isEmpty then s
  else s.setCtx fun c => { c with stashOld := c.stashOld.map fun x =>
    if x.gang == gk && x.read && bit paths x.path then { x with seen := x.seen ||| paths } else x }

/-- A SIGWAIT or BARW has read what it waited for: every later access of the gang is served after now (R260, R311). -/
def orderedNow (s : State) (gk : Nat) : State :=
  s.setOrder gk { s.orderOf gk with floor := Tbl.set (s.orderOf gk).floor 65 s.ticks }

/-- Every path of a gang reads the stash as it stands (R260). -/
def stashOrdered (s : State) (gk : Nat) : State :=
  if s.ctx.stashOld.isEmpty then s else s.setCtx fun c => { c with stashOld := c.stashOld.filter fun x => x.gang != gk }

/-- A gang has seen a barrier object in a phase: of the tiles that arrive at the object, those whose phase is over are read as they stand
(R192). -/
def phaseSeen (s : State) (gk obj phase : Nat) : State :=
  if s.ctx.stashOld.isEmpty then s
  else s.setCtx fun c => { c with stashOld := c.stashOld.filter fun x => !(x.gang == gk && x.obj.any fun p => p.1 == obj && p.2 != phase) }

/-- The engine of a job has placed the rows of a tile in a team's stash, whose arrive-end is in a phase of an object (R192). -/
def tilePhase (s : State) (id team : Nat) (rows : List (Nat × Nat)) (obj phase : Nat) : State :=
  if s.ctx.stashOld.isEmpty then s
  else s.setCtx fun c => { c with stashOld := c.stashOld.map fun x =>
    if x.job == id && x.team == team && x.obj.isNone && rows.any fun r => decide (r.1 < x.off + x.bytes.length) && decide (x.off < r.1 + r.2)
    then { x with obj := some (obj, phase) } else x }

/-- The registers that a load of a lane has written depend on it (R169). -/
def stamped (s : State) (gk l : Nat) (regs : List Nat) : State :=
  let o := s.orderOf gk
  s.setOrder gk { o with stamps := regs.foldl (fun t r => Tbl.set t (regKey l r) s.ticks) o.stamps }

/-- A lane has read or written bytes at their place (R165, R169). -/
def observed (s : State) (gk l : Nat) (locs : List (Nat × Nat)) : State :=
  let o := s.orderOf gk
  if locs.isEmpty then s
  else s.setOrder gk { o with touched := locs.foldl (fun t p =>
    (t.filter fun x => !(x.lane == l && decide (p.1 ≤ x.loc) && decide (x.loc + x.n ≤ p.1 + p.2))) ++ [⟨l, p.1, p.2, s.ticks⟩]) o.touched }

/-- When a lane last read or wrote a byte. -/
def touchedAt (o : Order) (l a : Nat) : Nat :=
  o.touched.foldl (fun m x => if x.lane == l && decide (x.loc ≤ a) && decide (a < x.loc + x.n) then max m x.at' else m) 0

/-- The bytes that writes performed after an instant have replaced in a range, newest first. -/
def pastOf (s : State) (since loc n : Nat) : List Past :=
  s.dev.past.filter fun p => decide (since < p.at') && decide (p.loc < loc + n) && decide (loc < p.loc + p.bytes.length)

/-- Bytes at a location before a write, where a byte may be taken back to it. -/
def undo (loc : Nat) (may : Nat → Past → Bool) (bs : List Byte) (p : Past) : List Byte :=
  bs.zipIdx.map fun (b, k) => if p.loc ≤ loc + k && may (loc + k) p then p.bytes.getD (loc + k - p.loc) b else b

/-- What a load of a lane returns: the bytes as they stand, or as they stood at an instant after every access that comes before it: those that
a FENCE orders, the loads its address depends on (`after`), and for each byte the lane's own last access to it (R13, R165, R169 to R171). -/
def aged (s : State) (gk l after loc : Nat) (bs : List Byte) : List Byte :=
  let o := s.orderOf gk
  let ps := s.pastOf (max (o.floorOf l) after) loc bs.length
  if ps.isEmpty then bs
  else (ps.take (s.pickFor 24 loc (ps.length + 1))).foldl (undo loc fun a p => decide (touchedAt o l a < p.at')) bs

/-- What a fetch of a code word returns: each store since its window opened may be in it or not (R383). -/
def agedCode (s : State) (since loc : Nat) (bs : List Byte) : List Byte :=
  let ps := s.pastOf since loc bs.length
  if ps.isEmpty then bs else ps.zipIdx.foldl (fun bs (p, k) => if s.pickFor 23 (64 * loc + k) 2 = 0 then bs else undo loc (fun _ _ => true) bs p) bs

/-- The instant at which the window of a fetch opened for the lanes of a gang that stand at an offset (R383). -/
def codeSince (s : State) (gk pc : Nat) : Nat :=
  let o := s.orderOf gk
  let g := s.gang gk
  (List.range 64).foldl (fun m l =>
    if (g.lane l).pc == pc && (g.lane l).cond != .exited then max m (if o.acq.getLsbD l then s.ticks else o.sinceOf l) else m) o.placed

/-- Stash bytes as a path of a gang reads them: of each byte that an engine has written on another path, with no FENCE since its token's reading
that names both, the old or the new one (R173). -/
def stashMixed (s : State) (gk path team so : Nat) (bs : List Byte) : List Byte :=
  let old := s.ctx.stashOld.filter fun x => x.gang == gk && x.team == team && x.path != path && !bit x.seen path && decide (x.off < so + bs.length) &&
    decide (so < x.off + x.bytes.length)
  if old.isEmpty then bs
  else bs.zipIdx.map fun (b, k) => match old.find? fun x => decide (x.off ≤ so + k) && decide (so + k < x.off + x.bytes.length) with
    | some x => if s.pickFor 25 (so + k) 2 = 0 then b else x.bytes.getD (so + k - x.off) b
    | none => b

/-- The bytes of a stash range stand as they are: nothing older of them is read any more. -/
def stashSettled (s : State) (team so n : Nat) : State :=
  if s.ctx.stashOld.isEmpty then s
  else s.setCtx fun c => { c with stashOld := c.stashOld.filter fun x => !(x.team == team && decide (x.off < so + n) && decide (so < x.off + x.bytes.length)) }

/-- The bytes of a range that a read of a gang has returned as they stand: nothing older of them is read any more. -/
def stashRead' (s : State) (gk team so n : Nat) : State :=
  if s.ctx.stashOld.isEmpty then s
  else s.setCtx fun c => { c with stashOld := ((List.range n).filter fun k => s.pickFor 25 (so + k) 2 = 0).foldl (fun xs k =>
    xs.flatMap fun x => if x.gang == gk && x.team == team then x.cut (so + k) else [x]) c.stashOld }

end State

end Sys2Proof.Machine
end

