-- ==== Sys2Proof/Machine/Issue.lean ====
section
/-! DEFINITION. Issue of one instruction word: the checks of R65 in their order, guards (R66, R67), lookahead windows (R68, R69),
pending tokens (R71), collectives and reconvergence (R282, R283), and what follows from what the instruction's own part answers. -/

namespace Sys2Proof.Machine

open Sys2Proof

/-- An instruction at its issue: where it stands, its issuing set, the lanes that execute it in ascending index, and the offset
after it. `again` marks a blocked instruction made again by the lanes that wait in it. -/
structure At where
  core : Nat
  slot : Nat
  set : Lanes
  exec : List Nat
  pc : Nat
  next : Nat
  again : Bool
  deriving DecidableEq, Repr

def At.gang (a : At) : Nat := gangKey a.core a.slot

/-- What an instruction's own part comes to. -/
inductive Res where
  /-- It has its effect. -/
  | done (s : State)
  /-- It holds or blocks its lanes at its own offset. -/
  | hold (s : State)
  /-- It waits at issue for a resource: nothing changes (R272). -/
  | stall
  /-- A precise fault of the lanes of a set. -/
  | trap (s : State) (lanes : Lanes) (cause addr info : Nat)

/-- A lane moves past an instruction: to TRESUME when ERET sent it to retry one (R318), else to the next offset. Its windows count
the instruction (R68). -/
def Lane.advance (next : Nat) (l : Lane) : Lane :=
  { l with pc := l.resumeAt.getD next, resumeAt := none, cond := .running, wait := .none, hold := none,
           wins := l.wins.map fun w => { w with left := w.left - 1 } }

/-- A lane takes a branch. On a retry whose TRESUME the handler moved, it goes on at TRESUME (R318, assumption 21). -/
def Lane.goto (next target : Nat) (l : Lane) : Lane :=
  { l.advance next with pc := if l.resumeAt.getD next = next then target % 2 ^ 32 else l.resumeAt.getD next }

/-- A lane blocks in the instruction it stands at. -/
def Lane.block (w : Wait) (l : Lane) : Lane := { l with cond := .blocked, wait := w }

/-- The issuing set moves past the instruction. -/
def At.step (a : At) (s : State) : State :=
  s.modGang a.gang fun g => g.modLanes (laneList a.set) fun _ l => l.advance a.next

/-- The issuing set blocks at the instruction. -/
def At.block (a : At) (w : Wait) (s : State) : State :=
  s.modGang a.gang fun g => g.modLanes (laneList a.set) fun _ l => l.block w

/-- The lanes of a hold record stand at the instruction without being blocked; a deadline they were given stays (R384). -/
def At.holdLanes (a : At) (s : State) (h : Nat) : State :=
  s.modGang a.gang fun g => g.modLanes (laneList a.set) fun _ l => { l with hold := some h, cond := .running }

/-- Lanes of a set released from a hold or a block go on together after the instruction at which they stand. -/
def State.releaseLanes (s : State) (gang : Nat) (m : Lanes) (next : Nat) : State :=
  s.modGang gang fun g => g.modLanes (laneList m) fun _ l => l.advance next

/-- Lanes of the set that owe themselves a pending result among a register list: the destination of a window's access (R68). -/
def State.hazards (s : State) (gang : Nat) (m : Lanes) (i : Instr) : Lanes :=
  let g := s.gang gang
  let names := laneNames i
  let unames := sNames i
  laneSet ((laneList m).filter fun l => (g.lane l).wins.any fun w =>
    match s.access? w.acc with
    | none => false
    | some x => w.left > 0 && (span x.reg x.wd.regs).any fun r => if x.kind == .sld then unames.contains r else names.contains r)

/-- Whether a lane of the set must wait for a result before this instruction: a window has ended, or the instruction drains them
(R68, R69). -/
def State.windowWait (s : State) (gang : Nat) (m : Lanes) (i : Instr) : Bool :=
  let g := s.gang gang
  (laneList m).any fun l => (g.lane l).wins.any fun w => drains i || w.left == 0

/-- Uniform registers whose value the word must wait for: TWAIT and TTEST do not wait for the token they examine (R183). -/
def tokenNames (i : Instr) : List Nat :=
  match i with
  | .twait .. => []
  | .ttest _ d _ _ => [d]
  | _ => sReads i ++ sWrites i

/-- The scoreboard: no uniform register that the word names is pending, by a token (R71) or by an SLD (R68). -/
def State.available (s : State) (gang : Nat) (i : Instr) : Bool :=
  let g := s.gang gang
  (g.tokens.isEmpty || (tokenNames i).all fun r => !Tbl.mem g.tokens r) &&
  s.ctx.accs.all fun x => !(x.2.kind == .sld && x.2.gang == gang && !x.2.orphan) ||
    (sReads i ++ sWrites i).all fun r => !(span x.2.reg x.2.wd.regs).contains r

/-- R50: every register named lies below the role's budget, and every tile below the team's count. -/
def State.fits (s : State) (gang : Nat) (i : Instr) : Bool :=
  (laneNames i).all (fun r => decide (r < s.budget gang)) && (tileNames i).all fun t => decide (t < Rec.acct (s.recordOf gang))

/-- Lanes of a set in which the guard holds (R66). -/
def executing (g : Gang) (m : Lanes) (i : Instr) : List Nat :=
  match guardOf i with
  | .lane r n => (laneList m).filter fun l => (g.lane l).guard r != n
  | .all => laneList m
  | .unif r n => if g.zreg r != n then laneList m else []

/-- Whether every non-exited lane of the gang stands at an offset, running or held there to reconverge (R283). -/
def Gang.gathered (g : Gang) (pc : Nat) : Bool :=
  (List.range 64).all fun l =>
    let x := g.lane l
    x.cond == .exited || (x.pc == pc && x.hold.isNone && (x.cond == .running || x.wait == .reconv))

/-- The tokens an instruction reads bring their writes to the gang (R173). -/
def State.joinTokens (s : State) (gang : Nat) (i : Instr) : State :=
  if (s.gang gang).unread.isEmpty then s else 
    (sReads i).foldl (fun s r => if Tbl.mem (s.gang gang).tokens r then s else s.readToken gang r) s

/-- What follows from what the instruction's own part answered. A retried instruction that has issued lets the oldest held fault
be taken (R314); one that waits at issue leaves its slot in hand; a precise fault leaves the faulting lanes at the instruction, with TRESUME the offset after it. -/
def At.finish (a : At) (s : State) : Res → State
  | .done t => if (s.gang a.gang).retry then (t.modGang a.gang fun g => { g with retry := false }).takeHeld a.gang else t
  | .hold t => if (s.gang a.gang).retry then (t.modGang a.gang fun g => { g with retry := false }).takeHeld a.gang else t
  | .stall => { s.modGang a.gang fun g => g.modLanes (laneList a.set) fun _ l => { l with age := 0 } with
                cur := some ⟨a.core, a.slot, a.set, a.pc, a.again⟩ }
  | .trap t m cause addr info =>
    let t := t.modGang a.gang fun g => g.modLanes (laneList m) fun _ l => { l with pc := a.pc, cond := .running, wait := .none }
    t.raise a.gang ⟨cause, a.pc, a.next, addr, m, info, s.ctx.nextId⟩

/-- Issue of a decoded word by an issuing set (R65 to R69, R71, R282, R283). A barrier first holds its lanes until the gang stands
there whole. A blocked instruction made again waits for the uniform registers it names as any other does. -/
def issueAt (i : Instr) (body : At → State → Res) (c : Issue) (s : State) : State :=
  let gk := gangKey c.core c.slot
  let g := s.gang gk
  let set := if reconverges i && g.gathered c.pc then g.nonExited else c.lanes
  let a : At := ⟨c.core, c.slot, set, laneList set, c.pc, (c.pc + codeBytes i) % 2 ^ 32, c.again⟩
  let hz := s.hazards gk set i
  let run := executing g set i
  if c.again then (if s.available gk i then a.finish s (body a s) else s)
  else if reconverges i && set != g.nonExited then a.finish s (.hold (a.block .reconv s))
  else if s.windowWait gk set i then a.finish s .stall
  else if !i.wf || !s.fits gk i then a.finish s (.trap s set cRESERVED 0 0)
  else if privileged i && !g.hmode then a.finish s (.trap s set cPRIVILEGED 0 0)
  else if hz != 0 then a.finish s (.trap s hz cLOOKAHEAD 0 0)
  else if !s.available gk i then a.finish s .stall
  else if run.isEmpty then a.finish s (.done (a.step s))
  else if collective i && set != g.nonExited then a.finish s (.trap s set cPARTIAL 0 0)
  else
    let s' := (s.joinTokens gk i).ordered gk set run i
    a.finish s' (body { a with exec := run } s')

/-- A word's meaning runs at the issue slot in hand. -/
def issue (i : Instr) (body : At → State → Res) (s : State) : Host.Outcome State Fault Refusal :=
  match s.cur with
  | none => .fault .noIssuingSet
  | some c => .next (issueAt i body c { s with cur := none })

/-! Shapes of effects that many words share. -/

/-- A lane word: one function in each executing lane, and the flags the lanes raise (R204, R206). -/
def laneOp (f : Nat → Lane → Lane) (fl : Gang → Nat → Lane → BitVec 5) (a : At) (s : State) : Res :=
  .done ((a.step s).modGang a.gang fun g =>
    (g.modLanes a.exec f).flag (a.exec.foldl (fun x l => x ||| fl (s.gang a.gang) l ((s.gang a.gang).lane l)) 0))

/-- A cross-lane word: every participating source is read before any result is written (R218). -/
def crossOp (f : Gang → List Nat → Nat → Lane → Lane) (fl : Gang → List Nat → BitVec 5) (a : At) (s : State) : Res :=
  .done ((a.step s).modGang a.gang fun g => (g.modLanes a.exec (f (s.gang a.gang) a.exec)).flag (fl (s.gang a.gang) a.exec))

/-- An access of the instruction at issue, charged to its gang, team and grid. -/
def At.access (a : At) (s : State) (kind : AccKind) : Access :=
  { kind := kind, path := pLSU, gang := a.gang, core := a.core, team := (s.gang a.gang).team, grid := s.gridOf a.gang,
    gridId := s.gridIdOf a.gang, handle := 0, wd := .w, pol := .none, aop := .add, scope := .gang, reg := 0, pc := a.pc,
    la := 0, reqs := [], faults := [], stall := [], sent := none, work := none, notBefore := 0, ent := [], orphan := false, erred := false, wrote := [], reply := none,
    gate := [], since := s.now, after := [], out := [] }

/-- The access joins those in flight and opens a window of `la` instructions in the lanes that issued it (R68). The window of one that is
made again after an ERET counts from the instruction at TRESUME on (DEDUCED, assumption 63). -/
def At.launch (a : At) (s : State) (x : Access) (lanes : List Nat) : State :=
  ((a.step s).addAccess { x with after := (s.orderOf a.gang).dep }).modGang a.gang fun g =>
    g.modLanes lanes fun _ l => { l with wins := l.wins ++ [⟨s.ctx.nextId, x.la⟩] }

/-- A uniform word whose effect is on its gang alone. -/
def gangOp (f : Gang → Gang) (a : At) (s : State) : Res := .done ((a.step s).modGang a.gang f)

end Sys2Proof.Machine
end

