-- ==== Sys2Proof/Machine/LaneShort.lean ====
section
/-! DEFINITION. The lane-short arithmetic of R207 and R208: one value from the lane's own registers, and FFLAGS (R204, R26). -/

namespace Sys2Proof.Machine

open Sys2Proof

/-- An integer result of two lane registers. -/
def intOp (d a b : Nat) (f : Word → Word → Word) : At → State → Res :=
  laneOp (fun _ l => l.setReg d (f (l.reg a) (l.reg b))) fun _ _ _ => 0

/-- A floating-point result of two lane registers, with its conditions. -/
def fpOp (d a b : Nat) (f : Nat → Nat → Nat × Flags) : At → State → Res :=
  laneOp (fun _ l => l.setReg d (BitVec.ofNat 32 (f (l.reg a).toNat (l.reg b).toNat).1))
    fun _ _ l => (f (l.reg a).toNat (l.reg b).toNat).2

/-- One function on each BF16 half, the conditions of both halves joined (R207). -/
def halves (f : Nat → Nat → Nat × Flags) (x y : Nat) : Nat × Flags :=
  let lo := f (x % 2 ^ 16) (y % 2 ^ 16)
  let hi := f (x / 2 ^ 16) (y / 2 ^ 16)
  (hi.1 * 2 ^ 16 + lo.1, hi.2 ||| lo.2)

def fmtAdd (f : Fmt) (x y : Nat) : Nat × Flags := f.add (f.read x) (f.read y)
def fmtMul (f : Fmt) (x y : Nat) : Nat × Flags := f.mul (f.read x) (f.read y)

/-- SAR: copies of bit 31 enter. -/
def sar32 (x : Word) (n : Nat) : Word := x.sshiftRight n

/-- ROTL by n below 32. -/
def rotl32 (x : Word) (n : Nat) : Word := x.rotateLeft n

def popc32 (x : Word) : Word := BitVec.ofNat 32 (popcount 32 x.toNat)
def clz32 (x : Word) : Word := BitVec.ofNat 32 (if x.toNat = 0 then 32 else 31 - Nat.log2 x.toNat)
def brev32 (x : Word) : Word := BitVec.ofNat 32 (((List.range 32).filter fun i => bit x.toNat i).foldl (fun n i => n + 2 ^ (31 - i)) 0)

/-- High 32 bits of the signed and of the unsigned product (R207). -/
def mulHighS (x y : Word) : Word := BitVec.ofInt 32 ((x.toInt * y.toInt) / 2 ^ 32)
def mulHighU (x y : Word) : Word := BitVec.ofNat 32 (x.toNat * y.toNat / 2 ^ 32)

def minS (x y : Word) : Word := if x.sle y then x else y
def maxS (x y : Word) : Word := if x.sle y then y else x
def minU (x y : Word) : Word := if x.ule y then x else y
def maxU (x y : Word) : Word := if x.ule y then y else x

/-- CVTFI and CVT to a signed or unsigned integer of n bits: rounded first, then the range test (R215). -/
def toRange (lo hi : Int) (rz : Bool) : FVal → Int × Flags
  | .nan _ => (0, nv)
  | .inf n => (if n then lo else hi, nv)
  | .fin n m e =>
    let (v, inexact) := toInteger rz n m e
    if v < lo then (lo, nv) else if hi < v then (hi, nv) else (v, if inexact then nx else 0)

def cvtif (x : Nat) : Nat × Flags :=
  let v := signExt x 32
  fp32.round (decide (v < 0)) v.natAbs 0

def cvtfi (x : Nat) : Nat × Flags :=
  let (v, f) := toRange (-2 ^ 31) (2 ^ 31 - 1) false (fp32.read x)
  (wrap 32 v, f)


def execIadd (g : GReg) (d a b : VReg) (s : State) : Host.Outcome State Fault Refusal :=
  issue (.iadd g d a b) (intOp d a b fun x y => x + y) s

def execIsub (g : GReg) (d a b : VReg) (s : State) : Host.Outcome State Fault Refusal :=
  issue (.isub g d a b) (intOp d a b fun x y => x - y) s

def execImul (g : GReg) (d a b : VReg) (s : State) : Host.Outcome State Fault Refusal :=
  issue (.imul g d a b) (intOp d a b fun x y => x * y) s

def execImulhs (g : GReg) (d a b : VReg) (s : State) : Host.Outcome State Fault Refusal :=
  issue (.imulhs g d a b) (intOp d a b fun x y => mulHighS x y) s

def execImulhu (g : GReg) (d a b : VReg) (s : State) : Host.Outcome State Fault Refusal :=
  issue (.imulhu g d a b) (intOp d a b fun x y => mulHighU x y) s

def execImin (g : GReg) (d a b : VReg) (s : State) : Host.Outcome State Fault Refusal :=
  issue (.imin g d a b) (intOp d a b fun x y => minS x y) s

def execImax (g : GReg) (d a b : VReg) (s : State) : Host.Outcome State Fault Refusal :=
  issue (.imax g d a b) (intOp d a b fun x y => maxS x y) s

def execUmin (g : GReg) (d a b : VReg) (s : State) : Host.Outcome State Fault Refusal :=
  issue (.umin g d a b) (intOp d a b fun x y => minU x y) s

def execUmax (g : GReg) (d a b : VReg) (s : State) : Host.Outcome State Fault Refusal :=
  issue (.umax g d a b) (intOp d a b fun x y => maxU x y) s

def execAnd (g : GReg) (d a b : VReg) (s : State) : Host.Outcome State Fault Refusal :=
  issue (.and g d a b) (intOp d a b fun x y => x &&& y) s

def execOr (g : GReg) (d a b : VReg) (s : State) : Host.Outcome State Fault Refusal :=
  issue (.or g d a b) (intOp d a b fun x y => x ||| y) s

def execXor (g : GReg) (d a b : VReg) (s : State) : Host.Outcome State Fault Refusal :=
  issue (.xor g d a b) (intOp d a b fun x y => x ^^^ y) s

def execAndn (g : GReg) (d a b : VReg) (s : State) : Host.Outcome State Fault Refusal :=
  issue (.andn g d a b) (intOp d a b fun x y => x &&& ~~~ y) s

def execShl (g : GReg) (d a b : VReg) (s : State) : Host.Outcome State Fault Refusal :=
  issue (.shl g d a b) (intOp d a b fun x y => x <<< (y.toNat % 32)) s

def execShr (g : GReg) (d a b : VReg) (s : State) : Host.Outcome State Fault Refusal :=
  issue (.shr g d a b) (intOp d a b fun x y => x >>> (y.toNat % 32)) s

def execSar (g : GReg) (d a b : VReg) (s : State) : Host.Outcome State Fault Refusal :=
  issue (.sar g d a b) (intOp d a b fun x y => sar32 x (y.toNat % 32)) s

def execRotl (g : GReg) (d a b : VReg) (s : State) : Host.Outcome State Fault Refusal :=
  issue (.rotl g d a b) (intOp d a b fun x y => rotl32 x (y.toNat % 32)) s

def execPopc (g : GReg) (d a : VReg) (s : State) : Host.Outcome State Fault Refusal :=
  issue (.popc g d a) (intOp d a a fun x _ => popc32 x) s

def execClz (g : GReg) (d a : VReg) (s : State) : Host.Outcome State Fault Refusal :=
  issue (.clz g d a) (intOp d a a fun x _ => clz32 x) s

def execBrev (g : GReg) (d a : VReg) (s : State) : Host.Outcome State Fault Refusal :=
  issue (.brev g d a) (intOp d a a fun x _ => brev32 x) s

def execMov (g : GReg) (d a : VReg) (s : State) : Host.Outcome State Fault Refusal :=
  issue (.mov g d a) (intOp d a a fun x _ => x) s

def execFadd (g : GReg) (d a b : VReg) (s : State) : Host.Outcome State Fault Refusal :=
  issue (.fadd g d a b) (fpOp d a b fun x y => fmtAdd fp32 x y) s

def execFsub (g : GReg) (d a b : VReg) (s : State) : Host.Outcome State Fault Refusal :=
  issue (.fsub g d a b) (fpOp d a b fun x y => fp32.add (fp32.read x) (fp32.read y).flip) s

def execFmul (g : GReg) (d a b : VReg) (s : State) : Host.Outcome State Fault Refusal :=
  issue (.fmul g d a b) (fpOp d a b fun x y => fmtMul fp32 x y) s

def execFmin (g : GReg) (d a b : VReg) (s : State) : Host.Outcome State Fault Refusal :=
  issue (.fmin g d a b) (fpOp d a b fun x y => fp32.minmax false x y) s

def execFmax (g : GReg) (d a b : VReg) (s : State) : Host.Outcome State Fault Refusal :=
  issue (.fmax g d a b) (fpOp d a b fun x y => fp32.minmax true x y) s

def execFrcp (g : GReg) (d a : VReg) (s : State) : Host.Outcome State Fault Refusal :=
  issue (.frcp g d a) (fpOp d a a fun x _ => Sys2Proof.Machine.frcp x) s

def execFrsq (g : GReg) (d a : VReg) (s : State) : Host.Outcome State Fault Refusal :=
  issue (.frsq g d a) (fpOp d a a fun x _ => Sys2Proof.Machine.frsq x) s

def execFsqrt (g : GReg) (d a : VReg) (s : State) : Host.Outcome State Fault Refusal :=
  issue (.fsqrt g d a) (fpOp d a a fun x _ => Sys2Proof.Machine.fsqrt x) s

def execFexp2 (g : GReg) (d a : VReg) (s : State) : Host.Outcome State Fault Refusal :=
  issue (.fexp2 g d a) (fpOp d a a fun x _ => Sys2Proof.Machine.fexp2 x) s

def execFlog2 (g : GReg) (d a : VReg) (s : State) : Host.Outcome State Fault Refusal :=
  issue (.flog2 g d a) (fpOp d a a fun x _ => Sys2Proof.Machine.flog2 x) s

def execHadd2 (g : GReg) (d a b : VReg) (s : State) : Host.Outcome State Fault Refusal :=
  issue (.hadd2 g d a b) (fpOp d a b fun x y => halves (fmtAdd bf16) x y) s

def execHmul2 (g : GReg) (d a b : VReg) (s : State) : Host.Outcome State Fault Refusal :=
  issue (.hmul2 g d a b) (fpOp d a b fun x y => halves (fmtMul bf16) x y) s

def execHmax2 (g : GReg) (d a b : VReg) (s : State) : Host.Outcome State Fault Refusal :=
  issue (.hmax2 g d a b) (fpOp d a b fun x y => halves (bf16.minmax true) x y) s

def execCvtif (g : GReg) (d a : VReg) (s : State) : Host.Outcome State Fault Refusal :=
  issue (.cvtif g d a) (fpOp d a a fun x _ => Sys2Proof.Machine.cvtif x) s

def execCvtfi (g : GReg) (d a : VReg) (s : State) : Host.Outcome State Fault Refusal :=
  issue (.cvtfi g d a) (fpOp d a a fun x _ => Sys2Proof.Machine.cvtfi x) s

def execPkbf (g : GReg) (d a b : VReg) (s : State) : Host.Outcome State Fault Refusal :=
  issue (.pkbf g d a b) (fpOp d a b fun x y => let p := bf16.ofVal (fp32.read x); let q := bf16.ofVal (fp32.read y); (q.1 * 2 ^ 16 + p.1, q.2 ||| p.2)) s

def execUpbfl (g : GReg) (d a : VReg) (s : State) : Host.Outcome State Fault Refusal :=
  issue (.upbfl g d a) (fpOp d a a fun x _ => fp32.ofVal (bf16.read (x % 2 ^ 16))) s

def execUpbfh (g : GReg) (d a : VReg) (s : State) : Host.Outcome State Fault Refusal :=
  issue (.upbfh g d a) (fpOp d a a fun x _ => fp32.ofVal (bf16.read (x / 2 ^ 16))) s

def execFabs (g : GReg) (d a : VReg) (s : State) : Host.Outcome State Fault Refusal :=
  issue (.fabs g d a) (fpOp d a a fun x _ => fabsBits x) s

def execFneg (g : GReg) (d a : VReg) (s : State) : Host.Outcome State Fault Refusal :=
  issue (.fneg g d a) (fpOp d a a fun x _ => fnegBits x) s

/-- SEL runs in every lane of the issuing set: G selects (R56, R207). -/
def execSel (g : GReg) (d a b : VReg) (s : State) : Host.Outcome State Fault Refusal :=
  issue (.sel g d a b) (laneOp (fun _ l => l.setReg d (if l.guard g then l.reg a else l.reg b)) fun _ _ _ => 0) s

def execLane (g : GReg) (d : VReg) (s : State) : Host.Outcome State Fault Refusal :=
  issue (.lane g d) (laneOp (fun i l => l.setReg d (BitVec.ofNat 32 i)) fun _ _ _ => 0) s

end Sys2Proof.Machine
end

