-- ==== Sys2Proof/Machine/LaneLong.lean ====
section
/-! DEFINITION. The lane-long arithmetic of R209 to R217. -/

namespace Sys2Proof.Machine

open Sys2Proof

def execIaddi (g : LGuard) (d a : VReg) (imm : Word) (s : State) : Host.Outcome State Fault Refusal :=
  issue (.iaddi g d a imm) (intOp d a a fun x _ => x + imm) s

def execLimm (g : LGuard) (d : VReg) (imm : Word) (s : State) : Host.Outcome State Fault Refusal :=
  issue (.limm g d imm) (intOp d d d fun _ _ => imm) s

/-- IMAD of R210; the wide form signs or zero-extends its factors by TYPE. -/
def imadLane (d a b c : Nat) (ty : IntType) (wide : Bool) (l : Lane) : Lane :=
  if wide then
    let p : Int := match ty with
      | .n32 => ((l.reg a).toNat * (l.reg b).toNat : Nat)
      | _ => (l.reg a).toInt * (l.reg b).toInt
    l.setWide d .d (wrap 64 (p + (l.pair c : Nat)))
  else l.setReg d (l.reg a * l.reg b + l.reg c)

def execImad (g : LGuard) (d a b c : VReg) (ty : IntType) (wide : Bool) (s : State) : Host.Outcome State Fault Refusal :=
  issue (.imad g d a b c ty wide) (laneOp (fun _ l => imadLane d a b c ty wide l) fun _ _ _ => 0) s

/-- A three-operand floating-point result (R211). -/
def fp3Op (d a b c : Nat) (f : Nat → Nat → Nat → Nat × Flags) : At → State → Res :=
  laneOp (fun _ l => l.setReg d (BitVec.ofNat 32 (f (l.reg a).toNat (l.reg b).toNat (l.reg c).toNat).1))
    fun _ _ l => (f (l.reg a).toNat (l.reg b).toNat (l.reg c).toNat).2

def fmtFma (f : Fmt) (negp negc : Bool) (x y z : Nat) : Nat × Flags := f.fma negp negc (f.read x) (f.read y) (f.read z)

def execFfma (g : LGuard) (d a b c : VReg) (ty negp negc : Bool) (s : State) : Host.Outcome State Fault Refusal :=
  issue (.ffma g d a b c ty negp negc) (fp3Op d a b c (fmtFma fp32 negp negc)) s

def hfma2 (negp negc : Bool) (x y z : Nat) : Nat × Flags :=
  let lo := fmtFma bf16 negp negc (x % 2 ^ 16) (y % 2 ^ 16) (z % 2 ^ 16)
  let hi := fmtFma bf16 negp negc (x / 2 ^ 16) (y / 2 ^ 16) (z / 2 ^ 16)
  (hi.1 * 2 ^ 16 + lo.1, hi.2 ||| lo.2)

def execHfma2 (g : LGuard) (d a b c : VReg) (ty negp negc : Bool) (s : State) : Host.Outcome State Fault Refusal :=
  issue (.hfma2 g d a b c ty negp negc) (fp3Op d a b c (hfma2 negp negc)) s

/-- The integer predicates of R212 and R225. -/
def Pred.holds (p : Pred) (uns : Bool) (x y : Word) : Bool :=
  let lt := if uns then x.ult y else x.slt y
  match p with
  | .eq => x == y
  | .ne => x != y
  | .lt => lt
  | .le => lt || x == y
  | .gt => !(lt || x == y)
  | .ge => !lt

def Comb.join (c : Comb) (new old : Bool) : Bool :=
  match c with
  | .set => new
  | .and => new && old
  | .or => new || old

def execIcmp (g : LGuard) (gd : GReg) (a b : VReg) (ty : IntType) (p : Pred) (c : Comb) (s : State) :
    Host.Outcome State Fault Refusal :=
  issue (.icmp g gd a b ty p c)
    (laneOp (fun _ l => l.setGuard gd (Comb.join c (Pred.holds p (ty == .n32) (l.reg a) (l.reg b)) (l.guard gd))) fun _ _ _ => 0) s

/-- The predicates of FCMP: a NaN leaves the operands unordered (R212). -/
def FPred.holds (p : FPred) (x y : FVal) : Bool :=
  let un := x.isNaN || y.isNaN
  let lt := FVal.lt x y
  let gt := FVal.lt y x
  match p with
  | .eq => !un && !lt && !gt
  | .ne => un || lt || gt
  | .lt => lt
  | .le => !un && !gt
  | .gt => gt
  | .ge => !un && !lt
  | .un => un

def execFcmp (g : LGuard) (gd : GReg) (a b : VReg) (ty : Bool) (p : FPred) (c : Comb) (s : State) :
    Host.Outcome State Fault Refusal :=
  issue (.fcmp g gd a b ty p c)
    (laneOp (fun _ l => l.setGuard gd (Comb.join c (FPred.holds p (fp32.read (l.reg a).toNat) (fp32.read (l.reg b).toNat)) (l.guard gd)))
      fun _ _ l => if (fp32.read (l.reg a).toNat).signals || (fp32.read (l.reg b).toNat).signals then nv else 0) s

/-- BFX of R213. -/
def bfx (ty : IntType) (pos len : Nat) (x : Word) : Word :=
  match ty with
  | .i32 => BitVec.ofInt 32 (signExt (x.toNat / 2 ^ pos) len)
  | _ => BitVec.ofNat 32 (bits x.toNat pos len)

def execBfx (g : LGuard) (d a : VReg) (ty : IntType) (pos len1 : Fin 32) (s : State) : Host.Outcome State Fault Refusal :=
  issue (.bfx g d a ty pos len1) (intOp d a a fun x _ => bfx ty pos (len1.val + 1) x) s

/-- BFI of R213. -/
def bfi (pos len : Nat) (x y : Word) : Word :=
  let m := BitVec.ofNat 32 ((2 ^ len - 1) * 2 ^ pos)
  (x &&& ~~~ m) ||| ((y <<< pos) &&& m)

def execBfi (g : LGuard) (d a b : VReg) (pos len1 : Fin 32) (s : State) : Host.Outcome State Fault Refusal :=
  issue (.bfi g d a b pos len1) (intOp d a b (bfi pos (len1.val + 1))) s

/-- The results of R214. -/
def quotient (ty : IntType) (a b : Word) : Word :=
  if b = 0 then 0xFFFFFFFF else match ty with
    | .n32 => BitVec.ofNat 32 (a.toNat / b.toNat)
    | _ => BitVec.ofInt 32 (a.toInt.tdiv b.toInt)
def remainder (ty : IntType) (a b : Word) : Word :=
  if b = 0 then a else match ty with
    | .n32 => BitVec.ofNat 32 (a.toNat % b.toNat)
    | _ => BitVec.ofInt 32 (a.toInt.tmod b.toInt)

/-- A division: its result is owed to each executing lane, and written when it arrives (R68, R214). -/
def divide (f : Word → Word → Word) (d a b la : Nat) (at' : At) (s : State) : Res :=
  let g := s.gang at'.gang
  let x := { at'.access s .div with reg := d, la := la,
                                    reqs := at'.exec.map fun l => ⟨l, 0, (f ((g.lane l).reg a) ((g.lane l).reg b)).toNat, 0⟩ }
  .done (at'.launch s x at'.exec)

def execIdiv (g : LGuard) (d a b : VReg) (ty : IntType) (la : Fin 16) (s : State) : Host.Outcome State Fault Refusal :=
  issue (.idiv g d a b ty la) (divide (quotient ty) d a b la) s

def execIrem (g : LGuard) (d a b : VReg) (ty : IntType) (la : Fin 16) (s : State) : Host.Outcome State Fault Refusal :=
  issue (.irem g d a b ty la) (divide (remainder ty) d a b la) s

/-- The value CVT reads (R215). -/
def CType.read (t : CType) (x : Nat) : Int ⊕ FVal :=
  match t with
  | .i8 => .inl (signExt x 8)
  | .i16 => .inl (signExt x 16)
  | .i32 => .inl (signExt x 32)
  | .n8 => .inl (x % 2 ^ 8 : Nat)
  | .n16 => .inl (x % 2 ^ 16 : Nat)
  | .n32 => .inl (x % 2 ^ 32 : Nat)
  | .f32 => .inr (fp32.read (x % 2 ^ 32))
  | .bf16 => .inr (bf16.read (x % 2 ^ 16))
  | .f16 => .inr (fp16.read (x % 2 ^ 16))

/-- The range of an integer destination, or the format of a floating one. -/
def CType.target : CType → (Int × Int) ⊕ Fmt
  | .i8 => .inl (-2 ^ 7, 2 ^ 7 - 1)
  | .i16 => .inl (-2 ^ 15, 2 ^ 15 - 1)
  | .i32 => .inl (-2 ^ 31, 2 ^ 31 - 1)
  | .n8 => .inl (0, 2 ^ 8 - 1)
  | .n16 => .inl (0, 2 ^ 16 - 1)
  | .n32 => .inl (0, 2 ^ 32 - 1)
  | .f32 => .inr fp32
  | .bf16 => .inr bf16
  | .f16 => .inr fp16

/-- CVT of R215. -/
def convert (dst src : CType) (rz : Bool) (x : Nat) : Nat × Flags :=
  match CType.read src x, CType.target dst with
  | .inl v, .inl (lo, hi) => (wrap 32 (max lo (min hi v)), 0)
  | .inl v, .inr f => f.round (decide (v < 0)) v.natAbs 0
  | .inr v, .inl (lo, hi) => let (n, f) := toRange lo hi rz v; (wrap 32 n, f)
  | .inr v, .inr f => f.ofVal v

def execCvt (g : LGuard) (d a : VReg) (dst src : CType) (rz : Bool) (s : State) : Host.Outcome State Fault Refusal :=
  issue (.cvt g d a dst src rz) (fpOp d a a fun x _ => convert dst src rz x) s

/-- The coordinates of R216, from the lane, GANGIDX, the role's first gang and gang count, TEAMIDX and the shape. -/
def tidx (what lane gangIdx first count teamIdx xm ym : Nat) : Nat :=
  let l := (gangIdx - first) * 64 + lane
  match what with
  | 0 => lane
  | 1 => gangIdx * 64 + lane
  | 2 => l
  | 3 => l % (xm + 1)
  | 4 => l / (xm + 1) % (ym + 1)
  | 5 => l / ((xm + 1) * (ym + 1))
  | 6 => teamIdx
  | _ => 64 * count

def execTidx (g : LGuard) (d : VReg) (what : Fin 8) (xm ym : Fin 128) (s : State) : Host.Outcome State Fault Refusal :=
  issue (.tidx g d what xm ym)
    (fun a s =>
      let r := s.recordOf a.gang
      let first := if s.isProducer a.gang then 0 else Rec.pgangs r
      let count := if s.isProducer a.gang then Rec.pgangs r else Rec.cgangs r
      laneOp (fun i l => l.setReg d (BitVec.ofNat 32
        (tidx what i (s.gang a.gang).gangIdx first count (s.team (s.gang a.gang).team).teamIdx xm ym))) (fun _ _ _ => 0) a s) s

/-- Mix of R217. -/
def mix (k c : Word) : Word :=
  (List.range 4).foldl (fun x i =>
    let x := x ^^^ (k + BitVec.ofNat 32 i * 0x5B2D9E41)
    let x := x * 0x8A5CD6F3
    let x := x ^^^ (x >>> 15)
    let x := x * 0xB47D2E19
    x ^^^ (x >>> 13)) c

def execUrand (g : LGuard) (d a b : VReg) (fp : Bool) (s : State) : Host.Outcome State Fault Refusal :=
  issue (.urand g d a b fp)
    (intOp d a b fun k c => if fp then BitVec.ofNat 32 (fp32.round false ((mix k c).toNat / 2 ^ 8) (-24)).1 else mix k c) s

def execShfi (g : LGuard) (d a : VReg) (kind : ShiftKind) (n : Fin 32) (s : State) : Host.Outcome State Fault Refusal :=
  issue (.shfi g d a kind n)
    (intOp d a a fun x _ => match kind with
      | .shl => x <<< n.val
      | .shr => x >>> n.val
      | .sar => sar32 x n
      | .rotl => rotl32 x n) s

/-- LOGI of R213: bit i is TABLE at 4 a[i] + 2 b[i] + c[i]. -/
def logi (t : BitVec 8) (x y z : Word) : Word :=
  BitVec.ofNat 32 (((List.range 32).filter fun i =>
    t.getLsbD (4 * boolNat (x.getLsbD i) + 2 * boolNat (y.getLsbD i) + boolNat (z.getLsbD i))).foldl (fun n i => n + 2 ^ i) 0)

def execLogi (g : LGuard) (d a b c : VReg) (t : BitVec 8) (s : State) : Host.Outcome State Fault Refusal :=
  issue (.logi g d a b c t) (laneOp (fun _ l => l.setReg d (logi t (l.reg a) (l.reg b) (l.reg c))) fun _ _ _ => 0) s

end Sys2Proof.Machine
end

