-- ==== Sys2Proof/Machine/CrossLane.lean ====
section
/-! DEFINITION. The cross-lane instructions of R218 to R222. -/

namespace Sys2Proof.Machine

open Sys2Proof

/-- The distance of SHFL: W >> k is 0 from k = log2 W on (R219). -/
def shflDist (wrel : Bool) (lit : Nat) : Nat := if wrel then (if lit < 6 then 64 / 2 ^ lit else 0) else lit

/-- The source lane of SHFL (R219). -/
def shflSource (mode : ShflMode) (d l : Nat) (idx : Word) : Option Nat :=
  match mode with
  | .idx => some (idx.toNat % 128)
  | .up => if d ≤ l then some (l - d) else none
  | .down => some (l + d)
  | .xor => some (l ^^^ d)

def execShfl (g : LGuard) (d a b : VReg) (mode : ShflMode) (wrel : Bool) (lit : Fin 64) (s : State) :
    Host.Outcome State Fault Refusal :=
  issue (.shfl g d a b mode wrel lit)
    (crossOp (fun gg part i l =>
      let dist := shflDist wrel lit
      let src := match shflSource mode dist i ((gg.lane i).reg b) with
        | some j => if part.contains j then j else i
        | none => i
      l.setReg d ((gg.lane src).reg a)) fun _ _ => 0) s

/-- VOTE of R220. -/
def voteBit (mode : VoteMode) (vals : List Word) : Bool :=
  match mode with
  | .all => vals.all (· != 0)
  | .any => vals.any (· != 0)
  | _ => vals.all fun v => some v == vals.head?

def execVote (g : LGuard) (d a : VReg) (mode : VoteMode) (gd : GReg) (gw : Bool) (s : State) : Host.Outcome State Fault Refusal :=
  issue (.vote g d a mode gd gw)
    (crossOp (fun gg part _ l =>
      if mode == .ballot then l.setWide d .d (laneSet (part.filter fun j => (gg.lane j).reg a != 0)).toNat
      else
        let t := voteBit mode (part.map fun j => (gg.lane j).reg a)
        let l := l.setReg d (if t then 1 else 0)
        if gw then l.setGuard gd t else l) fun _ _ => 0) s

/-- ROP of R221: the operation and its identity. -/
def Rop.apply (r : Rop) (x y : Nat) : Nat × Flags :=
  let w := fun (f : Word → Word → Word) => ((f (BitVec.ofNat 32 x) (BitVec.ofNat 32 y)).toNat, (0 : Flags))
  match r with
  | .add => w (· + ·)
  | .min => w minS
  | .max => w maxS
  | .umin => w minU
  | .umax => w maxU
  | .and => w (· &&& ·)
  | .or => w (· ||| ·)
  | .xor => w (· ^^^ ·)
  | .fadd => fmtAdd fp32 x y
  | .fmin => fp32.minmax false x y
  | .fmax => fp32.minmax true x y

def Rop.identity : Rop → Nat
  | .add => 0
  | .min => 0x7FFFFFFF
  | .max => 0x80000000
  | .umin => 0xFFFFFFFF
  | .umax => 0
  | .and => 0xFFFFFFFF
  | .or => 0
  | .xor => 0
  | .fadd => 0x80000000
  | .fmin => 0x7F800000
  | .fmax => 0xFF800000

/-- A partial result with the conditions of the roundings it depends on. -/
def Rop.join (r : Rop) (x y : Nat × Flags) : Nat × Flags :=
  let z := Rop.apply r x.1 y.1
  (z.1, x.2 ||| y.2 ||| z.2)

/-- The vector u of R221 before the first level. -/
def scanStart (r : Rop) (g : Gang) (part : List Nat) (a : Nat) : List (Nat × Flags) :=
  (List.range 64).map fun l => (if part.contains l then ((g.lane l).reg a).toNat else Rop.identity r, 0)

def reduceLevel (r : Rop) (u : List (Nat × Flags)) (k : Nat) : List (Nat × Flags) :=
  u.zipIdx.map fun (x, l) => if l % 2 ^ (k + 1) = 0 then Rop.join r x (u.getD (l + 2 ^ k) (0, 0)) else x

def scanLevel (r : Rop) (u : List (Nat × Flags)) (k : Nat) : List (Nat × Flags) :=
  u.zipIdx.map fun (x, l) => if 2 ^ k ≤ l then Rop.join r (u.getD (l - 2 ^ k) (0, 0)) x else x

def reduce (r : Rop) (g : Gang) (part : List Nat) (a : Nat) : Nat × Flags :=
  ((List.range 6).foldl (reduceLevel r) (scanStart r g part a)).headD (0, 0)

def scan (r : Rop) (g : Gang) (part : List Nat) (a : Nat) : List (Nat × Flags) :=
  (List.range 6).foldl (scanLevel r) (scanStart r g part a)

/-- What lane l receives of a scan. -/
def scanAt (r : Rop) (excl : Bool) (u : List (Nat × Flags)) (l : Nat) : Nat × Flags :=
  if !excl then u.getD l (0, 0) else if l = 0 then (Rop.identity r, 0) else u.getD (l - 1) (0, 0)

def execRedl (g : LGuard) (d a : VReg) (rop : Rop) (s : State) : Host.Outcome State Fault Refusal :=
  issue (.redl g d a rop)
    (crossOp (fun gg part => let x := reduce rop gg part a
                             fun _ l => l.setReg d (BitVec.ofNat 32 x.1))
      fun gg part => (reduce rop gg part a).2) s

def execScanl (g : LGuard) (d a : VReg) (rop : Rop) (excl : Bool) (s : State) : Host.Outcome State Fault Refusal :=
  issue (.scanl g d a rop excl)
    (crossOp (fun gg part => let u := scan rop gg part a
                             fun i l => l.setReg d (BitVec.ofNat 32 (scanAt rop excl u i).1))
      fun gg part => let u := scan rop gg part a
                     part.foldl (fun f l => f ||| (scanAt rop excl u l).2) 0) s

def execBcast (g : LGuard) (d a : VReg) (src : Fin 128) (first : Bool) (s : State) : Host.Outcome State Fault Refusal :=
  issue (.bcast g d a src first)
    (crossOp (fun gg part i l =>
      let j := if first then part.headD i else src.val
      l.setReg d ((gg.lane (if part.contains j then j else i)).reg a)) fun _ _ => 0) s

end Sys2Proof.Machine
end

