-- ==== Sys2Proof/Machine/Crypto.lean ====
section
/-! DEFINITION. The hash and the signatures that R20, R335 and R339 name: SHA-384, and the check of an ECDSA signature on the 384-bit
Brainpool prime curve of RFC 5639. The spec names the standards; their text is taken from outside it. (PRESUMED, assumption 88) -/

namespace Sys2Proof.Machine

open Sys2Proof

/-! SHA-384. -/

/-- The eight words that SHA-384 starts from. -/
def shaStart : List DWord :=
  [0xCBBB9D5DC1059ED8, 0x629A292A367CD507, 0x9159015A3070DD17, 0x152FECD8F70E5939,
    0x67332667FFC00B31, 0x8EB44A8768581511, 0xDB0C2E0D64F98FA7, 0x47B5481DBEFA4FA4]

/-- The constants of the 80 rounds. -/
def shaRound : List DWord :=
  ([0x428A2F98D728AE22, 0x7137449123EF65CD, 0xB5C0FBCFEC4D3B2F, 0xE9B5DBA58189DBBC,
    0x3956C25BF348B538, 0x59F111F1B605D019, 0x923F82A4AF194F9B, 0xAB1C5ED5DA6D8118,
    0xD807AA98A3030242, 0x12835B0145706FBE, 0x243185BE4EE4B28C, 0x550C7DC3D5FFB4E2,
    0x72BE5D74F27B896F, 0x80DEB1FE3B1696B1, 0x9BDC06A725C71235, 0xC19BF174CF692694,
    0xE49B69C19EF14AD2, 0xEFBE4786384F25E3, 0x0FC19DC68B8CD5B5, 0x240CA1CC77AC9C65] : List DWord) ++
  ([0x2DE92C6F592B0275, 0x4A7484AA6EA6E483, 0x5CB0A9DCBD41FBD4, 0x76F988DA831153B5,
    0x983E5152EE66DFAB, 0xA831C66D2DB43210, 0xB00327C898FB213F, 0xBF597FC7BEEF0EE4,
    0xC6E00BF33DA88FC2, 0xD5A79147930AA725, 0x06CA6351E003826F, 0x142929670A0E6E70,
    0x27B70A8546D22FFC, 0x2E1B21385C26C926, 0x4D2C6DFC5AC42AED, 0x53380D139D95B3DF,
    0x650A73548BAF63DE, 0x766A0ABB3C77B2A8, 0x81C2C92E47EDAEE6, 0x92722C851482353B] : List DWord) ++
  ([0xA2BFE8A14CF10364, 0xA81A664BBC423001, 0xC24B8B70D0F89791, 0xC76C51A30654BE30,
    0xD192E819D6EF5218, 0xD69906245565A910, 0xF40E35855771202A, 0x106AA07032BBD1B8,
    0x19A4C116B8D2D0C8, 0x1E376C085141AB53, 0x2748774CDF8EEB99, 0x34B0BCB5E19B48A8,
    0x391C0CB3C5C95A63, 0x4ED8AA4AE3418ACB, 0x5B9CCA4F7763E373, 0x682E6FF3D6B2B8A3,
    0x748F82EE5DEFB2FC, 0x78A5636F43172F60, 0x84C87814A1F0AB72, 0x8CC702081A6439EC] : List DWord) ++
  ([0x90BEFFFA23631E28, 0xA4506CEBDE82BDE9, 0xBEF9A3F7B2C67915, 0xC67178F2E372532B,
    0xCA273ECEEA26619C, 0xD186B8C721C0C207, 0xEADA7DD6CDE0EB1E, 0xF57D4F7FEE6ED178,
    0x06F067AA72176FBA, 0x0A637DC5A2C898A6, 0x113F9804BEF90DAE, 0x1B710B35131C471B,
    0x28DB77F523047D84, 0x32CAAB7B40C72493, 0x3C9EBE0A15C9BEBC, 0x431D67C49C100D4C,
    0x4CC5D4BECB3E42B6, 0x597F299CFC657E2A, 0x5FCB6FAB3AD6FAEC, 0x6C44198C4A475817] : List DWord)

/-- A message with its padding: a one bit, zeros, and its length in bits, to whole blocks of 128 bytes. -/
def shaPadded (m : List Byte) : List Byte :=
  m ++ [0x80] ++ List.replicate ((239 - m.length % 128) % 128) 0 ++ (toBytes 16 (8 * m.length)).reverse

/-- The schedule of a block, extended by n words; the newest word stands first. -/
def shaSchedule : Nat → List DWord → List DWord
  | 0, ws => ws
  | n + 1, ws =>
    let x := ws.getD 1 0
    let y := ws.getD 14 0
    let s1 := x.rotateRight 19 ^^^ x.rotateRight 61 ^^^ (x >>> 6)
    let s0 := y.rotateRight 1 ^^^ y.rotateRight 8 ^^^ (y >>> 7)
    shaSchedule n ((s1 + ws.getD 6 0 + s0 + ws.getD 15 0) :: ws)

/-- One round on the words a to h. -/
def shaStep (v : List DWord) (kw : DWord × DWord) : List DWord :=
  match v with
  | [a, b, c, d, e, f, g, h] =>
    let s1 := e.rotateRight 14 ^^^ e.rotateRight 18 ^^^ e.rotateRight 41
    let t1 := h + s1 + ((e &&& f) ^^^ (~~~e &&& g)) + kw.1 + kw.2
    let s0 := a.rotateRight 28 ^^^ a.rotateRight 34 ^^^ a.rotateRight 39
    let t2 := s0 + ((a &&& b) ^^^ (a &&& c) ^^^ (b &&& c))
    [t1 + t2, a, b, c, d + t1, e, f, g]
  | _ => v

/-- One block of 128 bytes, its words big-endian. -/
def shaBlock (v : List DWord) (block : List Byte) : List DWord :=
  let ws := (chunks 8 16 block).map fun b => BitVec.ofNat 64 (ofBytes b.reverse)
  let out := (shaRound.zip (shaSchedule 64 ws.reverse).reverse).foldl shaStep v
  v.zipWith (· + ·) out

/-- SHA-384 of a byte string: its 48 bytes as a little-endian number (R5). -/
@[irreducible] def sha384 (m : List Byte) : Nat :=
  let p := shaPadded m
  let v := (chunks 128 (p.length / 128) p).foldl shaBlock shaStart
  ofBytes ((v.take 6).flatMap fun w => (toBytes 8 w.toNat).reverse)

/-! ECDSA. -/

/-- The curve y^2 = x^3 + a x + b over the field of p elements, and its base point, of order n. -/
def curveP : Nat := 0x8CB91E82A3386D280F5D6F7E50E641DF152F7109ED5456B412B1DA197FB71123ACD3A729901D1A71874700133107EC53
def curveA : Nat := 0x7BC382C63D8C150C3C72080ACE05AFA0C2BEA28E4FB22787139165EFBA91F90F8AA5814A503AD4EB04A8C7DD22CE2826
def curveB : Nat := 0x04A8C7DD22CE28268B39B55416F0447C2FB77DE107DCD2A62E880EA53EEB62D57CB4390295DBC9943AB78696FA504C11
def curveG : Nat × Nat :=
  (0x1D1C64F068CF45FFA2A63A81B7C13F6B8847A3E77EF14FE3DB7FCAFE0CBD10E8E826E03436D646AAEF87B2E247D4AF1E,
   0x8ABE1D7520F9C2A45CB1EB8E95CFD55262B70B29FEEC5864E19C054FF99129280E4646217791811142820341263C5315)
def curveN : Nat := 0x8CB91E82A3386D280F5D6F7E50E641DF152F7109ED5456B31F166E6CAC0425A7CF3AB6AF6B7FC3103B883202E9046565

/-- x to the power e modulo m, for e below 2^fuel. -/
def powMod (m : Nat) : Nat → Nat → Nat → Nat
  | 0, _, _ => 1
  | fuel + 1, x, e => powMod m fuel (x * x % m) (e / 2) * (if e % 2 = 1 then x else 1) % m

/-- The inverse modulo a prime of 384 bits. -/
def invMod (m x : Nat) : Nat := powMod m 384 x (m - 2)

/-- The sum of two points of the curve; none is the point at infinity. -/
def curveAdd : Option (Nat × Nat) → Option (Nat × Nat) → Option (Nat × Nat)
  | none, q => q
  | p, none => p
  | some (x1, y1), some (x2, y2) =>
    let sub := fun (x y : Nat) => (x + curveP - y % curveP) % curveP
    if x1 = x2 ∧ (y1 + y2) % curveP = 0 then none
    else
      let k := (if x1 = x2 then (3 * x1 * x1 + curveA) * invMod curveP (2 * y1 % curveP)
        else sub y2 y1 * invMod curveP (sub x2 x1)) % curveP
      let x := sub (k * k) (x1 + x2)
      some (x, sub (k * sub x1 x) y1)

/-- k times a point, for k below 2^fuel. -/
def curveMul : Nat → Nat → Option (Nat × Nat) → Option (Nat × Nat)
  | 0, _, _ => none
  | fuel + 1, k, p =>
    let q := curveMul fuel (k / 2) (curveAdd p p)
    if k % 2 = 1 then curveAdd p q else q

/-- Whether (r, s) is a signature of z under the public key (x, y). -/
def ecdsaValid (x y z r s : Nat) : Bool :=
  decide (x < curveP ∧ y < curveP ∧ y * y % curveP = (x * x * x + curveA * x + curveB) % curveP ∧
    0 < r ∧ r < curveN ∧ 0 < s ∧ s < curveN) &&
  let w := invMod curveN s
  match curveAdd (curveMul 384 (z * w % curveN) (some curveG)) (curveMul 384 (r * w % curveN) (some (x, y))) with
  | some (a, _) => a % curveN == r
  | none => false

/-- Whether 96 bytes, r then s, are a signature of a digest under the key of a given hash (R335, R339). The digest is the big-endian number
of its bytes; r and s are little-endian, as the spec's other numbers are (R5). -/
@[irreducible] def signatureValid (keyHash digest : Nat) (sig : List Byte) : Bool :=
  let key := Config.publicKey keyHash
  ecdsaValid key.1 key.2 (ofBytes (toBytes 48 digest).reverse) (ofBytes (slice sig 0 48)) (ofBytes (slice sig 48 48))

end Sys2Proof.Machine
end

