-- ==== Sys2Proof/Decode.lean ====
section
/-! DEFINITION. Decoding instruction words (R54 to R63), rejecting by name as R65 does, and the encoder of the same layouts. -/

namespace Sys2Proof

/-- Why a word is not an instruction (R65): an unassigned or all-zero opcode, a reserved field, or too few bytes. -/
inductive DecodeError where
  | illegalOpcode
  | reservedField
  | truncated
  deriving DecidableEq, Repr

/-- Bits [lo+n-1 : lo] of a number (R5). -/
def fld (w lo n : Nat) : Nat := w / 2 ^ lo % 2 ^ n

def bitOf (w lo : Nat) : Bool := w / 2 ^ lo % 2 == 1

def vF (w lo : Nat) : VReg := Fin.ofNat 128 (w / 2 ^ lo)
def sF (w lo : Nat) : SReg := Fin.ofNat 64 (w / 2 ^ lo)
def gF (w lo : Nat) : GReg := Fin.ofNat 8 (w / 2 ^ lo)
def zF (w lo : Nat) : ZReg := Fin.ofNat 4 (w / 2 ^ lo)
def mF (w lo : Nat) : MReg := Fin.ofNat 16 (w / 2 ^ lo)
def cF (w lo : Nat) : CReg := Fin.ofNat 32 (w / 2 ^ lo)
def b1 (b : Bool) : Nat := if b then 1 else 0

/-! Codes of the small fields, both ways. -/

def IntType.code : IntType → Nat
  | .none => 0 | .i32 => 3 | .n32 => 6
def IntType.ofCode : Nat → Option IntType
  | 0 => some .none | 3 => some .i32 | 6 => some .n32 | _ => none

def CType.code : CType → Nat
  | .i8 => 1 | .i16 => 2 | .i32 => 3 | .n8 => 4 | .n16 => 5 | .n32 => 6 | .f32 => 7 | .bf16 => 8 | .f16 => 9
def CType.ofCode : Nat → Option CType
  | 1 => some .i8 | 2 => some .i16 | 3 => some .i32 | 4 => some .n8 | 5 => some .n16 | 6 => some .n32
  | 7 => some .f32 | 8 => some .bf16 | 9 => some .f16 | _ => none

def Width.code : Width → Nat
  | .b => 0 | .h => 1 | .w => 2 | .d => 3 | .q => 4
def Width.ofCode : Nat → Option Width
  | 0 => some .b | 1 => some .h | 2 => some .w | 3 => some .d | 4 => some .q | _ => none

def Policy.code : Policy → Nat
  | .none => 0 | .nc => 1 | .nl => 2
def Policy.ofCode : Nat → Option Policy
  | 0 => some .none | 1 => some .nc | 2 => some .nl | _ => none

def Scope.code : Scope → Nat
  | .gang => 0 | .team => 1 | .core => 2 | .cluster => 3 | .device => 4 | .system => 5
def Scope.ofCode : Nat → Option Scope
  | 0 => some .gang | 1 => some .team | 2 => some .core | 3 => some .cluster | 4 => some .device | 5 => some .system
  | _ => none

def Aop.code : Aop → Nat
  | .add => 0 | .and => 1 | .or => 2 | .xor => 3 | .min => 4 | .max => 5 | .umin => 6 | .umax => 7 | .xchg => 8
  | .cas => 9 | .fadd => 10 | .fmin => 11 | .fmax => 12 | .hadd2 => 13
def Aop.ofCode : Nat → Option Aop
  | 0 => some .add | 1 => some .and | 2 => some .or | 3 => some .xor | 4 => some .min | 5 => some .max
  | 6 => some .umin | 7 => some .umax | 8 => some .xchg | 9 => some .cas | 10 => some .fadd | 11 => some .fmin
  | 12 => some .fmax | 13 => some .hadd2 | _ => none

def Pred.code : Pred → Nat
  | .eq => 0 | .ne => 1 | .lt => 2 | .le => 3 | .gt => 4 | .ge => 5
def Pred.ofCode : Nat → Option Pred
  | 0 => some .eq | 1 => some .ne | 2 => some .lt | 3 => some .le | 4 => some .gt | 5 => some .ge | _ => none

def FPred.code : FPred → Nat
  | .eq => 0 | .ne => 1 | .lt => 2 | .le => 3 | .gt => 4 | .ge => 5 | .un => 6
def FPred.ofCode : Nat → Option FPred
  | 0 => some .eq | 1 => some .ne | 2 => some .lt | 3 => some .le | 4 => some .gt | 5 => some .ge | 6 => some .un
  | _ => none

def Comb.code : Comb → Nat
  | .set => 0 | .and => 1 | .or => 2
def Comb.ofCode : Nat → Option Comb
  | 0 => some .set | 1 => some .and | 2 => some .or | _ => none

def ShiftKind.code : ShiftKind → Nat
  | .shl => 0 | .shr => 1 | .sar => 2 | .rotl => 3
def ShiftKind.ofCode : Nat → Option ShiftKind
  | 0 => some .shl | 1 => some .shr | 2 => some .sar | 3 => some .rotl | _ => none

def ShflMode.code : ShflMode → Nat
  | .idx => 0 | .up => 1 | .down => 2 | .xor => 3
def ShflMode.ofCode : Nat → Option ShflMode
  | 0 => some .idx | 1 => some .up | 2 => some .down | 3 => some .xor | _ => none

def VoteMode.code : VoteMode → Nat
  | .all => 0 | .any => 1 | .ballot => 2 | .eq => 3
def VoteMode.ofCode : Nat → Option VoteMode
  | 0 => some .all | 1 => some .any | 2 => some .ballot | 3 => some .eq | _ => none

def Rop.code : Rop → Nat
  | .add => 0 | .min => 1 | .max => 2 | .umin => 3 | .umax => 4 | .and => 5 | .or => 6 | .xor => 7 | .fadd => 8
  | .fmin => 9 | .fmax => 10
def Rop.ofCode : Nat → Option Rop
  | 0 => some .add | 1 => some .min | 2 => some .max | 3 => some .umin | 4 => some .umax | 5 => some .and
  | 6 => some .or | 7 => some .xor | 8 => some .fadd | 9 => some .fmin | 10 => some .fmax | _ => none

def BarScope.code : BarScope → Nat
  | .team => 0 | .cluster => 1 | .device => 2
def BarScope.ofCode : Nat → Option BarScope
  | 0 => some .team | 1 => some .cluster | 2 => some .device | _ => none

def MapMode.code : MapMode → Nat
  | .rw => 0 | .ro => 1 | .wo => 2
def MapMode.ofCode : Nat → Option MapMode
  | 0 => some .rw | 1 => some .ro | 2 => some .wo | _ => none

def ScatOp.code : ScatOp → Nat
  | .st => 0 | .add => 1 | .fadd => 2 | .hadd2 => 3
def ScatOp.ofCode : Nat → Option ScatOp
  | 0 => some .st | 1 => some .add | 2 => some .fadd | 3 => some .hadd2 | _ => none

/-- A TYPE that is 0 or one named code (FFMA, HFMA2, FCMP, URAND). -/
def typed? (named code : Nat) : Option Bool :=
  if code = 0 then some false else if code = named then some true else none

/-- R56: the lane-short words. -/
def parseLS (w : Nat) : Except DecodeError Instr :=
  let g := gF w 21
  let d := vF w 14
  let a := vF w 7
  let b := vF w 0
  match fld w 24 6 with
  | 0x01 => .ok (.iadd g d a b)
  | 0x02 => .ok (.isub g d a b)
  | 0x03 => .ok (.imul g d a b)
  | 0x04 => .ok (.imulhs g d a b)
  | 0x05 => .ok (.imulhu g d a b)
  | 0x06 => .ok (.imin g d a b)
  | 0x07 => .ok (.imax g d a b)
  | 0x08 => .ok (.umin g d a b)
  | 0x09 => .ok (.umax g d a b)
  | 0x0A => .ok (.and g d a b)
  | 0x0B => .ok (.or g d a b)
  | 0x0C => .ok (.xor g d a b)
  | 0x0D => .ok (.andn g d a b)
  | 0x0E => .ok (.shl g d a b)
  | 0x0F => .ok (.shr g d a b)
  | 0x10 => .ok (.sar g d a b)
  | 0x11 => .ok (.rotl g d a b)
  | 0x12 => .ok (.popc g d a)
  | 0x13 => .ok (.clz g d a)
  | 0x14 => .ok (.brev g d a)
  | 0x15 => .ok (.mov g d a)
  | 0x16 => .ok (.fadd g d a b)
  | 0x17 => .ok (.fsub g d a b)
  | 0x18 => .ok (.fmul g d a b)
  | 0x19 => .ok (.fmin g d a b)
  | 0x1A => .ok (.fmax g d a b)
  | 0x1B => .ok (.frcp g d a)
  | 0x1C => .ok (.frsq g d a)
  | 0x1D => .ok (.fsqrt g d a)
  | 0x1E => .ok (.fexp2 g d a)
  | 0x1F => .ok (.flog2 g d a)
  | 0x20 => .ok (.hadd2 g d a b)
  | 0x21 => .ok (.hmul2 g d a b)
  | 0x22 => .ok (.hmax2 g d a b)
  | 0x23 => .ok (.cvtif g d a)
  | 0x24 => .ok (.cvtfi g d a)
  | 0x25 => .ok (.pkbf g d a b)
  | 0x26 => .ok (.upbfl g d a)
  | 0x27 => .ok (.upbfh g d a)
  | 0x28 => .ok (.sel g d a b)
  | 0x29 => .ok (.lane g d)
  | 0x2A => .ok (.fabs g d a)
  | 0x2B => .ok (.fneg g d a)
  | _ => .error .illegalOpcode

/-- A field value that its table reserves raises RESERVED_FIELD. -/
def reserved (o : Option Instr) : Except DecodeError Instr :=
  match o with
  | some i => .ok i
  | none => .error .reservedField

/-- R57, R58: the lane-long words. -/
def parseLL (w x : Nat) : Except DecodeError Instr :=
  let g : LGuard := ⟨gF w 17, bitOf w 16⟩
  let d := vF w 9
  let a := vF w 2
  let imm : Word := BitVec.ofNat 32 x
  let b := vF x 25
  let c := vF x 18
  let la : Fin 16 := Fin.ofNat 16 (x / 2 ^ 14)
  let ty := fld x 10 4
  let hs := sF x 26
  let vo := vF x 19
  let mla : Fin 16 := Fin.ofNat 16 (x / 2 ^ 15)
  let wd := Width.ofCode (fld x 12 3)
  let pol := Policy.ofCode (fld x 10 2)
  let i10 : BitVec 10 := BitVec.ofNat 10 x
  let aop := Aop.ofCode (fld x 8 4)
  let scope := Scope.ofCode (fld x 5 3)
  match fld w 20 10 with
  | 0x001 => .ok (.iaddi g d a imm)
  | 0x002 => .ok (.limm g d imm)
  | 0x003 => reserved ((IntType.ofCode ty).map fun t => .imad g d a b c t (bitOf x 0))
  | 0x004 => reserved ((typed? 7 ty).map fun t => .ffma g d a b c t (bitOf x 0) (bitOf x 1))
  | 0x005 => reserved ((typed? 8 ty).map fun t => .hfma2 g d a b c t (bitOf x 0) (bitOf x 1))
  | 0x006 => reserved ((IntType.ofCode ty).bind fun t => (Pred.ofCode (fld x 0 3)).bind fun p =>
      (Comb.ofCode (fld x 6 2)).map fun cb => .icmp g (gF x 3) a b t p cb)
  | 0x007 => reserved ((typed? 7 ty).bind fun t => (FPred.ofCode (fld x 0 3)).bind fun p =>
      (Comb.ofCode (fld x 6 2)).map fun cb => .fcmp g (gF x 3) a b t p cb)
  | 0x008 => reserved ((IntType.ofCode ty).map fun t => .bfx g d a t (Fin.ofNat 32 x) (Fin.ofNat 32 (x / 2 ^ 5)))
  | 0x009 => .ok (.bfi g d a b (Fin.ofNat 32 x) (Fin.ofNat 32 (x / 2 ^ 5)))
  | 0x00A => reserved ((IntType.ofCode ty).map fun t => .idiv g d a b t la)
  | 0x00B => reserved ((IntType.ofCode ty).map fun t => .irem g d a b t la)
  | 0x00C => reserved (wd.map fun k => .lea g d hs vo k i10)
  | 0x00D => reserved ((CType.ofCode ty).bind fun t => (CType.ofCode (fld x 0 4)).map fun s => .cvt g d a t s (bitOf x 4))
  | 0x00E => .ok (.tidx g d (Fin.ofNat 8 x) b c)
  | 0x00F => reserved ((typed? 7 ty).map fun t => .urand g d a b t)
  | 0x010 => reserved ((ShiftKind.ofCode (fld x 0 2)).map fun k => .shfi g d a k (Fin.ofNat 32 (x / 2 ^ 2)))
  | 0x011 => .ok (.logi g d a b c (BitVec.ofNat 8 x))
  | 0x020 => reserved ((ShflMode.ofCode (fld x 0 2)).map fun m => .shfl g d a b m (bitOf x 2) (Fin.ofNat 64 (x / 2 ^ 3)))
  | 0x021 => reserved ((VoteMode.ofCode (fld x 0 2)).map fun m => .vote g d a m (gF x 2) (bitOf x 5))
  | 0x022 => reserved ((Rop.ofCode (fld x 0 4)).map fun r => .redl g d a r)
  | 0x023 => reserved ((Rop.ofCode (fld x 0 4)).map fun r => .scanl g d a r (bitOf x 4))
  | 0x024 => .ok (.bcast g d a (vF x 0) (bitOf x 7))
  | 0x030 => .ok (.br g imm)
  | 0x031 => .ok (.brx g a)
  | 0x032 => .ok (.call g imm)
  | 0x040 => reserved (wd.bind fun k => pol.map fun p => .ld g d hs vo mla k p i10)
  | 0x041 => reserved (wd.bind fun k => pol.map fun p => .st g d hs vo k p i10)
  | 0x042 => reserved (wd.map fun k => .lds g d hs vo mla k i10)
  | 0x043 => reserved (wd.map fun k => .sts g d hs vo k i10)
  | 0x044 => reserved (wd.bind fun k => aop.bind fun o => scope.map fun s => .atom g d a hs vo mla k o s)
  | 0x045 => reserved (wd.bind fun k => aop.bind fun o => scope.map fun s => .red g a hs vo k o s)
  | 0x046 => reserved (wd.bind fun k => aop.bind fun o => scope.map fun s => .atoms g d a hs vo mla k o s)
  | 0x047 => reserved (wd.bind fun k => pol.map fun p => .pf g hs vo k p i10)
  | 0x050 => .ok (.refill g d imm)
  | _ => .error .illegalOpcode

/-- R60: the uniform-short words. -/
def parseUS (w : Nat) : Except DecodeError Instr :=
  let z := zF w 22
  let d := sF w 16
  let a := sF w 10
  let b := sF w 4
  match fld w 24 6 with
  | 0x00 => .ok (.nop z)
  | 0x01 => .ok (.sadd z d a b)
  | 0x02 => .ok (.ssub z d a b)
  | 0x03 => .ok (.smul z d a b)
  | 0x04 => .ok (.sand z d a b)
  | 0x05 => .ok (.sor z d a b)
  | 0x06 => .ok (.sxor z d a b)
  | 0x07 => .ok (.sshl z d a b)
  | 0x08 => .ok (.sshr z d a b)
  | 0x09 => .ok (.ssar z d a b)
  | 0x0A => .ok (.smov z d a)
  | 0x0B => .ok (.smin z d a b (bitOf w 0))
  | 0x0C => .ok (.smax z d a b (bitOf w 0))
  | 0x0D => reserved ((Pred.ofCode (fld w 18 3)).map fun p => .scmp z (zF w 16) a b p (bitOf w 21))
  | 0x0E => .ok (.twait z a (bitOf w 0))
  | 0x0F => .ok (.ttest z d a (zF w 0))
  | 0x10 => .ok (.join z (mF w 16))
  | 0x11 => .ok (.leave z (mF w 16))
  | 0x12 => .ok (.waitm z (mF w 16) (bitOf w 0))
  | 0x13 => .ok (.yield z)
  | 0x14 => .ok (.exit z)
  | 0x15 => .ok (.ret z)
  | 0x16 => .ok (.eret z (bitOf w 0))
  | 0x17 => .ok (.bkpt z (Fin.ofNat 16 w))
  | 0x18 => .ok (.trap z a (Fin.ofNat 16 w))
  | 0x19 => .ok (.cpermit z a (Fin.ofNat 16 w))
  | _ => .error .illegalOpcode

/-- R61: the uniform-long words. -/
def parseUL (w x : Nat) : Except DecodeError Instr :=
  let u : UGuard := ⟨zF w 18, bitOf w 17⟩
  let d := sF w 11
  let a := sF w 5
  let imm : Word := BitVec.ofNat 32 x
  let b := sF x 26
  let c := sF x 20
  let la : Fin 16 := Fin.ofNat 16 (x / 2 ^ 16)
  match fld w 20 10 with
  | 0x001 => .ok (.saddi u d a imm)
  | 0x002 => .ok (.sli u d imm)
  | 0x003 => reserved ((Width.ofCode (fld x 13 3)).bind fun k => (Policy.ofCode (fld x 11 2)).map fun p =>
      .sld u d a b la k p (BitVec.ofNat 11 x))
  | 0x004 => reserved ((Width.ofCode (fld x 13 3)).bind fun k => (Policy.ofCode (fld x 11 2)).map fun p =>
      .sst u d a b k p (BitVec.ofNat 11 x))
  | 0x005 => .ok (.bra u imm)
  | 0x006 => .ok (.brc u d imm)
  | 0x007 => .ok (.callu u imm)
  | 0x008 => .ok (.jmpu u a)
  | 0x009 => .ok (.sysrd u d (BitVec.ofNat 12 x) (bitOf x 12))
  | 0x00A => .ok (.syswr u a (BitVec.ofNat 12 x))
  | 0x00B => .ok (.rdlane u d (vF x 0) (vF x 7) (bitOf x 14))
  | 0x00C => .ok (.mget u d (mF x 0))
  | 0x00D => .ok (.mset u a (mF x 0))
  | 0x00E => .ok (.break u (BitVec.ofNat 12 (d.val + a.val * 64)) imm)
  | 0x00F => reserved ((Pred.ofCode (fld w 13 3)).map fun p => .scmpi u (zF w 11) a p (bitOf w 16) imm)
  | 0x020 => reserved ((Scope.ofCode (fld x 8 3)).map fun s => .fence u (BitVec.ofNat 7 x) s (bitOf x 11) (bitOf x 12))
  | 0x021 => reserved ((BarScope.ofCode (fld x 0 2)).map fun s => .bari u a b c s)
  | 0x022 => reserved ((BarScope.ofCode (fld x 0 2)).map fun s => .bara u d a b c s (Fin.ofNat 4096 (x / 2 ^ 2)))
  | 0x023 => reserved ((BarScope.ofCode (fld x 0 2)).map fun s => .barw u d a b c s (zF x 2) (Fin.ofNat 32 (x / 2 ^ 4)))
  | 0x024 => .ok (.sigadd u a b c (bitOf x 0) (bitOf x 1) (BitVec.ofNat 7 (x / 2 ^ 2)))
  | 0x025 => .ok (.sigwait u d a b c (zF x 0) (Fin.ofNat 32 (x / 2 ^ 2)))
  | 0x030 => reserved ((MapMode.ofCode (fld x 14 2)).map fun m => .stmap u a b c (BitVec.ofNat 14 x) m)
  | 0x031 => .ok (.stunmap u a (bitOf x 0))
  | 0x032 => .ok (.stflush u d a b (bitOf x 0) (bitOf x 1))
  | 0x040 => .ok (.cpy u d a)
  | 0x041 => reserved ((Width.ofCode (fld x 0 3)).map fun k => .gath u d a b c k)
  | 0x042 => reserved ((Width.ofCode (fld x 0 3)).bind fun k => (ScatOp.ofCode (fld x 3 3)).map fun o => .scat u d a b c k o)
  | 0x043 => .ok (.sinter u d a b c (bitOf x 0))
  | 0x044 => .ok (.mdec u d a b c (Fin.ofNat 8 x) (bitOf x 3))
  | 0x045 => .ok (.millld u d a b (Fin.ofNat 8 x) (BitVec.ofNat 8 (x / 2 ^ 8)))
  | 0x046 => .ok (.millbind u d a (Fin.ofNat 8 x) (bitOf x 3) (bitOf x 4))
  | 0x047 => .ok (.millstat u d a b (Fin.ofNat 8 x) (bitOf x 3))
  | 0x050 => .ok (.qscale u d a b c (bitOf x 0))
  | 0x051 => .ok (.qsplit u d a b (bitOf x 0))
  | 0x052 => .ok (.qdeq u d a b (Fin.ofNat 16 x) (bitOf x 4))
  | 0x053 => .ok (.mmb u d a b (Fin.ofNat 4 x) (bitOf x 2) (bitOf x 3))
  | 0x054 => .ok (.mout u d a b (Fin.ofNat 4 x) (bitOf x 3))
  | 0x055 => .ok (.mjoin u d (Fin.ofNat 4 x) (cF x 2))
  | 0x056 => .ok (.mloop u d a b c (cF x 0) (Fin.ofNat 4 (x / 2 ^ 5)) (bitOf x 7) (bitOf x 8))
  | 0x057 => .ok (.czero u (cF x 0))
  | 0x058 => .ok (.cld u d a b (cF x 0) (bitOf x 5))
  | 0x059 => .ok (.cst u d a b (cF x 0) (bitOf x 5) (bitOf x 6))
  | 0x05A => .ok (.cstat u d (cF x 0) (bitOf x 5))
  | 0x060 => .ok (.put u d a b c (bitOf x 0) (bitOf x 1) (Fin.ofNat 4 (x / 2 ^ 2)))
  | 0x061 => .ok (.get u d a b c (bitOf x 0) (bitOf x 1) (Fin.ofNat 4 (x / 2 ^ 2)))
  | 0x062 => reserved ((Aop.ofCode (fld x 0 4)).map fun o =>
      .putred u d a b c o (bitOf x 4) (bitOf x 5) (Fin.ofNat 4 (x / 2 ^ 6)) (bitOf x 8) (bitOf x 9) (sF x 10))
  | 0x063 => .ok (.mcst u d a b (sF x 0))
  | 0x064 => .ok (.circrd u d (sF x 0) (Fin.ofNat 8 (x / 2 ^ 6)))
  | 0x065 => .ok (.trigset u a b c)
  | 0x066 => .ok (.trigclr u d a (bitOf x 0))
  | 0x070 => .ok (.spawn u a)
  | 0x071 => .ok (.iqfill u d a b (bitOf x 0))
  | 0x072 => .ok (.timeat u a b)
  | 0x073 => .ok (.nap u imm)
  | 0x080 => .ok (.perfrd u d (Fin.ofNat 8 x))
  | _ => .error .illegalOpcode

/-- R54, R55: bit 31 selects the set and bit 30 the length. -/
def parse (w x : Nat) : Except DecodeError Instr :=
  match fld w 30 2 with
  | 0 => parseLS w
  | 1 => parseLL w x
  | 2 => parseUS w
  | _ => parseUL w x

/-! The encoder: the same layouts, fields placed at their bits (R56 to R61). -/

def encLS (op : Nat) (g : GReg) (d a b : Nat) : Nat := op * 2 ^ 24 + g.val * 2 ^ 21 + d * 2 ^ 14 + a * 2 ^ 7 + b
def encLL (op : Nat) (g : LGuard) (d a : Nat) : Nat :=
  2 ^ 30 + op * 2 ^ 20 + g.reg.val * 2 ^ 17 + b1 g.neg * 2 ^ 16 + d * 2 ^ 9 + a * 2 ^ 2
def encUS (op : Nat) (z : ZReg) (d a b x : Nat) : Nat :=
  2 ^ 31 + op * 2 ^ 24 + z.val * 2 ^ 22 + d * 2 ^ 16 + a * 2 ^ 10 + b * 2 ^ 4 + x
def encUL (op : Nat) (u : UGuard) (d a : Nat) : Nat :=
  2 ^ 31 + 2 ^ 30 + op * 2 ^ 20 + u.reg.val * 2 ^ 18 + b1 u.neg * 2 ^ 17 + d * 2 ^ 11 + a * 2 ^ 5
def encLLR (b c la ty ops : Nat) : Nat := b * 2 ^ 25 + c * 2 ^ 18 + la * 2 ^ 14 + ty * 2 ^ 10 + ops
def encLLM (hs : SReg) (vo : VReg) (la mods : Nat) : Nat := hs.val * 2 ^ 26 + vo.val * 2 ^ 19 + la * 2 ^ 15 + mods
def encULR (b c la imm : Nat) : Nat := b * 2 ^ 26 + c * 2 ^ 20 + la * 2 ^ 16 + imm
def encTyped (named : Nat) (t : Bool) : Nat := if t then named else 0

/-- The two words of an instruction word; 0 stands where there is no word. -/
def Instr.encodeNat : Instr → Nat × Nat
  | .iadd g d a b => (encLS 0x01 g d a b, 0)
  | .isub g d a b => (encLS 0x02 g d a b, 0)
  | .imul g d a b => (encLS 0x03 g d a b, 0)
  | .imulhs g d a b => (encLS 0x04 g d a b, 0)
  | .imulhu g d a b => (encLS 0x05 g d a b, 0)
  | .imin g d a b => (encLS 0x06 g d a b, 0)
  | .imax g d a b => (encLS 0x07 g d a b, 0)
  | .umin g d a b => (encLS 0x08 g d a b, 0)
  | .umax g d a b => (encLS 0x09 g d a b, 0)
  | .and g d a b => (encLS 0x0A g d a b, 0)
  | .or g d a b => (encLS 0x0B g d a b, 0)
  | .xor g d a b => (encLS 0x0C g d a b, 0)
  | .andn g d a b => (encLS 0x0D g d a b, 0)
  | .shl g d a b => (encLS 0x0E g d a b, 0)
  | .shr g d a b => (encLS 0x0F g d a b, 0)
  | .sar g d a b => (encLS 0x10 g d a b, 0)
  | .rotl g d a b => (encLS 0x11 g d a b, 0)
  | .popc g d a => (encLS 0x12 g d a 0, 0)
  | .clz g d a => (encLS 0x13 g d a 0, 0)
  | .brev g d a => (encLS 0x14 g d a 0, 0)
  | .mov g d a => (encLS 0x15 g d a 0, 0)
  | .fadd g d a b => (encLS 0x16 g d a b, 0)
  | .fsub g d a b => (encLS 0x17 g d a b, 0)
  | .fmul g d a b => (encLS 0x18 g d a b, 0)
  | .fmin g d a b => (encLS 0x19 g d a b, 0)
  | .fmax g d a b => (encLS 0x1A g d a b, 0)
  | .frcp g d a => (encLS 0x1B g d a 0, 0)
  | .frsq g d a => (encLS 0x1C g d a 0, 0)
  | .fsqrt g d a => (encLS 0x1D g d a 0, 0)
  | .fexp2 g d a => (encLS 0x1E g d a 0, 0)
  | .flog2 g d a => (encLS 0x1F g d a 0, 0)
  | .hadd2 g d a b => (encLS 0x20 g d a b, 0)
  | .hmul2 g d a b => (encLS 0x21 g d a b, 0)
  | .hmax2 g d a b => (encLS 0x22 g d a b, 0)
  | .cvtif g d a => (encLS 0x23 g d a 0, 0)
  | .cvtfi g d a => (encLS 0x24 g d a 0, 0)
  | .pkbf g d a b => (encLS 0x25 g d a b, 0)
  | .upbfl g d a => (encLS 0x26 g d a 0, 0)
  | .upbfh g d a => (encLS 0x27 g d a 0, 0)
  | .sel g d a b => (encLS 0x28 g d a b, 0)
  | .lane g d => (encLS 0x29 g d 0 0, 0)
  | .fabs g d a => (encLS 0x2A g d a 0, 0)
  | .fneg g d a => (encLS 0x2B g d a 0, 0)
  | .iaddi g d a imm => (encLL 0x001 g d a, imm.toNat)
  | .limm g d imm => (encLL 0x002 g d 0, imm.toNat)
  | .imad g d a b c ty wide => (encLL 0x003 g d a, encLLR b c 0 ty.code (b1 wide))
  | .ffma g d a b c t np nc => (encLL 0x004 g d a, encLLR b c 0 (encTyped 7 t) (b1 np + b1 nc * 2))
  | .hfma2 g d a b c t np nc => (encLL 0x005 g d a, encLLR b c 0 (encTyped 8 t) (b1 np + b1 nc * 2))
  | .icmp g gd a b ty p cb => (encLL 0x006 g 0 a, encLLR b 0 0 ty.code (p.code + gd.val * 2 ^ 3 + cb.code * 2 ^ 6))
  | .fcmp g gd a b t p cb => (encLL 0x007 g 0 a, encLLR b 0 0 (encTyped 7 t) (p.code + gd.val * 2 ^ 3 + cb.code * 2 ^ 6))
  | .bfx g d a ty pos len1 => (encLL 0x008 g d a, encLLR 0 0 0 ty.code (pos.val + len1.val * 2 ^ 5))
  | .bfi g d a b pos len1 => (encLL 0x009 g d a, encLLR b 0 0 0 (pos.val + len1.val * 2 ^ 5))
  | .idiv g d a b ty la => (encLL 0x00A g d a, encLLR b 0 la ty.code 0)
  | .irem g d a b ty la => (encLL 0x00B g d a, encLLR b 0 la ty.code 0)
  | .lea g d hs vo wd imm => (encLL 0x00C g d 0, encLLM hs vo 0 (wd.code * 2 ^ 12 + imm.toNat))
  | .cvt g d a dst src rz => (encLL 0x00D g d a, encLLR 0 0 0 dst.code (src.code + b1 rz * 2 ^ 4))
  | .tidx g d what xm ym => (encLL 0x00E g d 0, encLLR xm ym 0 0 what)
  | .urand g d a b fp => (encLL 0x00F g d a, encLLR b 0 0 (encTyped 7 fp) 0)
  | .shfi g d a kind n => (encLL 0x010 g d a, encLLR 0 0 0 0 (kind.code + n.val * 2 ^ 2))
  | .logi g d a b c table => (encLL 0x011 g d a, encLLR b c 0 0 table.toNat)
  | .shfl g d a b mode wrel lit => (encLL 0x020 g d a, encLLR b 0 0 0 (mode.code + b1 wrel * 2 ^ 2 + lit.val * 2 ^ 3))
  | .vote g d a mode gd gw => (encLL 0x021 g d a, encLLR 0 0 0 0 (mode.code + gd.val * 2 ^ 2 + b1 gw * 2 ^ 5))
  | .redl g d a rop => (encLL 0x022 g d a, encLLR 0 0 0 0 rop.code)
  | .scanl g d a rop excl => (encLL 0x023 g d a, encLLR 0 0 0 0 (rop.code + b1 excl * 2 ^ 4))
  | .bcast g d a src first => (encLL 0x024 g d a, encLLR 0 0 0 0 (src.val + b1 first * 2 ^ 7))
  | .br g disp => (encLL 0x030 g 0 0, disp.toNat)
  | .brx g a => (encLL 0x031 g 0 a, 0)
  | .call g disp => (encLL 0x032 g 0 0, disp.toNat)
  | .ld g d hs vo la wd pol imm =>
      (encLL 0x040 g d 0, encLLM hs vo la (wd.code * 2 ^ 12 + pol.code * 2 ^ 10 + imm.toNat))
  | .st g d hs vo wd pol imm => (encLL 0x041 g d 0, encLLM hs vo 0 (wd.code * 2 ^ 12 + pol.code * 2 ^ 10 + imm.toNat))
  | .lds g d hs vo la wd imm => (encLL 0x042 g d 0, encLLM hs vo la (wd.code * 2 ^ 12 + imm.toNat))
  | .sts g d hs vo wd imm => (encLL 0x043 g d 0, encLLM hs vo 0 (wd.code * 2 ^ 12 + imm.toNat))
  | .atom g d a hs vo la wd aop scope =>
      (encLL 0x044 g d a, encLLM hs vo la (wd.code * 2 ^ 12 + aop.code * 2 ^ 8 + scope.code * 2 ^ 5))
  | .red g a hs vo wd aop scope =>
      (encLL 0x045 g 0 a, encLLM hs vo 0 (wd.code * 2 ^ 12 + aop.code * 2 ^ 8 + scope.code * 2 ^ 5))
  | .atoms g d a hs vo la wd aop scope =>
      (encLL 0x046 g d a, encLLM hs vo la (wd.code * 2 ^ 12 + aop.code * 2 ^ 8 + scope.code * 2 ^ 5))
  | .pf g hs vo wd pol imm => (encLL 0x047 g 0 0, encLLM hs vo 0 (wd.code * 2 ^ 12 + pol.code * 2 ^ 10 + imm.toNat))
  | .refill g d disp => (encLL 0x050 g d 0, disp.toNat)
  | .nop z => (encUS 0x00 z 0 0 0 0, 0)
  | .sadd z d a b => (encUS 0x01 z d a b 0, 0)
  | .ssub z d a b => (encUS 0x02 z d a b 0, 0)
  | .smul z d a b => (encUS 0x03 z d a b 0, 0)
  | .sand z d a b => (encUS 0x04 z d a b 0, 0)
  | .sor z d a b => (encUS 0x05 z d a b 0, 0)
  | .sxor z d a b => (encUS 0x06 z d a b 0, 0)
  | .sshl z d a b => (encUS 0x07 z d a b 0, 0)
  | .sshr z d a b => (encUS 0x08 z d a b 0, 0)
  | .ssar z d a b => (encUS 0x09 z d a b 0, 0)
  | .smov z d a => (encUS 0x0A z d a 0 0, 0)
  | .smin z d a b uns => (encUS 0x0B z d a b (b1 uns), 0)
  | .smax z d a b uns => (encUS 0x0C z d a b (b1 uns), 0)
  | .scmp z zd a b p uns => (encUS 0x0D z (zd.val + p.code * 2 ^ 2 + b1 uns * 2 ^ 5) a b 0, 0)
  | .twait z a chk => (encUS 0x0E z 0 a 0 (b1 chk), 0)
  | .ttest z d a zout => (encUS 0x0F z d a 0 zout, 0)
  | .join z m => (encUS 0x10 z m 0 0 0, 0)
  | .leave z m => (encUS 0x11 z m 0 0 0, 0)
  | .waitm z m clr => (encUS 0x12 z m 0 0 (b1 clr), 0)
  | .yield z => (encUS 0x13 z 0 0 0 0, 0)
  | .exit z => (encUS 0x14 z 0 0 0 0, 0)
  | .ret z => (encUS 0x15 z 0 0 0 0, 0)
  | .eret z skip => (encUS 0x16 z 0 0 0 (b1 skip), 0)
  | .bkpt z code => (encUS 0x17 z 0 0 0 code, 0)
  | .trap z a code => (encUS 0x18 z 0 a 0 code, 0)
  | .cpermit z a k => (encUS 0x19 z 0 a 0 k, 0)
  | .saddi u d a imm => (encUL 0x001 u d a, imm.toNat)
  | .sli u d imm => (encUL 0x002 u d 0, imm.toNat)
  | .sld u d a b la wd pol imm =>
      (encUL 0x003 u d a, encULR b 0 la (wd.code * 2 ^ 13 + pol.code * 2 ^ 11 + imm.toNat))
  | .sst u d a b wd pol imm => (encUL 0x004 u d a, encULR b 0 0 (wd.code * 2 ^ 13 + pol.code * 2 ^ 11 + imm.toNat))
  | .bra u disp => (encUL 0x005 u 0 0, disp.toNat)
  | .brc u d disp => (encUL 0x006 u d 0, disp.toNat)
  | .callu u disp => (encUL 0x007 u 0 0, disp.toNat)
  | .jmpu u a => (encUL 0x008 u 0 a, 0)
  | .sysrd u d number dbl => (encUL 0x009 u d 0, encULR 0 0 0 (number.toNat + b1 dbl * 2 ^ 12))
  | .syswr u a number => (encUL 0x00A u 0 a, encULR 0 0 0 number.toNat)
  | .rdlane u d vreg ln first => (encUL 0x00B u d 0, encULR 0 0 0 (vreg.val + ln.val * 2 ^ 7 + b1 first * 2 ^ 14))
  | .mget u d m => (encUL 0x00C u d 0, encULR 0 0 0 m)
  | .mset u a m => (encUL 0x00D u 0 a, encULR 0 0 0 m)
  | .break u set disp => (encUL 0x00E u (set.toNat % 64) (set.toNat / 64), disp.toNat)
  | .scmpi u zd a p uns imm => (encUL 0x00F u (zd.val + p.code * 2 ^ 2 + b1 uns * 2 ^ 5) a, imm.toNat)
  | .fence u paths scope rel acq =>
      (encUL 0x020 u 0 0, encULR 0 0 0 (paths.toNat + scope.code * 2 ^ 8 + b1 rel * 2 ^ 11 + b1 acq * 2 ^ 12))
  | .bari u a b c scope => (encUL 0x021 u 0 a, encULR b c 0 scope.code)
  | .bara u d a b c scope n => (encUL 0x022 u d a, encULR b c 0 (scope.code + n.val * 2 ^ 2))
  | .barw u d a b c scope zout bexp =>
      (encUL 0x023 u d a, encULR b c 0 (scope.code + zout.val * 2 ^ 2 + bexp.val * 2 ^ 4))
  | .sigadd u a b c d rel paths => (encUL 0x024 u 0 a, encULR b c 0 (b1 d + b1 rel * 2 + paths.toNat * 2 ^ 2))
  | .sigwait u d a b c zout bexp => (encUL 0x025 u d a, encULR b c 0 (zout.val + bexp.val * 2 ^ 2))
  | .stmap u a b c lines mode => (encUL 0x030 u 0 a, encULR b c 0 (lines.toNat + mode.code * 2 ^ 14))
  | .stunmap u a drop => (encUL 0x031 u 0 a, encULR 0 0 0 (b1 drop))
  | .stflush u d a b all inv => (encUL 0x032 u d a, encULR b 0 0 (b1 all + b1 inv * 2))
  | .cpy u d a => (encUL 0x040 u d a, 0)
  | .gath u d a b c wd => (encUL 0x041 u d a, encULR b c 0 wd.code)
  | .scat u d a b c wd op => (encUL 0x042 u d a, encULR b c 0 (wd.code + op.code * 2 ^ 3))
  | .sinter u d a b c emit => (encUL 0x043 u d a, encULR b c 0 (b1 emit))
  | .mdec u d a b c n any => (encUL 0x044 u d a, encULR b c 0 (n.val + b1 any * 2 ^ 3))
  | .millld u d a b slot gen => (encUL 0x045 u d a, encULR b 0 0 (slot.val + gen.toNat * 2 ^ 8))
  | .millbind u d a slot wr unbind => (encUL 0x046 u d a, encULR 0 0 0 (slot.val + b1 wr * 2 ^ 3 + b1 unbind * 2 ^ 4))
  | .millstat u d a b slot clr => (encUL 0x047 u d a, encULR b 0 0 (slot.val + b1 clr * 2 ^ 3))
  | .qscale u d a b c bf => (encUL 0x050 u d a, encULR b c 0 (b1 bf))
  | .qsplit u d a b bf => (encUL 0x051 u d a, encULR b 0 0 (b1 bf))
  | .qdeq u d a b pq bf => (encUL 0x052 u d a, encULR b 0 0 (pq.val + b1 bf * 2 ^ 4))
  | .mmb u d a b slot hold table => (encUL 0x053 u d a, encULR b 0 0 (slot.val + b1 hold * 2 ^ 2 + b1 table * 2 ^ 3))
  | .mout u d a b slot table => (encUL 0x054 u d a, encULR b 0 0 (slot.val + b1 table * 2 ^ 3))
  | .mjoin u d slot ct => (encUL 0x055 u d 0, encULR 0 0 0 (slot.val + ct.val * 2 ^ 2))
  | .mloop u d a b c ct s0 two table =>
      (encUL 0x056 u d a, encULR b c 0 (ct.val + s0.val * 2 ^ 5 + b1 two * 2 ^ 7 + b1 table * 2 ^ 8))
  | .czero u ct => (encUL 0x057 u 0 0, encULR 0 0 0 ct)
  | .cld u d a b ct bf => (encUL 0x058 u d a, encULR b 0 0 (ct.val + b1 bf * 2 ^ 5))
  | .cst u d a b ct bf clr => (encUL 0x059 u d a, encULR b 0 0 (ct.val + b1 bf * 2 ^ 5 + b1 clr * 2 ^ 6))
  | .cstat u d ct clr => (encUL 0x05A u d 0, encULR 0 0 0 (ct.val + b1 clr * 2 ^ 5))
  | .put u d a b c ss sig ch => (encUL 0x060 u d a, encULR b c 0 (b1 ss + b1 sig * 2 + ch.val * 2 ^ 2))
  | .get u d a b c ds sig ch => (encUL 0x061 u d a, encULR b c 0 (b1 ds + b1 sig * 2 + ch.val * 2 ^ 2))
  | .putred u d a b c aop dd sig ch ss circ circle =>
      (encUL 0x062 u d a, encULR b c 0 (aop.code + b1 dd * 2 ^ 4 + b1 sig * 2 ^ 5 + ch.val * 2 ^ 6 + b1 ss * 2 ^ 8 +
        b1 circ * 2 ^ 9 + circle.val * 2 ^ 10))
  | .mcst u d a b circle => (encUL 0x063 u d a, encULR b 0 0 circle)
  | .circrd u d circle word => (encUL 0x064 u d 0, encULR 0 0 0 (circle.val + word.val * 2 ^ 6))
  | .trigset u a b c => (encUL 0x065 u 0 a, encULR b c 0 0)
  | .trigclr u d a peek => (encUL 0x066 u d a, encULR 0 0 0 (b1 peek))
  | .spawn u a => (encUL 0x070 u 0 a, 0)
  | .iqfill u d a b seq => (encUL 0x071 u d a, encULR b 0 0 (b1 seq))
  | .timeat u a b => (encUL 0x072 u 0 a, encULR b 0 0 0)
  | .nap u ns => (encUL 0x073 u 0 0, ns.toNat)
  | .perfrd u d k => (encUL 0x080 u d 0, encULR 0 0 0 k)
  | _ => (0, 0)

/-- R55: bit 30 of the first word says that a second word follows. -/
def isLong (w : Nat) : Bool := bitOf w 30

/-- The words of an instruction, in code order; none for an event. -/
def Instr.encode (i : Instr) : List Word :=
  if i.isCode then
    let (w, x) := i.encodeNat
    if isLong w then [BitVec.ofNat 32 w, BitVec.ofNat 32 x] else [BitVec.ofNat 32 w]
  else []

/-- R65, up to the register budgets: the all-zero word and unassigned opcodes are illegal; then every zero field must be
zero (the fields re-encode to the word itself) and the encoding rules must hold. A one-word form has no second word. -/
def decodeWords (w0 w1 : Word) : Except DecodeError Instr :=
  if w0 = 0 then .error .illegalOpcode
  else
    let x := if isLong w0.toNat then w1.toNat else 0
    match parse w0.toNat x with
    | .error e => .error e
    | .ok i => if i.encodeNat = (w0.toNat, x) ∧ i.wf = true then .ok i else .error .reservedField

def wordOf (b0 b1 b2 b3 : Byte) : Word := b3 ++ b2 ++ b1 ++ b0

/-- R77: each code word is four bytes, little-endian, the first word at the lower offset. The answer carries the bytes left. -/
def decodeBytes : List Byte → Except DecodeError (Instr × List Byte)
  | a :: b :: c :: d :: rest =>
    let w0 := wordOf a b c d
    if isLong w0.toNat then
      match rest with
      | e :: f :: g :: h :: rest' => (decodeWords w0 (wordOf e f g h)).map fun i => (i, rest')
      | _ => .error .truncated
    else (decodeWords w0 0).map fun i => (i, rest)
  | _ => .error .truncated

/-- The instruction the decoder reads from bits numbered as spec/opcode_table.json numbers them: the second word is bits
63..32. The bytes are laid out as R77 stores them. -/
def decodeTableWord (nbits w : Nat) : Option Instr :=
  let bytes := (List.range 8).map fun k => if 8 * k < nbits then (BitVec.ofNat 8 (w / 2 ^ (8 * k)) : Byte) else 0
  match decodeBytes bytes with
  | .ok (i, _) => some i
  | .error _ => none

end Sys2Proof
end

