-- ==== Sys2Proof/Machine/Stream.lean ====
section
/-! DEFINITION. The Mill: graph images (R100 to R102), node operations (R103), the gate of a slot (R104), and stream and tap graphs on the
beats of reads and writes (R105, R106). -/

namespace Sys2Proof.Machine

open Sys2Proof

/-! Images. -/

structure Node where
  op : Nat
  sa : Nat
  sb : Nat
  sc : Nat
  mod : Nat
  zero : Nat
  imm : Nat
  deriving DecidableEq, Repr

def imgMode (img : List Byte) : Nat := numAt img 0 1 % 8
def imgWrite (img : List Byte) : Bool := bit (numAt img 0 1) 3
def imgRatioCode (img : List Byte) : Nat := bits (numAt img 0 1) 4 2
def imgRatio (img : List Byte) : Nat := 2 ^ imgRatioCode img
def imgBf (img : List Byte) : Bool := bit (numAt img 0 1) 6
def imgOut (img : List Byte) : Nat := numAt img 1 1 % 32
def imgNode (img : List Byte) (i : Nat) : Node :=
  let w := numAt img (0x40 + 8 * i) 8
  ⟨bits w 0 8, bits w 8 5, bits w 13 5, bits w 18 5, bits w 23 5, bits w 28 4, w / 2 ^ 32⟩
def imgLut (img : List Byte) (n : Nat) : Nat := numAt img (0x100 + 4 * n) 4

/-- How many sources an operation takes (R103), where the operation and its modifier exist. -/
def Node.arity (n : Node) : Option Nat :=
  let need := fun (ok : Bool) (k : Nat) => if ok then some k else none
  match n.op with
  | 0x01 | 0x02 | 0x04 | 0x05 => need (n.mod ≤ 1) 2
  | 0x03 => need (n.mod ≤ 1) 3
  | 0x08 | 0x09 | 0x0A | 0x0B | 0x0C | 0x0D | 0x0E | 0x0F | 0x10 | 0x11 | 0x12 => need (n.mod = 0) 2
  | 0x18 => need (n.mod % 8 ≤ 5 && n.mod < 16) 2
  | 0x19 => need (n.mod = 0) 3
  | 0x20 => need (n.mod ≤ 7) (if n.mod = 7 then 2 else 1)
  | 0x28 | 0x29 | 0x2A | 0x38 | 0x58 => need (n.mod = 0) 1
  | 0x30 => need (n.mod ≤ 2) 1
  | 0x39 => need (n.mod % 16 = 0 || (2 ≤ n.mod % 16 && n.mod % 16 ≤ 8)) 0
  | 0x3A => need (2 ≤ n.mod && n.mod ≤ 8) 1
  | 0x3B => need (2 ≤ n.mod && n.mod ≤ 8 && n.mod ≤ n.imm % 16 && n.imm % 16 ≤ 8) 1
  | 0x40 => need (n.mod ≤ 20) 1
  | 0x48 | 0x50 => need (n.mod ≤ 3) 1
  | 0x60 => need (n.mod < 16 && n.mod / 4 ≤ 2) 1
  | _ => none

/-- Whether a source field is legal at node i: an earlier column's used node with a usable output, or a named stream (R101, R102). -/
def sourceOk (img : List Byte) (i s : Nat) : Bool :=
  if s ≤ 23 then decide (s / 4 < i / 4) && (imgNode img s).op != 0 && (imgNode img s).op != 0x38
  else s ≤ 28 && (s != 24 || imgMode img != 2)

def nodeOk (img : List Byte) (i : Nat) : Bool :=
  let n := imgNode img i
  if n.op = 0 then numAt img (0x40 + 8 * i) 8 == 0
  else match n.arity with
    | none => false
    | some k => n.zero == 0 &&
      (if 1 ≤ k then sourceOk img i n.sa else n.sa == 28) && (if 2 ≤ k then sourceOk img i n.sb else n.sb == 28) &&
      (if 3 ≤ k then sourceOk img i n.sc else n.sc == 28)

/-- R102. -/
def imageOk (img : List Byte) : Bool :=
  let w := numAt img 0 4
  let mode := imgMode img
  let encs := (List.range 24).filter fun i => (imgNode img i).op == 0x38
  let decs := (List.range 24).filter fun i => (imgNode img i).op == 0x39
  mode ≤ 3 && w / 2 ^ 13 == 0 && !bit w 7 && numAt img 4 60 == 0 &&
  (mode != 1 || imgWrite img) && (mode != 2 || !imgWrite img) &&
  imgRatioCode img ≤ 2 && (mode == 0 || imgRatioCode img == 0) && (mode == 1 || mode == 2 || !imgBf img) &&
  imgOut img ≤ 23 && (imgNode img (imgOut img)).op != 0 && ((imgNode img (imgOut img)).op != 0x38 || mode == 1) &&
  (List.range 24).all (nodeOk img) &&
  (if mode = 1 then encs == [imgOut img] else encs.isEmpty) &&
  (if mode = 2 then (match decs with
      | [i] => i / 4 == 0 && bit (imgNode img i).mod 4 == imgBf img
      | _ => false) else decs.isEmpty)

/-! Node operations. -/

/-- One floating-point operation on lanes, or on the BF16 pairs of lanes. -/
def fpLane (pairs : Bool) (f : Fmt → Nat → Nat → Nat → Nat × Flags) (x y z : Nat) : Nat × Flags :=
  if pairs then
    let lo := f bf16 (x % 2 ^ 16) (y % 2 ^ 16) (z % 2 ^ 16)
    let hi := f bf16 (x / 2 ^ 16) (y / 2 ^ 16) (z / 2 ^ 16)
    (hi.1 * 2 ^ 16 + lo.1, hi.2 ||| lo.2)
  else f fp32 x y z

def word2 (f : Word → Word → Word) (x y : Nat) : Nat × Flags := ((f (BitVec.ofNat 32 x) (BitVec.ofNat 32 y)).toNat, 0)

/-- The conversions of R103. -/
def millCvt (code a b : Nat) : Nat × Flags :=
  match code with
  | 0 => fp32.ofVal (bf16.read (a % 2 ^ 16))
  | 1 => fp32.ofVal (bf16.read (a / 2 ^ 16))
  | 2 => bf16.ofVal (fp32.read a)
  | 3 => fp32.ofVal (fp16.read (a % 2 ^ 16))
  | 4 => fp16.ofVal (fp32.read a)
  | 5 => cvtif a
  | 6 => cvtfi a
  | _ => let p := bf16.ofVal (fp32.read a); let q := bf16.ofVal (fp32.read b); (q.1 * 2 ^ 16 + p.1, q.2 ||| p.2)

/-- PPACK and PUNPK of R103. -/
def ppack (p a : Nat) : Nat :=
  let v := signExt a 32
  let m := min v.natAbs (2 ^ (p - 1) - 1)
  boolNat (decide (v < 0) && m != 0) + ((List.range (p - 1)).filter fun q => bit m (p - 2 - q)).foldl (fun n q => n + 2 ^ (q + 1)) 0
def punpk (p' p a : Nat) : Nat :=
  let m := (List.range (p' - 1)).foldl (fun m q => 2 * m + boolNat (bit a (q + 1))) 0
  let _ := p
  wrap 32 (if bit a 0 then -(m : Int) else m)

/-- The pure per-lane operations; a lane's index is given for PERM, which reads other lanes of a. -/
def laneNode (n : Node) (lut : Nat → Nat) (as : List Nat) (i x y z : Nat) : Nat × Flags :=
  let pr := n.mod % 2 == 1
  match n.op with
  | 0x01 => fpLane pr (fun f x y _ => fmtAdd f x y) x y z
  | 0x02 => fpLane pr (fun f x y _ => fmtMul f x y) x y z
  | 0x03 => fpLane pr (fun f x y z => fmtFma f false false x y z) x y z
  | 0x04 => fpLane pr (fun f x y _ => f.minmax false x y) x y z
  | 0x05 => fpLane pr (fun f x y _ => f.minmax true x y) x y z
  | 0x08 => word2 (· + ·) x y
  | 0x09 => word2 (· - ·) x y
  | 0x0A => word2 (· * ·) x y
  | 0x0B => word2 (· &&& ·) x y
  | 0x0C => word2 (· ||| ·) x y
  | 0x0D => word2 (· ^^^ ·) x y
  | 0x0E => word2 (fun a b => a <<< (b.toNat % 32)) x y
  | 0x0F => word2 (fun a b => a >>> (b.toNat % 32)) x y
  | 0x10 => word2 (fun a b => sar32 a (b.toNat % 32)) x y
  | 0x11 => word2 minS x y
  | 0x12 => word2 maxS x y
  | 0x18 =>
    let fp := bit n.mod 3
    let a := fp32.read x
    let b := fp32.read y
    let un := fp && (a.isNaN || b.isNaN)
    let lt := if fp then FVal.lt a b else decide (signExt x 32 < signExt y 32)
    let gt := if fp then FVal.lt b a else decide (signExt y 32 < signExt x 32)
    let r := match n.mod % 8 with
      | 0 => !un && !lt && !gt
      | 1 => un || lt || gt
      | 2 => !un && lt
      | 3 => !un && !gt
      | 4 => !un && gt
      | _ => !un && !lt
    (if r then 0xFFFFFFFF else 0, if fp && (a.signals || b.signals) then nv else 0)
  | 0x19 => (if z ≠ 0 then x else y, 0)
  | 0x20 => millCvt n.mod x y
  | 0x3A => (ppack n.mod x, 0)
  | 0x3B => (punpk n.mod (n.imm % 16) x, 0)
  | 0x48 => (lut (x / 2 ^ (8 * n.mod) % 256), 0)
  | 0x50 =>
    (match n.mod with
     | 0 => as.getD ((i + n.imm % 16) % 16) 0
     | 1 => as.getD (15 - i) 0
     | 2 => as.getD (i ^^^ n.imm % 16) 0
     | _ => ofBytes (toBytes 4 x).reverse, 0)
  | _ => (x, 0)

/-- The tree sum of RSUM: each level adds the upper partial sum to the lower one (R103). -/
def treeSum (xs : List Nat) : Nat × Flags :=
  let level := fun (u : List (Nat × Flags)) =>
    (List.range (u.length / 2)).map fun i => Rop.join' (u.getD (2 * i) (0, 0)) (u.getD (2 * i + 1) (0, 0))
  ((List.range 4).foldl (fun u _ => level u) (xs.map fun x => (x, 0))).headD (0, 0)
where
  Rop.join' (x y : Nat × Flags) : Nat × Flags := let z := fmtAdd fp32 x.1 y.1; (z.1, x.2 ||| y.2 ||| z.2)

/-- The largest magnitude among FP32 values, NaNs skipped; magnitudes of numbers order as their bits. -/
def maxAbs (xs : List Nat) : Nat :=
  xs.foldl (fun m x => if (fp32.read x).isNaN then m else max m (x % 2 ^ 31)) 0

/-- The elements whose absolute maximum BSTAT keeps, as FP32 bits or integers. -/
def bstatOf (fmt : Nat) (xs : List Nat) : Nat :=
  match fmt with
  | 0 => maxAbs xs
  | 1 => maxAbs (xs.flatMap fun x => [(x % 2 ^ 16) * 2 ^ 16, x / 2 ^ 16 * 2 ^ 16])
  | _ => (xs.flatMap fun x => (List.range 4).map fun i => (signExt (x / 2 ^ (8 * i)) 8).natAbs).foldl max 0

/-- What a beat's run through a graph gives: each node's lanes so far, the Mill's registers, and whether an ASSERT failed. -/
structure Run where
  outs : List (List Nat)
  part : MillPart
  failed : Bool
  deriving DecidableEq, Repr

/-- One node on one beat. -/
def runNode (img : List Byte) (beatIn dec : List Nat) (decFlags : Flags) (index i : Nat) (r : Run) : Run :=
  let n := imgNode img i
  let src := fun (k : Nat) =>
    if k ≤ 23 then r.outs.getD k [] else match k with
      | 24 => beatIn
      | 25 => List.replicate 16 n.imm
      | 26 => List.range 16
      | 27 => List.replicate 16 (index % 2 ^ 32)
      | _ => List.replicate 16 0
  let a := src n.sa
  let all := fun (x : Nat) => List.replicate 16 x
  let put := fun (xs : List Nat) (p : MillPart) (f : Bool) => ({ outs := r.outs ++ [xs], part := p, failed := r.failed || f } : Run)
  let flag := fun (f : Flags) => { r.part with flags := r.part.flags ||| f }
  match n.op with
  | 0x00 => put [] r.part false
  | 0x28 => let x := treeSum a; put (all x.1) (flag x.2) false
  | 0x29 => put (all (maxAbs a)) r.part false
  | 0x2A => put (all (a.foldl (· + ·) 0 % 2 ^ 32)) r.part false
  | 0x30 =>
    let group := if n.mod = 0 then 4 else if n.mod = 1 then 2 else 1
    let old := if index % group = 0 then 0 else Tbl.get 0 r.part.bstat i
    let x := max old (bstatOf n.mod a)
    put (all x) { r.part with bstat := Tbl.set r.part.bstat i x } false
  | 0x39 => put dec (flag decFlags) false
  | 0x40 =>
    let old := if index % 2 ^ n.mod = 0 then 0xFFFFFFFF else Tbl.get 0 r.part.crc i
    let x := (a.flatMap (toBytes 4)).foldl crcByte old
    put (all (x ^^^ 0xFFFFFFFF)) { r.part with crc := Tbl.set r.part.crc i x } false
  | 0x58 => put a r.part (a.any (· != 0))
  | 0x60 =>
    let m := n.mod % 4
    let old := r.part.stats.getD m 0
    let new := match n.mod / 4 with
      | 0 => (old + a.foldl (· + ·) 0) % 2 ^ 64
      | 1 => max old (maxAbs a)
      | _ => (old + (a.filter (· != 0)).length) % 2 ^ 64
    put a { r.part with stats := r.part.stats.set m new } false
  | _ =>
    let b := src n.sb
    let c := src n.sc
    let xs := (List.range 16).map fun k => laneNode n (imgLut img) a k (a.getD k 0) (b.getD k 0) (c.getD k 0)
    put (xs.map Prod.fst) (flag (xs.foldl (fun f x => f ||| x.2) 0)) false

def runGraph (img : List Byte) (part : MillPart) (beatIn dec : List Nat) (decFlags : Flags) (index : Nat) : Run :=
  (List.range 24).foldl (fun r i => runNode img beatIn dec decFlags index i r) ⟨[], { part with beats := part.beats + 1 }, false⟩

/-- The output lanes of a run: OUTNODE's, or ENC's own input. -/
def Run.result (r : Run) (img : List Byte) : List Nat := r.outs.getD (imgOut img) []

def lanesOf (bs : List Byte) : List Nat := (chunks 4 16 bs).map ofBytes

/-- Input lanes of a view of ratio r: backing elements of 32/r bits, zero-extended (R105). -/
def widen (r : Nat) (bs : List Byte) : List Nat :=
  if r = 1 then lanesOf bs else (chunks (4 / r) 16 bs).map ofBytes
def narrow (r : Nat) (xs : List Nat) : List Byte := xs.flatMap fun x => toBytes (4 / r) x

/-! Slots. -/

namespace State

def setMillSlot (s : State) (k : Nat) (x : MillSlot) : State := s.setCtx fun c => { c with millSlots := Tbl.set c.millSlots k x }
def millPart (s : State) (ch slot : Nat) : MillPart := Tbl.get .zero s.ctx.mills (ch * 8 + slot)
def setMillPart (s : State) (ch slot : Nat) (x : MillPart) : State :=
  s.setCtx fun c => { c with mills := Tbl.set c.mills (ch * 8 + slot) x }

/-- Whether a request through a handle goes to a Mill slot (R104). -/
def milled (s : State) (h : Nat) (wr : Bool) : Bool := (s.entry (h % 4096)).milled wr

/-- A MILL_RUNTIME event is counted in its Mill (R116). -/
def millError (s : State) (ch slot detail : Nat) : State :=
  let p := s.millPart ch slot
  s.setMillPart ch slot { p with errs := min (p.errs + 1) (2 ^ 32 - 1), lastDetail := detail, lastErrAt := s.ctx.seq + 1 }
    |>.setCtx fun c => { c with seq := c.seq + 1 }

/-- The stored bytes behind beat k of a buffer whose request uses entry e: the backing's handle, offset and length, and the ratio (R105). -/
def backing (s : State) (e : Entry) (h k slot : Nat) : Nat × Nat × Nat × Nat :=
  let r := imgRatio (s.millSlot slot).image
  if e.kind = 3 then (e.data % 4096, 64 * k / r, 64 / r, r) else (h % 4096, 64 * k, 64, 1)

/-- Whether a store admitted to a write graph before an identifier has still to put a beat over the same stored bytes into its Mill (R107). -/
def beatBefore (s : State) (id bh off n : Nat) : Bool :=
  s.ctx.accs.any fun y => y.1 < id && y.2.kind == .store &&
    let e := s.entryOf y.2
    e.milled true && y.2.reqs.any fun q => q.lane == 0 &&
      let (b, o, m, _) := s.backing e y.2.handle (q.off / 64) e.millwr
      b == bh && o < off + n && off < o + m

/-- The place of the request in hand among those admitted: an access's own, and behind all of them otherwise. -/
def admitted (s : State) : Nat :=
  match s.eng with
  | some id => if (s.access? id).isSome then id else s.ctx.nextId
  | none => s.ctx.nextId

/-- The place of a beat's stored bytes, behind the beats admitted before it (R107) and at home (R154). An entry of a kind no graph binds to
gives HANDLE (DESIGN CHOICE, assumption 73). -/
def beatPlace (s : State) (e : Entry) (h k slot : Nat) : Port Piece :=
  let (bh, off, n, _) := s.backing e h k slot
  let b := if e.kind = 3 then s.entry bh else e
  if b.kind ≠ 1 then .fail (errAt cHANDLE h (64 * k))
  else if s.beatBefore s.admitted bh off n then .away .beat
  else ((s.place b bh off n).at' (bref h (64 * k))).bind fun p => (s.atHome [p]).map fun _ => p

/-- One beat of a stream or tap read: the output bytes (R105, R114). -/
def millReadBeat (s : State) (e : Entry) (h k slot : Nat) : State × Port (List Byte) :=
  let img := (s.millSlot slot).image
  let (_, _, n, r) := s.backing e h k slot
  andThen (s, s.beatPlace e h k slot) fun s p =>
      let ch := (chanOf p.loc).getD 0
      let (bs, bad) := s.dev.homeRead p.loc n
      let run := runGraph img (s.millPart ch slot) (widen r bs) [] 0 k
      let s := s.setMillPart ch slot run.part
      if bad then (s, .fail (errAt cPOISON h (64 * k)))
      else if run.failed then (s.millError ch slot 5, .fail { errAt cMILL h (64 * k) with info := 5 })
      else (s, .ok (if imgMode img = 3 then bs else (run.result img).flatMap (toBytes 4)))

/-- Beats of a read in ascending order through one beat function; the first failing beat fails it. -/
def beatsOf (f : Nat → State → State × Port (List Byte)) : List Nat → State → State × Port (List Byte)
  | [], s => (s, .ok [])
  | k :: ks, s => andThen (f k s) fun s bs => andThen (beatsOf f ks s) fun s cs => (s, .ok (bs ++ cs))

/-- A read through a slot's graph: every beat that holds a requested byte, and the requested bytes of what comes out (R105). A
failure names the first requested byte of the beat that failed. No beat has run where one of them must wait. -/
def throughBeats (s : State) (off n : Nat) (f : Nat → State → State × Port (List Byte)) : State × Port (List Byte) :=
  if n = 0 then (s, .ok [])
  else
    let first := off / 64
    let x := andThen (beatsOf f ((List.range ((off + n - 1) / 64 - first + 1)).map (first + ·)) s) fun s bs =>
      (s, .ok (slice bs (off - 64 * first) n))
    match x with
    | (t, .fail e) => (t, .fail { e with addr := e.addr - e.addr % 2 ^ 52 + max off (e.addr % 2 ^ 52) })
    | (t, .ok bs) => (t, .ok bs)
    | (_, y) => (s, y)

/-- A read through a stream or tap graph, after the checks of R84: the gate, then the beats. -/
def streamRead (s : State) (e : Entry) (h off n : Nat) : State × Port (List Byte) :=
  match s.gateOf e h off false with
  | .error x => (s, .fail x)
  | .ok slot => s.throughBeats off n fun k s => s.millReadBeat e h k slot

/-! Write streams. -/

/-- Bytes that a Mill has stored for lanes of a gang: they stand in their core's copy (R122), and the lanes have written them (R165). -/
def millSeen (s : State) (core gk : Nat) (ls : List Nat) (loc : Nat) (bs : List Byte) : State :=
  let s := (lineCuts 2 loc bs.length).foldl (fun s c => s.storeCopy core c.1 (slice bs (c.1 - loc) c.2)) s
  ls.foldl (fun s l => s.observed gk l [(loc, bs.length)]) s

/-- One beat of a stream or tap write, whole: performed at the home of the line it writes (R105, R106). The answer tells what was stored. -/
def millWriteBeatAt (s : State) (e : Entry) (h k slot : Nat) (bs : List Byte) : State × Port (StoreSet × Nat × List Byte) :=
  let img := (s.millSlot slot).image
  let (_, _, _, r) := s.backing e h k slot
  andThen (s, (s.beatPlace e h k slot).write) fun s p =>
      let ch := (chanOf p.loc).getD 0
      let run := runGraph img (s.millPart ch slot) (lanesOf bs) [] 0 k
      let s := s.setMillPart ch slot run.part
      if run.failed then (s.millError ch slot 5, .ok (⟨0, some { errAt cMILL h (64 * k) with info := 5 }, false, 0⟩, p.loc, []))
      else
        let out := if imgMode img = 3 then bs else narrow r (run.result img)
        let (s, w) := s.performWrite p.loc out
        (s, .ok ({ w with err := w.err.map fun e => { e with addr := bref h (64 * k) } }, p.loc, if w.err.isSome then [] else out))

/-- A beat left partly covered fails and is not written (R105). -/
def millPartial (s : State) (e : Entry) (h k slot : Nat) : State × Port StoreSet :=
  let gone := fun (ch : Nat) => (s.millError ch slot 2, (.ok ⟨0, some { errAt cMILL h (64 * k) with info := 2 }, false, 0⟩ : Port StoreSet))
  match s.beatPlace e h k slot with
  | .ok p => gone ((chanOf p.loc).getD 0)
  | .fail _ => gone 0
  | .miss p b => (s, .miss p b)
  | .away w => (s, .away w)

/-- Written bytes as beats: the index, the bytes, and whether the whole beat is covered. -/
def beatsWritten (off : Nat) (bs : List Byte) : List (Nat × List Byte × Bool) :=
  if bs.isEmpty then []
  else (List.range ((off + bs.length - 1) / 64 - off / 64 + 1)).map fun i =>
    let k := off / 64 + i
    let lo := max off (64 * k)
    let hi := min (off + bs.length) (64 * k + 64)
    (k, (bs.drop (lo - off)).take (hi - lo), hi - lo == 64)

/-- A write through a stream or tap graph by the rule of whole beats: what it did, and the sets of the beats together. -/
def streamWrite (s : State) (e : Entry) (h off : Nat) (bs : List Byte) : State × Port StoreSet :=
  match s.gateOf e h off true with
  | .error x => (s, .fail x)
  | .ok slot =>
    let rec go : List (Nat × List Byte × Bool) → State → StoreSet → State × Port StoreSet
      | [], s, w => (s, .ok w)
      | (k, b, whole) :: rest, s, w =>
        if whole then andThen (s.millWriteBeatAt e h k slot b) fun s y => go rest s (mergeStore w y.1)
        else andThen (s.millPartial e h k slot) fun s y => go rest s (mergeStore w y)
    go (beatsWritten off bs) s .none

end State

end Sys2Proof.Machine
end

