-- ==== Sys2Proof/Machine/Reach.lean ====
section
/-! DEFINITION. How engines reach memory: whole ranges checked by R84, read and written at their homes with no lease (R120), through
stream graphs (R105), and on other devices (R251, R252). -/

namespace Sys2Proof.Machine

open Sys2Proof

def needR : Need := ⟨rR, 1, false, false⟩
def needW : Need := ⟨rW, 1, false, false⟩

/-- The path of an engine's instruction (R172). -/
def pathOf (op10 : Nat) : Nat :=
  if op10 = 0x032 then pLSU
  else if op10 = 0x040 then pCARTER
  else if (0x041 ≤ op10 && op10 ≤ 0x043) || op10 = 0x054 then pGLEANER
  else if op10 = 0x044 then pMEDIA
  else if 0x045 ≤ op10 && op10 ≤ 0x047 then pMILL
  else if 0x050 ≤ op10 && op10 ≤ 0x05A then pLOOM
  else pFABRIC

/-- The state record of a circle (R266), also what a kind-6 entry reads. -/
def circleWord (c : Circle) (k : Nat) : Nat :=
  match k with
  | 0 => (match c.state with | .free => 0 | .active => 1 | .broken => 2) + 4 * boolNat c.crier + c.index % 1024 * 2 ^ 8 +
      c.last % 1024 * 2 ^ 18 + c.incarn % 2 ^ 16 * 2 ^ 32 + c.gapus % 2 ^ 16 * 2 ^ 48
  | 1 => c.applied % 2 ^ 48
  | 2 => c.issued % 2 ^ 48
  | 3 => c.brokenAt % 2 ^ 48 + boolNat c.bvalid * 2 ^ 48
  | 4 => min c.applyErr (2 ^ 32 - 1)
  | 5 => c.window.length % 512
  | _ => 0
def circleBytes (c : Circle) : List Byte := (List.range 8).flatMap fun k => toBytes 8 (circleWord c k)

/-- The keys under which answers are kept: for a gang's issuing instruction, for the code it fetches, for a trigger entry's read of its launch record,
and for a request of another device. -/
def gangAsk (gang : Nat) : Nat := 2 ^ 64 + gang
def fetchAsk (gang : Nat) : Nat := 2 ^ 65 + gang
def triggerAsk (k : Nat) : Nat := 2 ^ 66 + k
def portAsk (dev buf off : Nat) : Nat := 2 ^ 90 + dev * 2 ^ 64 + bref buf off

/-- The most bytes that a job's engine reads in one access: an element's (R141, R188), a word's (R255), or those of a sector. What a decoder reads
stands when it reads it. (DESIGN CHOICE, assumption 91) -/
def Job.unit : Job → Nat
  | .carter d .. => 2 ^ bits (d.getD 0 0).toNat 2 3
  | .gath _ _ _ _ _ wd .. | .scat _ _ _ _ _ wd .. => wd.bytes
  | .sinter .. | .xfer .. | .circle .. => 4
  | .mdec .. => 0
  | _ => 64

namespace State

def circle (s : State) (c : Nat) : Circle := Tbl.get .free s.ctx.circles c
def setCircle (s : State) (c : Nat) (x : Circle) : State := s.setCtx fun d => { d with circles := Tbl.set d.circles c x }

/-- A message leaves for another device (R251): 64-bit words, then bytes. (DESIGN CHOICE, assumption 14) -/
def sendRemote (s : State) (dev : Nat) (msg : List Nat) (bytes : List Byte) : State :=
  s.setDev fun d => { d with outbox := d.outbox ++ [(dev, msg.flatMap (toBytes 8) ++ bytes)] }

/-- The number by which the owner's answer names a request: of an access's lane, or `engineLane` for a read an engine made. -/
def engineLane : Nat := 2 ^ 32 - 1
def remoteId (id lane : Nat) : Nat := id * 2 ^ 32 + lane

/-- Whether some fabric port works (R252). -/
def fabricUp (s : State) : Bool := s.dev.ports != 0

/-- What the access or engine in hand has of another device: its answer, once that is here, to what was asked. -/
def remoteAnswer (s : State) (e : Entry) (h off n : Nat) (ask : Away) : Port Reply :=
  let dev := e.data % 2 ^ 16
  let buf := bits e.data 16 12
  match (s.eng.bind fun id => (Tbl.get [] s.ctx.replies id).find? fun r => r.dev == dev && r.buf == buf && r.off == off && r.n == n) with
  | some r =>
    if !r.done then .away ask
    else if r.cause ≠ 0 then .fail ⟨r.cause, bref h r.bad, if r.cause = cTIMEOUT then 0 else iREMOTE ||| r.info % 16⟩
    else .ok r
  | none => if s.fabricUp then .away ask else .fail (errAt cTIMEOUT h off)

/-- A read of another device's buffer by the access or engine in hand: answered once the owner's reply is here. -/
def remoteRead (s : State) (e : Entry) (h off n : Nat) : Port (List Byte) :=
  (s.remoteAnswer e h off n (.remote (e.data % 2 ^ 16) (bits e.data 16 12) off n)).map (·.bytes)

/-- A reservation's answer is told from a read's, and from those of other counts, by what stands for its length. -/
def reserveLength (count : Nat) : Nat := 2 ^ 32 + count

/-- A reservation of `count` entries of `limit` on a fill counter of another device: the one atomic of R40, made at the owner (R152). The
counter's old value and the atomic's WCT are taken once. -/
def remoteReserve (s : State) (e : Entry) (h off count limit : Nat) : State × Port (Nat × Nat) :=
  match s.remoteAnswer e h off (reserveLength count) (.reserve (e.data % 2 ^ 16) (bits e.data 16 12) off count limit) with
  | .ok r =>
    let rest := s.ctx.replies.map fun y => (y.1, if s.eng == some y.1 then y.2.filter (· != r) else y.2)
    (s.setCtx fun c => { c with replies := rest }, .ok (ofBytes r.bytes, r.wct + 38))
  | .fail e => (s, .fail e)
  | .miss p b => (s, .miss p b)
  | .away w => (s, .away w)

/-- The cluster of an access, a job or an issuing instruction; none for what has no core. -/
def clusterOf (s : State) (id : Nat) : Nat :=
  if 2 ^ 66 ≤ id then 0xFF else if 2 ^ 64 ≤ id then id % 2 ^ 64 / 512
  else ((s.work? id).map (·.core)).getD (((s.access? id).map (·.core)).getD 0xFF) / 8

/-- What a request waits for is asked for: a read put to another device waits in the replies of its access or engine job, and a line in
custody of the requester's own cluster returns (R154). (DESIGN CHOICE, assumptions 18 and 50) -/
def askRemote (s : State) (id : Nat) (w : Away) : State :=
  let rs := Tbl.get [] s.ctx.replies id
  let ask := fun (dev buf off n : Nat) (msg : List Nat) =>
    if rs.any fun r => !r.done then s
    else (s.setCtx fun c => { c with replies := Tbl.set c.replies id (rs ++ [⟨dev, buf, off, n, s.now, false, [], 0, 0, 0, off⟩]) }).sendRemote dev msg []
  match w with
  | .custody loc => s.askReturn (s.clusterOf id) loc
  | .beat => s
  | .remote dev buf off n => ask dev buf off n [1, remoteId id engineLane, buf, off, n]
  | .line dev buf off n => ask dev buf off n [1, remoteId id engineLane, buf, off, n, boolNat (!s.dev.time.free)]
  | .reserve dev buf off count limit => ask dev buf off (reserveLength count) [18, remoteId id engineLane, buf, off, count, limit]

/-- The gangs' instructions that hold their lanes for another device, or for a line in custody, are made again. -/
def releaseRemote (s : State) : State :=
  s.ctx.holds.foldl (fun s h =>
    if h.2.kind == .remote then
      (s.dropHold h.1).modGang h.2.gang fun g => g.modLanes (List.range 64) fun _ l => if l.hold = some h.1 then { l with hold := none } else l
    else s) s

/-- Whether an access or engine job waits for an answer from another device. -/
def awaits (s : State) (id : Nat) : Bool := (Tbl.get [] s.ctx.replies id).any fun r => !r.done

/-- Which access stands for a write of the engine in hand that is performed later. -/
def queuedWrite (s : State) (h : Nat) (reqs : List Req) (sent : Option Nat) : Access :=
  let w := s.eng.bind s.work?
  let x := s.eng.bind s.access?
  let nobody := 2 ^ 40
  { kind := .store, path := (w.map fun w => pathOf w.op10).getD pLSU, gang := (w.map (·.gang)).getD ((x.map (·.gang)).getD nobody),
    core := (w.map (·.core)).getD ((x.map (·.core)).getD 0xFF), team := (w.map (·.team)).getD ((x.map (·.team)).getD nobody),
    grid := (w.map (·.grid)).getD ((x.map (·.grid)).getD nobody), gridId := (w.map (·.gridId)).getD ((x.map (·.gridId)).getD anyGrid),
    handle := h, wd := .b, pol := .none, aop := .add, scope := .gang, reg := 0, pc := 0, la := 0, reqs := reqs, faults := [],
    stall := [], sent := sent, work := (w.bind fun _ => s.eng), notBefore := 0, ent := s.entryRaw (h % 4096),
    orphan := (w.map (·.orphan)).getD ((x.map (·.orphan)).getD true), erred := false, wrote := [], reply := none,
    gate := [], since := s.now, after := [], out := [] }

/-- A write to another device's buffer: it goes out, and its WCT comes with the answer (R167). -/
def remoteWrite (s : State) (e : Entry) (h off : Nat) (bs : List Byte) : State × StoreSet :=
  if !s.fabricUp then (s, ⟨0, some (errAt cTIMEOUT h off), false, 0⟩)
  else
    let id := s.ctx.nextId
    let s := s.addAccess { s.queuedWrite h [⟨0, off, bs.length, 0⟩] (some s.now) with out := [0] }
    (s.sendRemote (e.data % 2 ^ 16) [2, remoteId id 0, bits e.data 16 12, off, bs.length] bs, .none)

/-- The pieces of a range that has passed R84, none of them in custody. -/
def rangePieces (s : State) (e : Entry) (h off n : Nat) : Port (List Piece) :=
  ((s.placeAll e h (cutParts e (n / 256 + 2) off n)).bind (s.roomFor s.portCore)).bind s.atHome

/-- Bytes that stand at a place, as the engine in hand reads them: each of its accesses was served at some instant since the job in hand may first
have made it (R13, R255). -/
def engAged (s : State) (past : List Past) (loc : Nat) (bs : List Byte) : List Byte :=
  match s.eng.bind s.work? with
  | none => bs
  | some w =>
    let ps := past.filter fun p => decide (w.born < p.at') && decide (p.loc < loc + bs.length) && decide (loc < p.loc + p.bytes.length)
    if ps.isEmpty || w.job.unit = 0 then bs
    else
      let u := if loc % w.job.unit = 0 then w.job.unit else min w.job.unit 4
      bs.zipIdx.map fun (b, k) => (ps.take (s.pickFor 26 ((loc + k) / u) (ps.length + 1))).foldl (fun b p =>
        if p.loc ≤ loc + k then p.bytes.getD (loc + k - p.loc) b else b) b

/-- Bytes of placed pieces at their homes, and the offset of the first poisoned one; an atomic's as they stand (`sure`). A port that is down gives FAR_MEMORY (R91, R97). -/
def readPieces (s : State) (h : Nat) (ps : List Piece) (off : Nat) (sure : Bool) : Except Err (List Byte × Option Nat) :=
  match ps with
  | [] => .ok ([], none)
  | p :: ps =>
    if !s.dev.portUp p.loc then .error (farErr h off p.loc)
    else
      let bad := if p.n = 0 then none else (s.dev.poisonAt p.loc p.n).map fun l => off + (l - p.loc)
      let here := s.dev.mem.readBytes p.loc p.n
      (s.readPieces h ps (off + p.n) sure).map fun x => ((if sure then here else s.engAged s.dev.past p.loc here) ++ x.1, bad.or x.2)

/-- Whether a view's backing is plain. -/
def plainView (s : State) (e : Entry) : Bool := (s.entry (e.data % 4096)).kind == 1

/-- A read of a range by a reader that reports poison itself: from the homes, through a stream graph, or from another device. -/
def rawReadP (s : State) (gridId h off n : Nat) (q : Need) : State × Port (List Byte × Option Nat) :=
  match s.check gridId h off n q with
  | .error c => (s, .fail (errAt c h off))
  | .ok e =>
    if e.kind = 2 || (e.kind = 3 && !s.plainView e) then (s, .fail (errAt cHANDLE h off))
    else if e.milled false then andThen (s, if e.kind = 1 then s.rangePieces e h off n else .ok []) fun s _ =>
      andThen (s.streamRead e h off n) fun s bs => (s.keepLeaves e off n, .ok (bs, none))
    else if e.kind = 6 then (s, .ok (slice (circleBytes (s.circle (e.data % 64))) off n, none))
    else if e.kind = 5 then (s, (s.remoteRead e h off n).map (·, none))
    else andThen (s, s.rangePieces e h off n) fun s ps => match s.readPieces h ps off q.atomic with
      | .ok x => (s.keepLeaves e off n, .ok x)
      | .error x => (s, .fail x)

/-- POISON names the first poisoned byte (R184, R256). -/
def rawRead (s : State) (gridId h off n : Nat) (q : Need) : State × Port (List Byte) :=
  andThen (s.rawReadP gridId h off n q) fun s x => (s, match x.2 with
    | some o => .fail (errAt cPOISON h o)
    | none => .ok x.1)

/-- A write of a range: at the homes, through a stream graph, or to another device. The answer holds the largest WCT and the first error
that a response carried. -/
def rawWrite (s : State) (gridId h off : Nat) (bs : List Byte) (q : Need) : State × Port StoreSet :=
  if bs.isEmpty then (s, .ok .none)
  else match s.check gridId h off bs.length q with
  | .error c => (s, .fail (errAt c h off))
  | .ok e =>
    if e.kind = 2 || e.kind = 6 || (e.kind = 3 && !s.plainView e) then (s, .fail (errAt cHANDLE h off))
    else if e.milled true then andThen (s, if e.kind = 1 then (s.rangePieces e h off bs.length).write else .ok []) fun s _ =>
      andThen (s.streamWrite e h off bs) fun s w => (s.keepLeaves e off bs.length, .ok w)
    else if e.kind = 5 then
      let (s, w) := s.remoteWrite e h off bs
      (s, .ok w)
    else andThen (s, (s.rangePieces e h off bs.length).write) fun s ps =>
      let (s, w) := s.writePieces none 0 h off ps bs
      (s.keepLeaves e off bs.length, .ok w)

/-- The scope class a buffer's writes belong to (R176): kinds 4, 5 and 7 are the system class. -/
def sysClass (s : State) (h : Nat) : Bool := (s.entry (h % 4096)).system

/-- The scope class of an access, by the entry it was checked against (R82, R176). -/
def accClass (s : State) (x : Access) : Bool := (s.entryOf x).system

end State

end Sys2Proof.Machine
end

