-- ==== Sys2Proof/Machine/Stash.lean ====
section
/-! DEFINITION. The stash (R126 to R130): scratch and mapped bytes, fetches under leases, dirty masks and write-backs. -/

namespace Sys2Proof.Machine

open Sys2Proof

/-- A stash fault: the offset in TADDR[31:0], all ones above (R146). -/
def stashErr (cause so : Nat) : Err := ⟨cause, so % 2 ^ 32 + 0xFFFFFFFF * 2 ^ 32, 0⟩

def Team.regionAt (t : Team) (so : Nat) : Option Region := t.maps.find? fun r => r.so ≤ so && so < r.so + r.n

def Team.sector (t : Team) (i : Nat) : Sector := Tbl.get .clean t.sectors i

/-- Sectors that a range of the stash touches. -/
def sectorsOf (so n : Nat) : List Nat := if n = 0 then [] else (List.range ((so + n - 1) / 64 - so / 64 + 1)).map (so / 64 + ·)

/-- The dirty-mask bits of a range within a sector. -/
def sectorMask (i so n : Nat) : BitVec 64 :=
  laneSet ((List.range 64).filter fun b => so ≤ 64 * i + b && 64 * i + b < so + n)

/-- Accesses that write the stash, and all that touch it. -/
def AccKind.dirties : AccKind → Bool
  | .sts | .atoms => true
  | _ => false
def AccKind.stash : AccKind → Bool
  | .lds | .sts | .atoms => true
  | _ => false

namespace State

def stashBytes (s : State) (team so n : Nat) : List Byte :=
  (s.core (teamCore team)).pool.readBytes ((s.team team).stashRun + so) n

/-- The place of a stash byte among those of all cores. -/
def poolLoc (s : State) (team so : Nat) : Nat := teamCore team * 2 ^ 32 + (s.team team).stashRun + so

/-- Bytes placed in the pool, no dirty bit touched; those they replace are kept for what an engine may have read before (R13). -/
def stashPlace (s : State) (team so : Nat) (bs : List Byte) : State :=
  (s.setCtx fun c => { c with poolPast := ⟨s.ticks, s.poolLoc team so, s.stashBytes team so bs.length⟩ :: c.poolPast }).modCore (teamCore team) fun c => { c with pool := c.pool.writeBytes ((s.team team).stashRun + so) bs }

def setSector (s : State) (team i : Nat) (x : Sector) : State :=
  s.modTeam team fun t => { t with sectors := Tbl.set t.sectors i x }

/-- Stash bytes about to be written: an engine's write keeps the old ones for the gang that issued its instruction (R173). -/
def stashKept (s : State) (team so n : Nat) : State :=
  let t := s.stashSettled team so n
  match s.eng, s.eng.bind s.work? with
  | some id, some w => t.setCtx fun c => { c with
      stashOld := ⟨w.gang, pathOf w.op10, team, so, s.stashBytes team so n, id, false, 0, none⟩ :: c.stashOld }
  | _, _ => t

/-- A write of stash bytes by any path: dirty bits set in mapped sectors, and the mark cleared once all 64 bytes are written (R127). -/
def stashWrite (s : State) (team so : Nat) (bs : List Byte) : State :=
  let t := s.team team
  let n := bs.length
  let s := (s.stashKept team so n).stashPlace team so bs
  (sectorsOf so n).foldl (fun s i =>
    match t.regionAt (64 * i) with
    | none => s
    | some _ =>
      let x := (s.team team).sector i
      let m := x.dirty ||| sectorMask i so n
      s.setSector team i { x with dirty := m, poison := x.poison && m != BitVec.allOnes 64 }) s

/-- A write a region forbids: the first offset of the range in a region mapped .ro (R132). -/
def stashReadOnly (s : State) (team so n : Nat) : Option Nat :=
  ((List.range n).map (so + ·)).find? fun o => match (s.team team).regionAt o with
    | some r => r.mode == .ro
    | none => false

/-- Stash lines that a read of a range must fetch first (R127). -/
def stashFetches (s : State) (team so n : Nat) : List Nat :=
  let t := s.team team
  ((sectorsOf so n).filter fun i =>
    match t.regionAt (64 * i) with
    | none => false
    | some r => r.mode != .wo && (sectorMask i so n &&& ~~~ (t.sector i).dirty) != 0 &&
      (match (t.sector i).expiry with
       | some e => decide (e ≤ s.now)
       | none => true)).map (· / 2) |>.dedup

/-- Fetched bytes take the place of the clean bytes of a line's two sectors (R127). -/
def stashFill (s : State) (team line : Nat) (bs : List Byte) (expiry : Option Nat) (bad : Nat → Bool) : State :=
  [0, 1].foldl (fun s k =>
    let i := 2 * line + k
    let x := (s.team team).sector i
    let old := s.stashBytes team (64 * i) 64
    let mixed := ((old.zip (bs.drop (64 * k))).zipIdx).map fun (ob, j) => if x.dirty.getLsbD j then ob.1 else ob.2
    (s.stashPlace team (64 * i) mixed).setSector team i { x with expiry := expiry, poison := bad k }) s

/-- What a fetch of a line by a gang returns: the bytes as they stand, or as they stood at an instant after what a FENCE of the gang orders and
after every fetch of the line that the team has made (R13, R165, R355). A gang's fetches are one stream. -/
def fetchAged (s : State) (gk loc : Nat) (bs : List Byte) : State × List Byte :=
  ((s.team (s.gang gk).team).gangSlots.foldl (fun s k => s.observed (gk / 64 * 64 + k) 64 [(loc, bs.length)]) s, s.aged gk 64 0 loc bs)

/-- One line fetched from the home (R127): under a lease unless the page's attribute forbids it or a Mill graph makes the bytes (R106). Bytes
from an earlier instant are kept under no lease. -/
def stashFetch (s : State) (gridId slot team line : Nat) : State × Port Unit :=
  match (s.team team).regionAt (128 * line) with
  | none => (s, .ok ())
  | some r =>
    let core := teamCore team
    let off := r.off + (128 * line - r.so)
    match s.check gridId r.handle off 128 ⟨rR, 1, false, false⟩ with
    | .error c => (s, .fail (errAt c r.handle off))
    | .ok e =>
      if e.kind = 3 || e.kind = 5 || e.kind = 6 then (s, .fail (errAt cHANDLE r.handle off)) else
      let late := [0, 1].any fun k => match ((s.team team).sector (2 * line + k)).expiry with
        | some e => decide (e ≤ s.now)
        | none => false
      let counted := fun (s : State) => ((s.perfEvent core slot 0x12 2).perfEvent core slot 0x15 (boolNat late)).keepLeaves e off 128
      andThen (s, (((s.place e r.handle off 128).map ([·])).bind (s.roomFor (some core))).bind s.atHome) fun s ps =>
        if e.milled false then
          andThen (s.streamRead e r.handle off 128) fun s bs => (counted (s.stashFill team line bs none fun _ => false), .ok ())
        else match ps with
        | [] => (s, .ok ())
        | p :: _ =>
          if !s.dev.portUp p.loc then (s, .fail (farErr r.handle off p.loc))
          else
            let new := (s.dev.homeRead p.loc 128).1
            let (s, bs) := s.fetchAged (gangKey core slot) p.loc new
            let g := s.dev.grant (s.pickFor 3 (p.loc / 128) 16) (p.loc / 128) false
            let lease := p.attr = 0 && bs = new
            let s : State := if lease then { s with dev := g.1 } else s
            (counted (s.stashFill team line bs (if lease then some g.2 else if p.attr = 0 then some s.now else none)
              fun k => s.dev.isPoisoned (p.loc + 64 * k) 64), .ok ())

/-- The fetches of a read from an offset on; a fault names the first byte read of its line. -/
def stashFetchAll (gridId slot team so : Nat) : List Nat → State → State × Port Unit
  | [], s => (s, .ok ())
  | l :: ls, s => andThen (let x := s.stashFetch gridId slot team l; (x.1, x.2.at' (stashErr 0 (max so (128 * l))).addr)) fun s _ =>
      stashFetchAll gridId slot team so ls s

/-- A read of stash bytes: the fetches it needs, then the bytes, and the first clean byte of a poisoned sector among them. (DEDUCED, assumption 29) -/
def stashRead (s : State) (gridId slot team so n : Nat) : State × Port (List Byte × Option Nat) :=
  andThen (stashFetchAll gridId slot team so (s.stashFetches team so n) s) fun s _ =>
    let bad := (sectorsOf so n).findSome? fun i =>
      let x := (s.team team).sector i
      if x.poison then (List.range 64).find? (sectorMask i so n &&& ~~~ x.dirty).getLsbD |>.map (64 * i + ·) else none
    (s, .ok (s.stashBytes team so n, bad))

/-- Runs of set bits of a dirty mask, as (first, length). -/
def dirtyRuns (m : BitVec 64) : List (Nat × Nat) :=
  ((List.range 64).foldr (fun b (acc : List (Nat × Nat)) =>
    if m.getLsbD b then
      match acc with
      | (f, n) :: rest => if f = b + 1 then (b, n + 1) :: rest else (b, 1) :: acc
      | [] => [(b, 1)]
    else acc) [])

/-- Stash accesses of a team, of some kinds, that were issued before an identifier, touch a range and are still in flight (R169). -/
def stashPending (s : State) (before team so n : Nat) (p : AccKind → Bool) : Bool :=
  s.ctx.accs.any fun y => y.1 < before && y.2.team == team && p y.2.kind && y.2.reqs.any fun q => q.off < so + n && so < q.off + y.2.wd.bytes

/-- Dirty sectors of the mapped regions that a test picks out. -/
def dirtySectors (s : State) (team : Nat) (p : Nat → Bool) : List Nat :=
  ((s.team team).sectors.filter fun x => x.2.dirty != 0 && p (64 * x.1) && ((s.team team).regionAt (64 * x.1)).isSome).map Prod.fst

/-- Sectors of the mapped regions that earlier stores and atomics in flight will dirty. -/
def comingSectors (s : State) (before team : Nat) : List Nat :=
  (s.ctx.accs.flatMap fun y =>
    if y.1 < before && y.2.team == team && y.2.kind.dirties then
      y.2.reqs.flatMap fun q => if q.off < 2 ^ 32 then sectorsOf q.off y.2.wd.bytes else []
    else []).filter fun i => ((s.team team).regionAt (64 * i)).isSome

/-- The sectors a release or a team's last exit sends home: those that are dirty or that earlier stores will make so (R128). -/
def releaseSectors (s : State) (team : Nat) : List Nat :=
  (s.dirtySectors team (fun _ => true) ++ s.comingSectors s.ctx.nextId team).dedup

/-- Write-back of one sector (R127, R128): each dirty byte written at the home with the value it holds; a failure leaves the bytes
dirty (R129) and names the first dirty byte (R176). A write graph on the window takes the sector as one beat (R105). The answer holds the
writes' WCT and error. -/
def writeBack (s : State) (gridId slot team i : Nat) : State × Port StoreSet :=
  let x := (s.team team).sector i
  match (s.team team).regionAt (64 * i) with
  | none => (s, .ok .none)
  | some r =>
    if x.dirty = 0 then (s, .ok .none)
    else
      let off := r.off + (64 * i - r.so)
      let first := off + ((dirtyRuns x.dirty).head?.map Prod.fst).getD 0
      let old := s.stashBytes team (64 * i) 64
      let core := teamCore team
      let clean := fun (s : State) (w : StoreSet) => match w.err with
        | some y => (s, (.ok { w with err := some { y with addr := bref r.handle first } } : Port StoreSet))
        | none => ((s.setSector team i { x with dirty := 0 }).perfEvent core slot 0x13 1, .ok w)
      match s.check gridId r.handle off 64 ⟨rW, 1, false, false⟩ with
      | .error c => (s, .fail (errAt c r.handle first))
      | .ok e =>
        if e.kind = 3 || e.kind = 5 || e.kind = 6 then (s, .fail (errAt cHANDLE r.handle first)) else
        andThen (s, (((((s.place e r.handle off 64).at' (bref r.handle first)).map ([·])).bind (s.roomFor (some core))).bind s.atHome).write) fun s ps =>
        let s := s.keepLeaves e off 64
        if e.milled true then
          andThen (dirtyRuns x.dirty |>.foldl (fun (sw : State × Port StoreSet) fn =>
            andThen sw fun s w => andThen (s.streamWrite e r.handle (off + fn.1) ((old.drop fn.1).take fn.2)) fun s y =>
              (s, .ok (mergeStore w y))) (s, .ok .none)) clean
        else match ps with
        | [] => clean s .none
        | p :: _ =>
          if !s.dev.portUp p.loc then (s, .fail (farErr r.handle first p.loc))
          else
            let (s, w) : State × StoreSet := (dirtyRuns x.dirty).foldl (fun (sw : State × StoreSet) fn =>
              let (s, y) := sw.1.performWrite (p.loc + fn.1) ((old.drop fn.1).take fn.2)
              let s := (lineCuts 2 (p.loc + fn.1) fn.2).foldl (fun s (l, m) =>
                s.storeCopy core l ((old.drop (l - p.loc)).take m)) s
              (s, mergeStore sw.2 y)) (s, .none)
            clean s w

end State

end Sys2Proof.Machine
end

