-- ==== Sys2Proof/Machine/Control.lean ====
section
/-! DEFINITION. Branches and calls (R274 to R277), mask registers (R278 to R280), deadlock (R281), REFILL (R284), EXIT, YIELD and
NAP (R285 to R287), and the traps TRAP, BKPT and ERET (R317, R318). -/

namespace Sys2Proof.Machine

open Sys2Proof

/-- Faulting lanes of a lane instruction: the others have completed; the trap has the lowest one's cause and address (R143). -/
def At.laneFaults (_ : At) (t : State) (faults : List (Nat × Err)) : Res :=
  match faults with
  | [] => .done t
  | (_, e) :: _ => .trap t (laneSet (faults.map Prod.fst)) e.cause e.addr e.info

/-- The executing lanes go to their targets, the others of the issuing set to the next offset. -/
def At.jump (a : At) (s : State) (target : Nat → Nat) : State :=
  s.modGang a.gang fun g => g.modLanes (laneList a.set) fun i l =>
    if a.exec.contains i then l.goto a.next (target i) else l.advance a.next

/-- R274: (PC + SignExt(IMM32)) mod 2^32. -/
def At.target (a : At) (disp : Word) : Nat := wrap 32 ((a.pc : Int) + disp.toInt)

/-- The most entries a call stack holds: eight in the lane and E in the save area (R277). -/
def State.stackDepth (s : State) (gang : Nat) : Nat :=
  let r := s.recordOf gang
  8 + (Rec.fsave r - 4096) / (4 * (64 * Rec.ngangs r))

/-- Push of a return offset; entry d from 8 on lies in the save area at byte 4096 + 4 (L E + d - 8) (R277). -/
def State.push (s : State) (gang lane ret : Nat) : State :=
  let g := s.gang gang
  let d := (g.lane lane).stack.length
  let e := s.stackDepth gang - 8
  let s := s.modGang gang fun g => g.modLane lane fun l => { l with stack := ret :: l.stack }
  if d < 8 then s
  else s.modCore (gang / 64) fun c =>
    { c with pool := c.pool.writeBytes ((s.team g.team).saveRun + 4096 + 4 * ((g.gangIdx * 64 + lane) * e + d - 8)) (toBytes 4 ret) }

def State.stackFull (s : State) (gang lane : Nat) : Bool := s.stackDepth gang ≤ ((s.gang gang).lane lane).stack.length

def stackErr : Err := ⟨cBOUNDS, 0, iCSTACK⟩

def execBr (g : LGuard) (disp : Word) (s : State) : Host.Outcome State Fault Refusal :=
  issue (.br g disp) (fun a s => .done (a.jump s fun _ => a.target disp)) s

def execBrx (g : LGuard) (va : VReg) (s : State) : Host.Outcome State Fault Refusal :=
  issue (.brx g va)
    (fun a s =>
      let t := fun i => (((s.gang a.gang).lane i).reg va).toNat
      a.laneFaults (a.jump s t) ((a.exec.filter fun i => t i % 4 != 0).map fun i =>
        (i, errAt cMISALIGNED (Rec.codeBuf (s.recordOf a.gang)) (t i)))) s

def execCall (g : LGuard) (disp : Word) (s : State) : Host.Outcome State Fault Refusal :=
  issue (.call g disp)
    (fun a s =>
      let full := a.exec.filter fun i => s.stackFull a.gang i
      let s := (a.exec.filter fun i => !s.stackFull a.gang i).foldl (fun s i => s.push a.gang i a.next) s
      a.laneFaults (a.jump s fun _ => a.target disp) (full.map fun i => (i, stackErr))) s

def execBra (u : UGuard) (disp : Word) (s : State) : Host.Outcome State Fault Refusal :=
  issue (.bra u disp) (fun a s => .done (a.jump s fun _ => a.target disp)) s

/-- BRC decrements once per issue, and branches while the count is not 0 (R276). -/
def execBrc (u : UGuard) (d : SReg) (disp : Word) (s : State) : Host.Outcome State Fault Refusal :=
  issue (.brc u d disp)
    (fun a s =>
      let c := (s.gang a.gang).sreg d - 1
      let s := s.modGang a.gang fun g => g.setS d c
      .done (if c = 0 then a.step s else a.jump s fun _ => a.target disp)) s

def execCallu (u : UGuard) (disp : Word) (s : State) : Host.Outcome State Fault Refusal :=
  issue (.callu u disp)
    (fun a s =>
      if a.exec.any fun i => s.stackFull a.gang i then .trap s a.set cBOUNDS 0 iCSTACK
      else .done (a.jump (a.exec.foldl (fun s i => s.push a.gang i a.next) s) fun _ => a.target disp)) s

def execJmpu (u : UGuard) (sa : SReg) (s : State) : Host.Outcome State Fault Refusal :=
  issue (.jmpu u sa)
    (fun a s =>
      let t := ((s.gang a.gang).sreg sa).toNat
      if t % 4 ≠ 0 then .trap s a.set cMISALIGNED (bref (Rec.codeBuf (s.recordOf a.gang)) t) 0
      else .done (a.jump s fun _ => t)) s

def execRet (z : ZReg) (s : State) : Host.Outcome State Fault Refusal :=
  issue (.ret z)
    (fun a s =>
      let g := s.gang a.gang
      if a.exec.any fun i => (g.lane i).stack.isEmpty then .trap s a.set cBOUNDS 0 iCSTACK
      else .done (((a.jump s fun i => (g.lane i).stack.headD 0)).modGang a.gang fun g =>
        g.modLanes a.exec fun _ l => { l with stack := l.stack.tail })) s

/-! Masks. -/

/-- Lanes blocked at the WAITM at offset o on mask m. -/
def Gang.waitingAt (g : Gang) (m o : Nat) : Lanes :=
  g.lanesWhere fun _ l => l.cond == .blocked && l.pc == o && (match l.wait with
    | .waitm k _ => k == m
    | _ => false)

/-- The lowest offset whose WAITM on m releases, with its CLR (R280). -/
def Gang.releasable (g : Gang) (m : Nat) : Option (Nat × Bool) :=
  ((List.range 64).filterMap fun i =>
    let l := g.lane i
    match l.cond, l.wait with
    | .blocked, .waitm k clr => if k = m && g.mask m &&& ~~~ g.waitingAt m l.pc == 0 then some (l.pc, clr) else none
    | _, _ => none).head?

/-- Every WAITM on a mask evaluated again after a change of it, until none releases (R279, R280). -/
def Gang.settleMask (m : Nat) : Nat → Gang → Gang
  | 0, g => g
  | fuel + 1, g =>
    match g.releasable m with
    | none => g
    | some (o, clr) =>
      let g' := g.modLanes (laneList (g.waitingAt m o)) fun _ l => l.advance ((o + 4) % 2 ^ 32)
      (if clr then g'.setMask m 0 else g').settleMask m fuel

def Gang.settleMasks (g : Gang) (ms : List Nat) : Gang := ms.foldl (fun g m => g.settleMask m 65) g

def execJoin (z : ZReg) (m : MReg) (s : State) : Host.Outcome State Fault Refusal :=
  issue (.join z m) (fun a => gangOp (fun g => (g.setMask m (g.mask m ||| a.set)).settleMasks [m]) a) s

def execLeave (z : ZReg) (m : MReg) (s : State) : Host.Outcome State Fault Refusal :=
  issue (.leave z m) (fun a => gangOp (fun g => (g.setMask m (g.mask m &&& ~~~ a.set)).settleMasks [m]) a) s

/-- WAITM blocks its lanes; the release may follow at once (R279, R280). -/
def execWaitm (z : ZReg) (m : MReg) (clr : Bool) (s : State) : Host.Outcome State Fault Refusal :=
  issue (.waitm z m clr)
    (fun a s =>
      let out := a.set &&& ~~~ (s.gang a.gang).mask m
      if out != 0 then .trap s out cMASK 0 0
      else .hold ((a.block (.waitm m clr) s).modGang a.gang fun g => g.settleMasks [m])) s

def execBreak (u : UGuard) (set : BitVec 12) (disp : Word) (s : State) : Host.Outcome State Fault Refusal :=
  issue (.break u set disp)
    (fun a s =>
      let ms := (List.range 12).filter fun k => set.getLsbD k
      let s := a.jump s fun _ => a.target disp
      .done (s.modGang a.gang fun g => (ms.foldl (fun g m => g.setMask m (g.mask m &&& ~~~ a.set)) g).settleMasks ms)) s

def execMget (u : UGuard) (d : SReg) (m : MReg) (s : State) : Host.Outcome State Fault Refusal :=
  issue (.mget u d m) (gangOp fun g => g.setSpair d (g.mask m).toNat) s

def execMset (u : UGuard) (sa : SReg) (m : MReg) (s : State) : Host.Outcome State Fault Refusal :=
  issue (.mset u sa m)
    (fun a s =>
      let g := s.gang a.gang
      let waits := g.lanesWhere fun _ l => l.cond == .blocked && (match l.wait with
        | .waitm k _ => k == m.val
        | _ => false)
      if waits != 0 then .trap s a.set cMASK 0 0
      else gangOp (fun g => g.setMask m (BitVec.ofNat 64 (g.spair sa) &&& g.nonExited)) a s) s

/-! Deadlock (R281). -/

/-- The lanes a blocked lane waits for, or none where it does not wait for others. -/
def Gang.waitsFor (g : Gang) (i : Nat) : Option Lanes :=
  let l := g.lane i
  match l.cond, l.wait with
  | .blocked, .waitm m _ => some (g.mask m &&& ~~~ g.waitingAt m l.pc)
  | .blocked, .reconv => some (g.nonExited &&& ~~~ g.lanesWhere fun _ x => x.cond == .blocked && x.wait == .reconv && x.pc == l.pc)
  | _, _ => none

/-- The largest set of lanes each of which waits, and only for lanes of the set. -/
def Gang.deadlocked (g : Gang) : Nat → Lanes → Lanes
  | 0, m => m
  | fuel + 1, m =>
    g.deadlocked fuel (laneSet ((laneList m).filter fun i => match g.waitsFor i with
      | some w => w != 0 && w &&& ~~~ m == 0
      | none => false))

def Gang.deadlockSet (g : Gang) : Lanes :=
  if g.stopped then 0 else g.deadlocked 65 (if g.hmode then g.hset else BitVec.allOnes 64)

/-- The one trap of a detected set: at the lowest lane's barrier, else at the lowest lane's WAITM; TRESUME is the offset after it. -/
def State.deadlockTrap (s : State) (gang : Nat) : State :=
  let g := s.gang gang
  let d := laneList g.deadlockSet
  match d.find? (fun i => (g.lane i).wait == .reconv), d with
  | some i, _ =>
    let o := (g.lane i).pc
    s.raise gang ⟨cDEADLOCK, o, (o + 8) % 2 ^ 32, 0,
      g.lanesWhere fun _ l => l.cond == .blocked && l.wait == .reconv && l.pc == o, 0, s.ctx.nextId⟩
  | none, i :: _ =>
    let o := (g.lane i).pc
    let m := match (g.lane i).wait with
      | .waitm m _ => m
      | _ => 0
    s.raise gang ⟨cMASK, o, (o + 4) % 2 ^ 32, 0, g.waitingAt m o, 0, s.ctx.nextId⟩
  | none, [] => s

/-! REFILL (R284). -/

/-- The executing lanes take items in ascending lane order; a lane that finds the queue empty goes to the exit label. -/
def execRefill (g : LGuard) (d : VReg) (disp : Word) (s : State) : Host.Outcome State Fault Refusal :=
  issue (.refill g d disp)
    (fun a s =>
      let items := (s.core a.core).items
      let got := a.exec.zip items
      let s := s.modCore a.core fun c => { c with items := items.drop a.exec.length }
      let s := ({ a with exec := a.exec.drop items.length } : At).jump s fun _ => a.target disp
      .done (s.modGang a.gang fun g => got.foldl (fun g x => g.modLane x.1 fun l => l.setReg d x.2) g)) s

/-! EXIT, YIELD, NAP. -/

/-- A barrier's reconvergence is met when the lanes it waited for have exited (R283). -/
def Gang.settleReconv (g : Gang) : Gang :=
  match ((List.range 64).find? fun i => (g.lane i).cond == .blocked && (g.lane i).wait == .reconv) with
  | none => g
  | some i =>
    if g.gathered (g.lane i).pc then
      g.modLanes (laneList (g.lanesWhere fun _ l => l.wait == .reconv)) fun _ l => { l with cond := .running, wait := .none }
    else g

/-- The last gang of a team has exited: its dirty stash bytes start their way home (R128), and the team waits for its end. -/
def State.teamExit (s : State) (team : Nat) (x : Access) : State :=
  let s := s.modTeam team fun t => { t with exited := true }
  match s.releaseSectors team with
  | [] => s
  | is => s.addAccess { x with kind := .writeBack, orphan := true, team := team, reqs := is.map fun i => ⟨i, 0, 0, 0⟩ }

/-- The gang retires with its last lane: its slot frees, its accesses and engines go on for the grid, and errors no fence met are
logged (R176, R185, R285); a HOLD latch of it is no more (R232). -/
def State.retireGang (s : State) (gang : Nat) (x : Access) : State :=
  let g := s.gang gang
  let s := g.unread.foldl (fun s u => u.2.foldl (fun s y => match y.2.err with
    | some e => s.logError (s.gridOf gang) (s.gridIdOf gang) 1 (gang / 64) g.gangIdx e u.1
    | none => s) s) s
  let s := g.stores.foldl (fun s y => match y.2.err with
    | some e => s.logError (s.gridOf gang) (s.gridIdOf gang) 0 (gang / 64) g.gangIdx e 0
    | none => s) s
  let s := s.setCtx fun c => { c with
    accs := c.accs.map fun y => if y.2.gang = gang then (y.1, { y.2 with orphan := true }) else y,
    works := c.works.map fun y => if y.2.gang = gang then (y.1, { y.2 with orphan := true }) else y }
  let s := s.setGang gang { g with live := false, stores := [], unread := [], tokens := [] }
  let s := s.modCore (gang / 64) fun c => { c with latch := c.latch.filter fun l => l.gang != gang }
  let s := s.modTeam g.team fun t => { t with
    gangSlots := t.gangSlots.erase (gang % 64), gone := t.gone ++ [{ g with live := false, stores := [], unread := [], tokens := [] }] }
  if (s.team g.team).gangSlots.isEmpty then s.teamExit g.team x else s

def execExit (z : ZReg) (s : State) : Host.Outcome State Fault Refusal :=
  issue (.exit z)
    (fun a s =>
      let x := a.access s .writeBack
      let s := (a.step s).modGang a.gang fun g =>
        let g := g.modLanes (laneList a.set) fun _ l => { l with cond := .exited, stack := [], wins := [] }
        (((List.range 12).foldl (fun g m => g.setMask m (g.mask m &&& ~~~ a.set)) g).settleMasks (List.range 12)).settleReconv
      .done (if (s.gang a.gang).nonExited == 0 then s.retireGang a.gang x else s)) s

/-- YIELD moves its lanes on; the chooser then prefers others (R286). -/
def execYield (z : ZReg) (s : State) : Host.Outcome State Fault Refusal :=
  issue (.yield z) (fun a => gangOp (fun g => { g with yielded := some a.next }) a) s

/-- Lanes whose NAP is over at a device time go on, each after its NAP (R287). -/
def Gang.wakeNaps (now : Nat) (g : Gang) : Gang :=
  let past := fun (l : Lane) => l.cond == .blocked && (match l.wait with
    | .nap d => decide (d ≤ now)
    | _ => false)
  if g.lanes.any fun l => past l.2 then
    g.modLanes (List.range 64) fun _ l => if past l then l.advance ((l.pc + 8) % 2 ^ 32) else l
  else g

def execNap (u : UGuard) (ns : Word) (s : State) : Host.Outcome State Fault Refusal :=
  issue (.nap u ns)
    (fun a s => if ns = 0 then .done (a.step s) else .hold (a.block (.nap (s.now + ns.toNat)) s)) s

/-! TRAP, BKPT, ERET. -/

def execTrap (z : ZReg) (sa : SReg) (code : Fin 16) (s : State) : Host.Outcome State Fault Refusal :=
  issue (.trap z sa code) (fun a s => .trap s a.set cSOFTWARE ((s.gang a.gang).sreg sa).toNat code) s

/-- BKPT stops the gang for an attached debugger where DEBUG_FEATURES opens it, its lanes at the BKPT; else it traps (R318, R341). -/
def execBkpt (z : ZReg) (code : Fin 16) (s : State) : Host.Outcome State Fault Refusal :=
  issue (.bkpt z code)
    (fun a s =>
      if bit s.dev.sec.debug 0 && s.dev.sec.attached then
        .hold ((a.block .debug s).modGang a.gang fun g => { g with stopped := true })
      else .trap s a.set cBREAKPOINT 0 code) s

def execEret (z : ZReg) (skip : Bool) (s : State) : Host.Outcome State Fault Refusal :=
  issue (.eret z skip) (fun a s => .done (s.returnFromTrap a.gang a.set a.next skip)) s

end Sys2Proof.Machine
end

