-- ==== Sys2Proof/Machine/SplitForm.lean ====
section
/-! DEFINITION. The split form: descriptors (R31, R32), tiles (R33 to
R38), encoding (R39 to R41) and true values (R43). -/

namespace Sys2Proof.Machine

open Sys2Proof

/-! Descriptors. -/

/-- A split descriptor (R31). -/
structure Desc where
  planes : Nat
  layout : Nat
  xo : Int
  cap : Nat
  tau : Nat
  tlines : Nat
  tks : Nat
  body : Nat
  scale : Nat
  outl : Nat
  spill : Nat
  poolCap : Nat
  fill : Nat
  crc : Bool
  zeros : Nat
  deriving DecidableEq, Repr

def parseDesc (b : List Byte) : Desc :=
  { planes := numAt b 0 1, layout := numAt b 1 1, xo := signExt (numAt b 2 1) 8, cap := numAt b 3 1, tau := numAt b 4 4,
    tlines := numAt b 8 4, tks := numAt b 12 4, body := numAt b 16 2, scale := numAt b 18 2, outl := numAt b 20 2,
    spill := numAt b 22 2, poolCap := numAt b 24 8, fill := numAt b 32 8, crc := bit (numAt b 40 4) 0,
    zeros := numAt b 40 4 / 2 + numAt b 44 20 + numAt b 16 2 / 4096 + numAt b 18 2 / 4096 + numAt b 20 2 / 4096 +
      numAt b 22 2 / 4096 }

/-- R32. -/
def Desc.malformed (d : Desc) : Bool :=
  d.planes < 2 || 8 < d.planes || 1 < d.layout ||
  (match fp32.read d.tau with
   | .nan _ => true
   | .inf n => n
   | .fin n m _ => n && m != 0) ||
  d.tlines == 0 || d.tks == 0 || d.poolCap > 2 ^ 32 || d.zeros != 0

/-- L of R36. -/
def Desc.recBytes (d : Desc) : Nat := 16 + 4 * roundUp d.cap 4
def Desc.tileBytes (d : Desc) : Nat := d.planes * 2048

/-- The descriptor of a split entry (kind 2), read as the reader's grid. -/
def State.descOf (s : State) (gridId h : Nat) : State × Port Desc :=
  let e := s.entry (h % 4096)
  if e.kind ≠ 2 then (s, .fail (errAt cHANDLE h 0))
  else andThen (s.rawRead gridId (e.data / 2 ^ 52) (e.data % 2 ^ 52) 64 ⟨rR, 64, false, false⟩) fun s b =>
    let d := parseDesc b
    (s, if d.malformed then .fail ⟨cMALFORMED, e.data, 0⟩ else .ok d)

/-! Codes and blocks. -/

/-- The 64-bit word of a plane lies at this byte offset of the tile's body (R34). -/
def planeOffset (layout p q l b : Nat) : Nat :=
  if layout = 0 then q * 2048 + l * 32 + b * 8 else (l * 4 + b) * (8 * p) + q * 8

def at2 (rows : List (List Byte)) (i : Nat) : Byte := (rows.getD (i / 256) []).getD (i % 256) 0

/-- Sign and magnitude of a code read at p' of p planes (R29, R30). -/
def codeAt (layout p p' : Nat) (rows : List (List Byte)) (l k : Nat) : Bool × Nat :=
  let bitAt := fun q => (at2 rows (planeOffset layout p q l (k / 64) + k % 64 / 8)).getLsbD (k % 8)
  let mag := (List.range (p' - 1)).foldl (fun m q => 2 * m + boolNat (bitAt (q + 1))) 0
  (bitAt 0 && mag != 0, mag)

/-- m1 * 2^e1 ≤ m2 * 2^e2. -/
def dyadicLe (m1 : Nat) (e1 : Int) (m2 : Nat) (e2 : Int) : Bool :=
  let k := min e1 e2
  decide (m1 * 2 ^ (e1 - k).toNat ≤ m2 * 2 ^ (e2 - k).toNat)

/-- The smallest code that meets the bound, or 0xFF saturated (R39). -/
def scaleFor (xo : Int) (qmax m : Nat) (e : Int) : Nat × Bool :=
  if m = 0 then (0, false)
  else match (List.range 256).find? (fun c => c != 0 && dyadicLe m e ((scaleValue c).m * qmax) ((scaleValue c).e + xo)) with
    | some c => (c, false)
    | none => (255, true)

/-- RNEInt of (m 2^e) / (sm 2^se) (R39). -/
def rneQuot (m : Nat) (e : Int) (sm : Nat) (se : Int) : Nat :=
  let k := min e se
  let n := m * 2 ^ (e - k).toNat
  let d := sm * 2 ^ (se - k).toNat
  let q := n / d
  let r := n % d
  if 2 * r > d || (2 * r = d && q % 2 = 1) then q + 1 else q

/-- One encoded block: its codes (sign, magnitude), its scale, whether it saturated, and its entries as (k in block, VALUE). -/
structure Block where
  codes : List (Bool × Nat)
  scale : Nat
  sat : Bool
  outs : List (Nat × Nat)
  deriving DecidableEq, Repr

/-- R39 on the 64 FP32 elements of a block. -/
def encodeBlock (d : Desc) (xs : List Nat) : Block :=
  let qmax := 2 ^ (d.planes - 1) - 1
  let tau := d.tau % 2 ^ 31
  let isOut := fun (x : Nat) => match fp32.read x with
    | .fin .. => decide (x % 2 ^ 31 > tau)
    | _ => true
  let top := xs.foldl (fun m x => if isOut x then m else max m (x % 2 ^ 31)) 0
  let (m, e) := match fp32.read top with
    | .fin _ m e => (m, e)
    | _ => (0, 0)
  let (sc, sat) := scaleFor d.xo qmax m e
  let sv := scaleValue sc
  { codes := xs.map fun x =>
      if isOut x then (true, 0)
      else if sc = 0 then (false, 0)
      else match fp32.read x with
        | .fin n m e => let q := min qmax (rneQuot m e sv.m (sv.e + d.xo)); (n && q != 0, q)
        | _ => (false, 0)
    scale := sc
    sat := sat
    outs := (xs.zipIdx.filter fun x => isOut x.1).map fun x => (x.2, (bf16.ofVal (fp32.read x.1)).1) }

/-- A whole tile encoded: its body, scale entries, outlier entries in (K, LINE) order, and SAT. -/
structure TileImage where
  body : List Byte
  scales : List Byte
  outs : List Nat
  sat : Bool
  deriving DecidableEq, Repr

/-- The plane word of a block: bit e is plane q of element e. -/
def planeWord (p q : Nat) (codes : List (Bool × Nat)) : Nat :=
  codes.zipIdx.foldl (fun n x => n + 2 ^ x.2 * boolNat (if q = 0 then x.1.1 else bit x.1.2 (p - 1 - q))) 0

/-- R39 and R40 on the 64 lines of 256 FP32 elements of the tile at K position tk. -/
def encodeTile (d : Desc) (tk : Nat) (lines : List (List Nat)) : TileImage :=
  let blocks := lines.map fun l => (chunks 64 4 l).map (encodeBlock d)
  let p := d.planes
  let word := fun (q : Nat) (b : Block) => toBytes 8 (planeWord p q b.codes)
  let body := if d.layout = 0 then
      (List.range p).flatMap fun q => blocks.flatMap fun l => l.flatMap (word q)
    else blocks.flatMap fun l => l.flatMap fun b => (List.range p).flatMap fun q => word q b
  let outs := blocks.zipIdx.flatMap fun (bl, l) => bl.zipIdx.flatMap fun (b, i) =>
    b.outs.map fun (e, v) => (64 * i + e, l, v)
  { body := body,
    scales := blocks.flatMap fun l => l.zipIdx.flatMap fun (b, i) => toBytes 2 (b.scale + (4 * tk + i) % 16 * 2 ^ 8),
    outs := (List.range 256).flatMap fun k => (outs.filter fun o => o.1 == k).map fun (k, l, v) => v + k * 2 ^ 16 + l * 2 ^ 24,
    sat := blocks.any fun l => l.any fun b => b.sat }

/-- The record of a tile (R36). -/
def tileRecord (d : Desc) (tk : Nat) (x : TileImage) (first : Nat) : List Byte :=
  let held := min x.outs.length d.cap
  let spilled := x.outs.length - held
  slice (toBytes 2 held ++ toBytes 2 spilled ++ toBytes 4 (if spilled = 0 then 0 else first) ++
    toBytes 1 d.planes ++ toBytes 1 (4 * tk % 16) ++ toBytes 2 (boolNat x.sat) ++ toBytes 4 (crc32c x.body) ++
    (x.outs.take held).flatMap (toBytes 4)) 0 d.recBytes

/-! Writing a tile. -/

namespace State

/-- The reservation of R40: one atomic on the fill counter, at its home or its owner, or none where the tile does not spill. The answer is
SPILLFIRST, and nothing where the pool has no room. A counter in a buffer that names a Mill slot is read and written through its graphs
(DESIGN CHOICE, assumption 90). -/
def reserve (s : State) (gridId : Nat) (d : Desc) (n : Nat) : State × Port (StoreSet × Option Nat) :=
  if n ≤ d.cap then (s, .ok (.none, some 0))
  else
    let h := d.fill / 2 ^ 52
    let off : Nat := d.fill % 2 ^ 52
    let q : Need := ⟨rR ||| rW ||| rATOM, 8, true, false⟩
    match s.check gridId h off 8 q with
    | .error c => (s, .fail (errAt c h off))
    | .ok e =>
      if e.kind = 5 then andThen (s.remoteReserve e h off (n - d.cap) d.poolCap) fun s x =>
        (s, .ok (if x.1 + (n - d.cap) > d.poolCap then (.none, none) else (⟨x.2, none, false, 0⟩, some x.1)))
      else andThen (s.rawRead gridId h off 8 q) fun s bs =>
        let f := ofBytes bs
        if f + (n - d.cap) > d.poolCap then (s, .ok (.none, none))
        else andThen (s.rawWrite gridId h off (toBytes 8 (f + (n - d.cap))) needW) fun s y => (s, .ok (y, some f))

end State

/-- The bytes at an offset by 64-byte beat. -/
def beatCuts (off : Nat) (bs : List Byte) : List (Nat × List Byte) :=
  (sectorsOf off bs.length).map fun i =>
    let a := max off (64 * i)
    (a, slice bs (a - off) (min (off + bs.length) (64 * i + 64) - a))

/-- The writes that place an encoded tile t whose spilled entries begin at f (R40 step 4): handle, offset and bytes of each part. -/
def tileWrites (d : Desc) (t : Nat) (x : TileImage) (f : Nat) : List (Nat × Nat × List Byte) :=
  [(d.body, t * d.tileBytes, x.body), (d.scale, 512 * t, x.scales), (d.outl, t * d.recBytes, tileRecord d (t % d.tks) x f)] ++
    (if x.outs.length > d.cap then [(d.spill, 4 * f, (x.outs.drop d.cap).flatMap (toBytes 4))] else [])

/-! Reading a tile. -/

/-- The parts of a tile as a reader fetched them. -/
structure TileParts where
  header : List Byte
  entries : List Nat
  scales : List Byte
  body : List Byte
  deriving DecidableEq, Repr

def hHeld (h : List Byte) : Nat := numAt h 0 1
def hSpilled (h : List Byte) : Nat := numAt h 2 2
def hFirst (h : List Byte) : Nat := numAt h 4 4

/-- The header tests of R38, in order. -/
def headerBad (d : Desc) (h : List Byte) : Bool :=
  numAt h 8 1 != d.planes || hHeld h > d.cap || (hSpilled h != 0 && hHeld h < d.cap) || hFirst h + hSpilled h > d.poolCap ||
  numAt h 1 1 != 0 || numAt h 9 1 / 16 != 0 || numAt h 10 2 / 2 != 0

def entryK (e : Nat) : Nat := bits e 16 8
def entryLine (e : Nat) : Nat := bits e 24 6
def entryKey (e : Nat) : Nat := entryK e * 64 + entryLine e

def ascending : List Nat → Bool
  | a :: b :: rest => decide (a < b) && ascending (b :: rest)
  | _ => true

def entriesBad (es : List Nat) : Bool := es.any (fun e => e / 2 ^ 30 != 0) || !ascending (es.map entryKey)

def scaleEntry (scales : List Byte) (l b : Nat) : Nat := numAt scales (8 * l + 2 * b) 2

/-- SCALE_SKEW: TAGBASE against the position named, then the tags in ascending (l, b). -/
def skewed (h scales : List Byte) (tk : Nat) : Bool :=
  let base := numAt h 9 1 % 16
  base != 4 * tk % 16 || (List.range 256).any fun i => bits (scaleEntry scales (i / 4) (i % 4)) 8 4 != (base + i % 4) % 16

/-- All tests of a reader with no order of its own (R38). -/
def TileParts.bad (x : TileParts) (d : Desc) (tk : Nat) (checksCrc : Bool) : Nat :=
  if headerBad d x.header || entriesBad x.entries ||
      (List.range 256).any (fun i => scaleEntry x.scales (i / 4) (i % 4) / 2 ^ 12 != 0) ||
      (checksCrc && d.crc && crc32c x.body != numAt x.header 12 4) then cMALFORMED
  else if skewed x.header x.scales tk then cSKEW else 0

/-- R43: the true value of an element read at p' planes. -/
def TileParts.value (x : TileParts) (d : Desc) (p' : Nat) (rows : List (List Byte)) (l k : Nat) : FVal :=
  match x.entries.find? fun e => entryK e == k && entryLine e == l with
  | some e => bf16.read (e % 2 ^ 16)
  | none =>
    let sc := scaleValue (scaleEntry x.scales l (k / 64) % 256)
    let (n, m) := codeAt d.layout d.planes p' rows l k
    if sc.m = 0 then .fin false 0 0
    else .fin n (m * sc.m) (sc.e + d.xo + ((d.planes : Int) - p'))

namespace State

/-- The held entries and then the spilled ones, those of them that the buffers can hold, with the first poisoned byte beside them. -/
def readEntries (s : State) (gridId : Nat) (d : Desc) (t : Nat) (h : List Byte) : State × Port (List Nat × Option Nat) :=
  let words := fun (bs : List Byte) => (chunks 4 (bs.length / 4) bs).map ofBytes
  let spilled := if hFirst h + hSpilled h ≤ d.poolCap then hSpilled h else 0
  andThen (s.rawReadP gridId d.outl (t * d.recBytes + 16) (4 * min (hHeld h) d.cap) needR) fun s a =>
    if spilled = 0 then (s, .ok (words a.1, a.2.map (bref d.outl)))
    else andThen (s.rawReadP gridId d.spill (4 * hFirst h) (4 * spilled) needR) fun s b =>
      (s, .ok (words a.1 ++ words b.1, (a.2.map (bref d.outl)).or (b.2.map (bref d.spill))))

/-- The tile fetched by one reader, its first n body bytes, in the order of R242: every part is read before any test of R38 is made,
and the first poisoned byte is reported beside it. -/
def readTile (s : State) (gridId : Nat) (d : Desc) (t n : Nat) : State × Port (TileParts × Option Nat) :=
  andThen (s.rawReadP gridId d.outl (t * d.recBytes) 16 needR) fun s h =>
    andThen (s.readEntries gridId d t h.1) fun s es =>
      andThen (s.rawReadP gridId d.scale (512 * t) 512 needR) fun s sc =>
        andThen (s.rawReadP gridId d.body (t * d.tileBytes) n needR) fun s b =>
          (s, .ok (⟨h.1, es.1, sc.1, b.1⟩, (((h.2.map (bref d.outl)).or es.2).or (sc.2.map (bref d.scale))).or (b.2.map (bref d.body))))

end State

end Sys2Proof.Machine
end

