-- ==== Sys2Proof/Machine/Mill.lean ====
section
/-! DEFINITION. Views over split backings: decode reads (R108, R110) and encode tile contexts (R109), and the whole memory port of the
engines, views included. -/

namespace Sys2Proof.Machine

open Sys2Proof

/-- The beats that a list of written ranges makes, later ones over earlier ones, each with its coverage (R105). -/
def beatReqs (ws : List (Nat × List Byte)) : List Req :=
  let put := fun (t : Tbl (Nat × BitVec 64)) (w : Nat × List Byte) =>
    (w.2.zipIdx).foldl (fun (t : Tbl (Nat × BitVec 64)) (b, i) =>
      let o := w.1 + i
      let (v, m) := Tbl.get (0, 0) t (o / 64)
      let sh := 2 ^ (8 * (o % 64))
      let v := v - v / sh % 256 * sh + b.toNat * sh
      Tbl.set t (o / 64) (v, setLane m (o % 64))) t
  (ws.foldl put []).map fun (k, v, m) => ⟨0, 64 * k, v, m.toNat⟩

/-- A scatter may write an element again (R196): its beats go out with its end. -/
def Job.joinsToEnd : Job → Bool
  | .scat .. => true
  | _ => false

/-- Whether a tile context takes beats of a tile: until each of its positions has been written, when the tile closes (R109). -/
def TileCtx.takes (c : TileCtx) (tile gen view full : Nat) : Bool :=
  c.tile == tile && c.gen == gen && c.view == view && decide (c.beats.length < full)

namespace State

/-- One beat of a decode read (R108, R110): the whole body is read where its CRC is checked, and p′ planes of it where not. A tile counts
as completed with its last beat (DESIGN CHOICE, assumption 74). A tile that is poisoned and also fails a test of R38 gives the test's cause
(DESIGN CHOICE, assumption 24). -/
def millDecodeBeat (gridId : Nat) (e : Entry) (h slot k : Nat) (s : State) : State × Port (List Byte) :=
  let img := (s.millSlot slot).image
  let bf := imgBf img
  let es := if bf then 2 else 4
  let t := 64 * k / (16384 * es)
  let w := 64 * k % (16384 * es)
  let here := bref h (64 * k)
  let node := (List.range 24).find? fun i => (imgNode img i).op == 0x39
  let p' := (imgNode img (node.getD 0)).mod % 16
  andThen (s.descOf gridId (e.data % 4096)) fun s d =>
    let pr := if p' = 0 then d.planes else p'
    if pr > d.planes then (s, .fail ⟨cMALFORMED, here, 0⟩)
    else
      let x := s.readTile gridId d t (if d.crc || d.layout ≠ 0 then d.tileBytes else pr * 2048)
      andThen (x.1, x.2.at' here) fun s parts =>
        let c := parts.1.bad d (t % d.tks) true
        if c ≠ 0 then (s, .fail ⟨c, here, 0⟩)
        else if parts.2.isSome then (s, .fail ⟨cPOISON, here, 0⟩)
        else
          let rows := chunks 256 (parts.1.body.length / 256) parts.1.body
          let at' := fun (e : Nat) => parts.1.value d pr rows (w / (256 * es)) e
          let k0 := w % (256 * es) / es
          let lanes := (List.range 16).map fun i =>
            if bf then
              let a := bf16.ofVal (at' (k0 + 2 * i))
              let b := bf16.ofVal (at' (k0 + 2 * i + 1))
              (b.1 * 2 ^ 16 + a.1, b.2 ||| a.2)
            else fp32.ofVal (at' (k0 + i))
          let ch := match s.place (s.entry d.body) d.body (t * d.tileBytes) 64 with
            | .ok p => (chanOf p.loc).getD 0
            | _ => 0
          let run := runGraph img (s.millPart ch slot) (List.replicate 16 0) (lanes.map Prod.fst)
            (lanes.foldl (fun f x => f ||| x.2) 0) k
          let part := if w + 64 = 16384 * es then { run.part with tiles := min (run.part.tiles + 1) (2 ^ 32 - 1) } else run.part
          let s := s.setMillPart ch slot part
          if run.failed then (s.millError ch slot 5, .fail { errAt cMILL h (64 * k) with info := 5 })
          else (s, .ok ((run.result img).flatMap (toBytes 4)))

/-- A read through a Mill read graph, after the checks of R84: the gate, then every beat that holds a requested byte. (DEDUCED, assumption 31) -/
def millRead (s : State) (gridId : Nat) (e : Entry) (h off n : Nat) : State × Port (List Byte) :=
  match s.gateOf e h off false with
  | .error x => (s, .fail x)
  | .ok slot =>
    if imgMode (s.millSlot slot).image = 2 then s.throughBeats off n (millDecodeBeat gridId e h slot) else s.streamRead e h off n

/-- A read by an engine of the kinds an engine transfer reaches, views included. -/
def memRead (s : State) (gridId h off n : Nat) (q : Need) : State × Port (List Byte) :=
  match s.check gridId h off n q with
  | .error c => (s, .fail (errAt c h off))
  | .ok e => if e.kind = 3 then s.millRead gridId e h off n else s.rawRead gridId h off n q

/-- Beats of a whole tile of an encode view. -/
def tileBeats (bf : Bool) : Nat := if bf then 512 else 1024

/-- The check of R109 on one part buffer: handle, owner and rights. (DEDUCED, assumption 23) -/
def partCheck (s : State) (gridId b rights : Nat) : Option Nat :=
  match s.check gridId b 0 0 ⟨rights, 1, false, false⟩ with
  | .ok _ => none
  | .error c => if c = cHANDLE || c = cOWNER || c = cRIGHTS then some c else none

/-- Every part of a tile has its place before the first byte of it is written (R109). -/
def partPlaces (s : State) : List (Nat × Nat × List Byte) → State × Port Unit
  | [] => (s, .ok ())
  | (h, off, bs) :: rest =>
    let e := s.entry (h % 4096)
    andThen (s, (if e.kind = 5 then .ok [] else (s.rangePieces e h off bs.length).write)) fun s _ => s.partPlaces rest

/-- The close of a tile (R109): the conditions of its table in order, then the encoding of R39 and the reservation of R40. The outcome is
the error that every beat receives, or what is to be written; a page fault waits. -/
def closePlan (s : State) (ch slot : Nat) (x : TileCtx) (img : List Byte) :
    State × Port (Except Err (List (Nat × Nat × List Byte) × StoreSet)) :=
  let es := if imgBf img then 2 else 4
  let here := bref x.view (x.tile * 16384 * es)
  let fail := fun (s : State) (cause info : Nat) =>
    (s, (.ok (.error ⟨cause, here, info⟩) : Port (Except Err (List (Nat × Nat × List Byte) × StoreSet))))
  /- A part of the close that fails gives every beat its cause. -/
  let caught := fun (s : State) (y : State × Port (Except Err (List (Nat × Nat × List Byte) × StoreSet))) => match y.2 with
    | .fail e => fail s e.cause e.info
    | _ => y
  match x.fail with
  | some e => (s, .ok (.error e))
  | none => caught s (andThen (s.descOf x.gridId x.back) fun s d =>
      let bytes := (List.range (tileBeats (imgBf img))).flatMap fun i => Tbl.get [] x.beats i
      let lines := (chunks (256 * es) 64 bytes).map fun l => (chunks es 256 l).map fun b => if es = 2 then ofBytes b * 2 ^ 16 else ofBytes b
      let im := encodeTile d (x.tile % d.tks) lines
      let many := im.outs.length > d.cap
      let parts := [(d.body, rW), (d.scale, rW), (d.outl, rW)] ++
        (if many then [(d.spill, rW), (d.fill / 2 ^ 52, rR ||| rW ||| rATOM)] else [])
      match parts.findSome? fun p => s.partCheck x.gridId p.1 p.2 with
      | some c => fail s c 0
      | none =>
        andThen (s, s.rangePieces (s.entry d.body) d.body (x.tile * d.tileBytes) d.tileBytes) fun s ps =>
          if ps.any fun p => chanOf p.loc != some ch then fail (s.millError ch slot 6) cMILL 6
          else if im.outs.length > 1024 then fail (s.millError ch slot 4) cMILL 4
          else andThen (s.partPlaces (tileWrites d x.tile im 0)) fun s _ => andThen (s.reserve x.gridId d im.outs.length) fun s r =>
            match r.2 with
            | none => fail s cOVERFLOW 0
            | some f => (s, .ok (.ok ((tileWrites d x.tile im f).flatMap fun w => (beatCuts w.2.1 w.2.2).map fun b => (w.1, b.1, b.2), r.1))))

/-- What is left of a tile's writes goes on: all of it, or one beat, taken from a free place (R42). The answer is what is left then, with
the outcome so far; a page fault leaves the rest where it stands. -/
def closeWrites (gridId : Nat) (seen : Nat → Nat → List Byte → State → State) : Nat → List (Nat × Nat × List Byte) → StoreSet → State →
    State × List (Nat × Nat × List Byte) × StoreSet × Option Away
  | _, [], w, s => (s, [], w, none)
  | 0, ps, w, s => (s, ps, w, none)
  | n + 1, (h, off, bs) :: ps, w, s =>
    match s.rawWrite gridId h off bs needW with
    | (s, .ok y) => closeWrites gridId seen n ps (mergeStore w y) (seen h off bs s)
    | (s, .fail e) => closeWrites gridId seen n ps (mergeStore w ⟨0, some e, false, 0⟩) s
    | (_, .miss p b) => (s.postMiss p b true gridId, (h, off, bs) :: ps, w, none)
    | (_, .away x) => (s, (h, off, bs) :: ps, w, some x)

/-- The channel whose Mill takes the beats of tile t: that of the tile's first body byte (R108). Where the descriptor does not give it,
that of the tile's open context, else channel 0 (DESIGN CHOICE, assumption 75): the close then finds the fault (R109). -/
def tileChannel (s : State) (gridId back h t slot gen full : Nat) : State × Port Nat :=
  let held := List.find? (α := Nat × MillPart) (fun m => m.1 % 8 == slot && m.2.ctxs.any (·.takes t gen (h % 4096) full)) s.ctx.mills
  match held with
  | some m => (s, .ok (m.1 / 8))
  | none => match andThen (s.descOf gridId back) fun s d => (s, s.place (s.entry d.body) d.body (t * d.tileBytes) 64) with
    | (s, .ok p) => (s, .ok ((chanOf p.loc).getD 0))
    | (s, .fail _) => (s, .ok 0)
    | (s, .miss p b) => (s, .miss p b)
    | (s, .away w) => (s, .away w)

/-- Admission of one beat to an encode graph (R109): the channel whose Mill takes it and its context, where one is free. Nothing is
answered where the beat must wait. A beat that is partly covered and also fails an ASSERT counts as the latter in its Mill, and its failure is
PARTIAL_BEAT (DESIGN CHOICE, assumption 94). -/
def millAdmit (s : State) (gridId : Nat) (e : Entry) (h k slot id : Nat) (bs : List Byte) (whole : Bool) : State × Port (Option Nat) :=
  let img := (s.millSlot slot).image
  let es := if imgBf img then 2 else 4
  let t := 64 * k / (16384 * es)
  let gen := (s.millSlot slot).gen.getD 0
  let full := tileBeats (imgBf img)
  andThen (s.tileChannel gridId (e.data % 4096) h t slot gen full) fun s ch =>
      let part := s.millPart ch slot
      let open? := part.ctxs.any (·.takes t gen (h % 4096) full)
      if !open? && part.ctxs.length ≥ 2 then (s, .ok none)
      else
        let run := runGraph img part (lanesOf bs) [] 0 k
        let s := if run.failed then (s.setMillPart ch slot run.part).millError ch slot 5
          else if whole then s.setMillPart ch slot run.part
          else (s.setMillPart ch slot run.part).millError ch slot 2
        let bad : Option Err := if !whole then some { errAt cMILL h (64 * k) with info := 2 }
          else if run.failed then some { errAt cMILL h (64 * k) with info := 5 } else none
        let fresh : TileCtx := { view := h % 4096, back := e.data % 4096, tile := t, gen := gen, gridId := gridId, beats := [], fail := none, waiters := [], last := 0, left := none, wrote := .none }
        let part := s.millPart ch slot
        let cs := if open? then part.ctxs else part.ctxs ++ [fresh]
        let cs := cs.map fun c =>
          if c.takes t gen (h % 4096) full then
            { c with beats := Tbl.set c.beats (k % full) ((run.result img).flatMap (toBytes 4)),
                     fail := c.fail.or bad, waiters := c.waiters ++ [(id, 64 * k)], last := s.now }
          else c
        (s.setMillPart ch slot { part with ctxs := cs }, .ok (some ch))

/-- A store admitted to a slot under a generation whose beats are still to enter the Mill. -/
def beatsLeft (s : State) (slot gen : Nat) : Bool :=
  s.ctx.accs.any fun x => x.2.kind == .store && (let e := s.entryOf x.2; e.millwr == slot && e.gen == gen && (e.kind == 1 || e.kind == 3))

/-- Whether beats or tile contexts of a generation are still under way (R112). -/
def genBusy (s : State) (slot gen : Nat) : Bool :=
  s.beatsLeft slot gen || (List.range 256).any fun ch => (s.millPart ch slot).ctxs.any fun c => c.gen == gen

/-- The draining copy frees when every beat and tile context of its generation is done (R112). (DEDUCED, assumption 36) -/
def drainSlot (s : State) (slot : Nat) : State :=
  let x := s.millSlot slot
  match x.draining with
  | none => s
  | some (g, _) => if x.gen != some g && s.genBusy slot g then s else s.setMillSlot slot { x with draining := none }

/-- A beat is processed under the configuration it was admitted under: the draining copy, where its generation is not the live one.
The slot's registers belong to the live configuration and are not touched by the other's beats (R112). -/
def asGeneration {α : Type} (s : State) (slot gen : Nat) (f : State → State × α) : State × α :=
  let ms := s.millSlot slot
  match ms.draining with
  | some (g, im) =>
    if g ≠ gen || ms.gen = some gen then f s
    else
      let (t, x) := f (s.setMillSlot slot { ms with gen := some g, image := im })
      let t := t.setMillSlot slot { t.millSlot slot with gen := ms.gen, image := ms.image }
      let t := t.setCtx fun c => { c with mills := c.mills.map fun m =>
        if m.1 % 8 ≠ slot then m
        else
          let o := Tbl.get MillPart.zero s.ctx.mills m.1
          (m.1, { m.2 with stats := o.stats, flags := o.flags, crc := o.crc, bstat := o.bstat, beats := o.beats }) }
      (t, x)
  | none => f s

/-- The written ranges of a list of beats. -/
def beatRanges (rs : List Req) : List (Nat × List Byte) :=
  rs.flatMap fun r => (dirtyRuns (BitVec.ofNat 64 r.expect)).map fun f => (r.off + f.1, slice (toBytes 64 r.data) f.1 f.2)

/-- Written ranges with later ones over earlier ones. -/
def joined (ws : List (Nat × List Byte)) : List (Nat × List Byte) := beatRanges (beatReqs ws)

/-- The beats of a list of written ranges that are covered whole, and the ranges of the others. -/
def wholeBeats (ws : List (Nat × List Byte)) : List Req × List (Nat × List Byte) :=
  let rs := beatReqs ws
  (rs.filter fun r => r.expect == 2 ^ 64 - 1, beatRanges (rs.filter fun r => r.expect != 2 ^ 64 - 1))

/-- The bytes an engine transfer writes through a write graph: beats that are whole go to the Mill, and the rest waits for the transfer's
other bytes (R105). -/
def joinBeats (s : State) (h : Nat) (ws : List (Nat × List Byte)) : State :=
  let job := s.eng.bind s.work?
  let old := ((job.map (·.parts)).getD []).filter fun p => p.1 == h
  let all := old.map (fun p => (p.2.1, p.2.2)) ++ ws
  let (rs, rest) := if job.any (·.job.joinsToEnd) then ([], joined all) else if job.isSome then wholeBeats all else (beatReqs ws, [])
  let s := match s.eng, s.eng.bind s.work? with
    | some id, some w => s.setWork id { w with parts := w.parts.filter (fun p => p.1 != h) ++ rest.map fun r => (h, r.1, r.2) }
    | _, _ => s
  if rs.isEmpty then s else s.addAccess (s.queuedWrite h rs none)

/-- The beats that a transfer has left partly covered go out as they are (R105). -/
def flushBeats (s : State) (id : Nat) : State :=
  match s.work? id with
  | none => s
  | some w =>
    let s := s.setWork id { w with parts := [] }
    ((w.parts.map Prod.fst).dedup.foldl (fun (s : State) h =>
      s.addAccess (s.queuedWrite h (beatReqs ((w.parts.filter fun p => p.1 == h).map fun p => (p.2.1, p.2.2))) none)) { s with eng := some id }) |> fun t => { t with eng := s.eng }

/-- Writes of one engine transfer (R105): through a graph as beats that wait for their Mills, translation and the gate coming first (R84,
R104); otherwise one after another. -/
def memWriteAll (gridId h : Nat) (ws : List (Nat × List Byte)) (q : Need) (s : State) : State × Port StoreSet :=
  match ws with
  | [] => (s, .ok .none)
  | (off, bs) :: rest =>
    if s.milled h true then
      let first := ws.foldr (fun w (acc : Port Unit) => match s.check gridId h w.1 w.2.length q with
        | .error c => .fail (errAt c h w.1)
        | .ok e => (if e.kind = 1 then (s.rangePieces e h w.1 w.2.length).write else .ok []).bind fun _ => match s.millGate h w.1 true with
          | .error x => .fail x
          | .ok _ => acc) (.ok ())
      andThen (s, first) fun s _ => (s.joinBeats h ws, .ok .none)
    else andThen (s.rawWrite gridId h off bs q) fun s w => andThen (memWriteAll gridId h rest q s) fun s y => (s, .ok (mergeStore w y))

end State

end Sys2Proof.Machine
end

