-- ==== Sys2Proof/Machine/Serve.lean ====
section
/-! DEFINITION. Accesses in flight: when and how one is served or performed (R142 to R146, R150 to R158, R165 to R170), and how its
faults are delivered (R70, R114, R176). -/

namespace Sys2Proof.Machine

open Sys2Proof

/-- The offset of a request, kept modulo 2^64 (R138). -/
def Req.offset (r : Req) : Int := signExt r.off 64

/-- What a lane's request comes to. -/
inductive Served where
  | data (bs : List Byte)
  | fault (e : Err)
  | miss (page buf : Nat)
  /-- It must wait: for a line in custody, a held reduction, an earlier access of its lane, or a tile context. -/
  | wait
  /-- It goes to another device: device, its buffer, offset. -/
  | remote (dev buf off : Nat)
  /-- A Mill that serves it must first read another device's buffer. -/
  | away (w : Away)

/-- What a port answers, as what a request comes to. -/
def Port.served : Port (List Byte) → Served
  | .ok bs => .data bs
  | .fail e => .fault e
  | .miss p b => .miss p b
  | .away w => .away w

/-- The alignment of an access of the lane pipes (R84, R141). -/
def Width.align (wd : Width) : Nat :=
  match wd with
  | .b => 1
  | .h => 2
  | _ => 4

def Policy.rank : Policy → Nat
  | .none => 0 | .nc => 1 | .nl => 2

/-- Whether an entry's writes go to a Mill (R104). -/
def Entry.millWrites (e : Entry) : Bool := e.milled true

/-- The lanes that made a request: of a beat, those that wrote in it. -/
def Access.lanesOf (x : Access) (beat : Bool) (q : Req) : List Nat :=
  if beat then (match Tbl.find? x.wrote (q.off / 64) with
    | some m => laneList m
    | none => [64])
  else [q.lane]

namespace State

/-- The virtual and the location range of bytes of a buffer, as far as they can be told. -/
def located (s : State) (e : Entry) (h off n : Nat) : List (Nat × Nat) :=
  (if e.kind = 1 then [(2 ^ 115 + e.base + off, n)] else []) ++ match s.placeAll e h (cutParts e (n / 256 + 2) off n) with
    | .ok ps => ps.map fun p => (p.loc, p.n)
    | _ => []

/-- What the Mill reads or writes for beat k of a buffer (R160): the backing bytes, or the body, scale entries and record of a tile. -/
def millRanges (s : State) (gridId : Nat) (e : Entry) (h slot k : Nat) : List (Nat × Nat) :=
  if e.kind = 3 && (s.entry (e.data % 4096)).kind = 2 then
    match (s.descOf gridId (e.data % 4096)).2 with
    | .ok d =>
      let t := 64 * k / (16384 * (if imgBf (s.millSlot slot).image then 2 else 4))
      s.located (s.entry d.body) d.body (t * d.tileBytes) d.tileBytes ++ s.located (s.entry d.scale) d.scale (512 * t) 512 ++
        s.located (s.entry d.outl) d.outl (t * d.recBytes) d.recBytes
    | _ => []
  else
    let (b, o, n, _) := s.backing e h k slot
    s.located (if e.kind = 3 then s.entry b else e) b o n

/-- Virtual and location ranges an access's request touches, as far as they can be told; the stash and other devices have ranges of their
own, and a Mill's are those of its beats. -/
def footprint (s : State) (x : Access) (r : Req) : List (Nat × Nat) :=
  let n := x.wd.bytes
  match x.kind with
  | .lds | .sts | .atoms => [(2 ^ 110 + x.team * 2 ^ 60 + r.off, n)]
  | .div | .writeBack | .prefetch => []
  | _ =>
    let e := s.entryOf x
    if e.kind = 5 then [(2 ^ 100 + e.data % 2 ^ 28 * 2 ^ 60 + r.off, n)]
    else if e.kind = 6 || r.offset < 0 then []
    else if x.kind == .store && e.milled true then s.millRanges x.gridId e x.handle e.millwr (r.off / 64)
    else if (x.kind == .load || x.kind == .sld) && e.milled false then
      (List.range ((r.off + n - 1) / 64 - r.off / 64 + 1)).flatMap fun i => s.millRanges x.gridId e x.handle e.millrd (r.off / 64 + i)
    else s.located e x.handle r.off n

def overlaps (a b : List (Nat × Nat)) : Bool := a.any fun p => b.any fun q => p.1 < q.1 + q.2 && q.1 < p.1 + p.2

/-- An access whose writes are beats of a Mill write graph (R105). -/
def beatAccess (s : State) (x : Access) : Bool := x.kind == .store && (s.entryOf x).millWrites

/-- An earlier access of the same lane (R169), or of the same engine's job (R196), to the same location is still in flight. -/
def earlierOverlap (s : State) (id : Nat) (x : Access) (r : Req) : Bool :=
  let f := s.footprint x r
  let ls := x.lanesOf (s.beatAccess x) r
  s.ctx.accs.any fun y => y.1 < id && y.2.gang == x.gang && y.2.orphan == x.orphan && y.2.work == x.work &&
    y.2.reqs.any fun q => (x.work.isSome || (y.2.lanesOf (s.beatAccess y.2) q).any ls.contains) && overlaps f (s.footprint y.2 q)

/-- The lane of a request has read or written its bytes where they stand. -/
def seen (s : State) (x : Access) (r : Req) (t : State) : State :=
  t.observed x.gang (if x.kind == .sld then 64 else r.lane) ((s.footprint x r).filter fun p => decide (p.1 < 2 ^ 100))

/-- Whether a read that an instruction makes at its issue would pass an earlier access of the gang's uniform stream to its bytes (R169). -/
def passesOwn (s : State) (a : At) (h off n : Nat) : Bool :=
  let x := { a.access s .load with handle := h, wd := .q, ent := s.entryRaw (h % 4096) }
  (List.range (ceilDiv n 16)).any fun k => s.earlierOverlap s.ctx.nextId x ⟨64, off + 16 * k, 0, 0⟩

/-- A later access to a line with a held reduction waits until that has retired; held ones go in queue order (R158). -/
def heldBlocks (s : State) (id core va : Nat) : Bool :=
  let before := s.ctx.redHold.takeWhile (· != id)
  let mine := s.ctx.redHold.contains id
  (before.any fun j => match s.access? j with
    | none => false
    | some y => y.reqs.any fun q => s.reqVa y q / 128 == va / 128 || (mine && sliceOf (s.reqVa y q) == sliceOf va)) ||
  (!mine && s.sliceFull core va)

/-- Bytes of located pieces for a lane, of those that stand there or stood before (R145, R165); a failure names the first byte of its part. -/
def readLane (s : State) (id : Nat) (x : Access) (r : Req) : List Piece → Nat → State × List Byte × Option Err
  | [], _ => (s, [], none)
  | p :: ps, o =>
    if !s.dev.portUp p.loc then (s, [], some (farErr x.handle o p.loc))
    else
      let (s, a, bad) := s.readCuts x.core (x.gang % 64) (max (Policy.rank x.pol) p.attr) (lineCuts 2 p.loc p.n)
      if bad then (s, [], some (errAt cPOISON x.handle o))
      else
        let l := if x.kind == .sld then 64 else r.lane
        let a := if (s.access? id).isSome then s.aged x.gang l (Tbl.get 0 x.after l) p.loc a else a
        let (s, c, e) := s.readLane id x r ps (o + p.n)
        (s, a ++ c, e)

/-- A load of n bytes at its service (R145): the checks of R84, then the place its data come from. A failure names the first byte of
the first part that fails (R81, R142). Nothing has happened where it must wait. -/
def serveRange (s : State) (id : Nat) (x : Access) (r : Req) (n align : Nat) : State × Served :=
  match s.checkParts x.gridId x.handle r.offset n ⟨rR, align, false, false⟩ with
  | .fail e => (s, .fault e)
  | .miss p b => (s, .miss p b)
  | .away w => (s, .away w)
  | .ok (e, ps) =>
    let off := r.offset.toNat
    if (e.kind = 5 || e.kind = 6) && e.milled false then (s, .fault (errAt cHANDLE x.handle off))
    else if e.kind = 6 then (s, .data (slice (circleBytes (s.circle (e.data % 64))) off n))
    else if e.kind = 5 then (match s.remoteCopy x.core (Policy.rank x.pol) e.data off n with
      | some (bs, bad) => (s, if bad then .fault (errAt cPOISON x.handle off) else .data bs)
      | none => (s, .remote (e.data % 2 ^ 16) (bits e.data 16 12) off))
    else if s.heldBlocks id x.core (e.base + off) then (s, .wait)
    else if e.milled false then
      match s.millRead x.gridId e x.handle off n with
      | (t, .fail f) =>
        let first := ((cutParts e 4 off n).find? fun c => decide (f.addr % 2 ^ 52 < c.1 + c.2)).getD (off, n)
        (t, .fault { f with addr := bref x.handle first.1 })
      | (t, .ok bs) => (t.keepLeaves e off n, .data bs)
      | (_, y) => (s, y.served)
    else if ps.any fun p => (s.pieceBlocked (x.core / 8) true p).isSome then (s, .wait)
    else
      let (s, bs, f) := s.readLane id x r ps off
      (s.keepLeaves e off n, match f with
        | some f => .fault f
        | none => .data bs)

/-- A load's request at its service. -/
def serveLoad (s : State) (id : Nat) (x : Access) (r : Req) : State × Served := s.serveRange id x r x.wd.bytes (Width.align x.wd)

/-- The operations of R150 on n bytes. -/
def aopApply (op : Aop) (n old a expect : Nat) : Nat :=
  let w := 8 * n
  let sg := fun x => signExt x w
  match op with
  | .add => (old + a) % 2 ^ w
  | .and => old &&& a
  | .or => old ||| a
  | .xor => old ^^^ a
  | .min => if sg old ≤ sg a then old else a
  | .max => if sg old ≤ sg a then a else old
  | .umin => min old a
  | .umax => max old a
  | .xchg => a
  | .cas => if old = expect then a else old
  | .fadd => (fmtAdd fp32 old a).1
  | .fmin => (fp32.minmax false old a).1
  | .fmax => (fp32.minmax true old a).1
  | .hadd2 => (halves (fmtAdd bf16) old a).1

def scopeRank : Scope → Nat
  | .gang => 0 | .team => 1 | .core => 2 | .cluster => 3 | .device => 4 | .system => 5

/-- A line taken into custody by a cluster unit, where it has room (R154); one that needs room first returns its oldest line. (DESIGN CHOICE, assumption 33) -/
def takeCustody (s : State) (cluster line : Nat) : Option State :=
  if Tbl.mem s.ctx.custody line then some s
  else
    let mine := s.ctx.custody.filter fun c => c.2.cluster == cluster
    if mine.length < 256 then
      some { s with dev := s.dev.touch (s.pickFor 6 line 16) line, ctx := { s.ctx with custody := Tbl.set s.ctx.custody line ⟨cluster, s.now, false, []⟩ } }
    else none

/-- The oldest line of a full cluster unit is asked back. -/
def makeRoom (s : State) (cluster : Nat) : State :=
  match (s.ctx.custody.filter fun c => c.2.cluster == cluster).mergeSort fun a b => a.2.since ≤ b.2.since with
  | (l, c) :: _ => s.setCtx fun x => { x with custody := Tbl.set x.custody l { c with ret := true } }
  | [] => s

/-- One atomic at its point (R152 to R155): the old value and the write's set, or what else becomes of it. -/
def atomicAt (s : State) (id : Nat) (x : Access) (r : Req) (f : Nat → Nat) : State × Served × StoreSet :=
  let n := x.wd.bytes
  let e := s.entryOf x
  let off := r.off
  let err := fun (s : State) (e : Err) => ((s, .fault e, .none) : State × Served × StoreSet)
  if e.kind = 5 then (s, .remote (e.data % 2 ^ 16) (bits e.data 16 12) off, .none)
  else if s.heldBlocks id x.core (e.base + off) then (s, .wait, .none)
  else match s.place e x.handle off n with
    | .fail y => err s y
    | .miss p b => (s, .miss p b, .none)
    | .away w => (s, .away w, .none)
    | .ok p =>
      let cl := x.core / 8
      let narrow := e.kind == 1 && scopeRank x.scope ≤ 3
      if s.custodyBlocks cl p.loc narrow then (s.askReturn cl p.loc, .wait, .none)
      else if !s.dev.portUp p.loc then err s (farErr x.handle off p.loc)
      else if s.dev.isPoisoned p.loc n then err s (errAt cPOISON x.handle off)
      else
        let old := ofBytes (s.dev.mem.readBytes p.loc n)
        let new := toBytes n (f old)
        let copy := fun (s : State) => (s.storeCopy x.core p.loc new).keepLeaves e off n
        if narrow then
          match s.takeCustody cl (p.loc / 128) with
          | none => (s.makeRoom cl, .wait, .none)
          | some s =>
            let c := Tbl.get ⟨cl, s.now, false, []⟩ s.ctx.custody (p.loc / 128)
            let u := (x.gang, x.grid)
            let c := { c with users := if c.users.contains u then c.users else c.users ++ [u] }
            let s := s.setCtx fun d => { d with custody := Tbl.set d.custody (p.loc / 128) c }
            let s := (s.keepPast p.loc new.length).setDev fun d => { d with mem := d.mem.writeBytes p.loc new }
            (copy (s.evalTriggers p.loc n s.now), .data (toBytes n old), .none)
        else
          let (s, w) := s.performWrite p.loc new
          (copy s, .data (toBytes n old), { w with err := w.err.map fun e => { e with addr := bref x.handle off } })

/-! Results to lanes. -/

/-- A lane's result arrives: its registers are written and the window it was owed in closes (R68, R139). -/
def deliver (s : State) (id : Nat) (x : Access) (r : Req) (v : Nat) : State :=
  let s := if x.kind == .prefetch || x.kind == .div then s
    else s.stamped x.gang (if x.kind == .sld then 64 else r.lane) (span x.reg x.wd.regs)
  s.modGang x.gang fun g =>
    if x.kind == .prefetch then g
    else if x.kind == .sld then
      let g := if x.wd.regs = 2 then g.setSpair x.reg v else g.setS x.reg (BitVec.ofNat 32 v)
      g.modLanes (List.range 64 |>.filter fun i => (g.lane i).wins.any fun w => w.acc == id) fun _ l =>
        { l with wins := l.wins.filter fun w => w.acc != id }
    else g.modLane r.lane fun l => { l.setWide x.reg x.wd v with wins := l.wins.filter fun w => w.acc != id }

/-- The lanes of a fault: its lane, or for SLD the issuing set kept with the request. -/
def faultLanes (x : Access) (f : Nat × Err) : Lanes :=
  if x.kind == .sld then BitVec.ofNat 64 ((x.reqs.headD ⟨0, 0, 0, 0⟩).expect) else laneBit f.1

/-- All of an access's lanes are served: faulting lanes trap, those standing at one offset together (R70, R143); of an SLD, all lanes of its
issuing set at once, with the offset of the lowest (DESIGN CHOICE, assumption 82). TRESUME is where they stand, the first instruction
not executed; without a window it is the instruction after the access. -/
def loadFaults (s : State) (id : Nat) (x : Access) (faults : List (Nat × Lanes × Err)) : Nat → State
  | 0 => s
  | fuel + 1 =>
    match faults with
    | [] => s
    | (l0, _, e) :: _ =>
      let g := s.gang x.gang
      let at' := (g.lane l0).pc
      let resume := if x.la = 0 then (x.pc + 8) % 2 ^ 32 else at'
      let here := faults.filter fun f => (g.lane f.1).pc == at'
      let m := here.foldl (fun m f => m ||| f.2.1) 0 &&& g.nonExited
      let info := e.info ||| (if x.la > 0 then iWINDOW else 0)
      let s := s.raise x.gang ⟨e.cause, x.pc, resume, e.addr, m, info, id⟩
      s.loadFaults id x (faults.filter fun f => (g.lane f.1).pc != at') fuel

def finishLoad (s : State) (id : Nat) (x : Access) : State :=
  if !x.reqs.isEmpty && x.kind != .sld then s.setAccess id x
  else
    let s := s.dropAccess id
    if x.orphan || !(s.gang x.gang).live then s
    else
      let fs := ((x.faults.mergeSort fun a b => a.1 ≤ b.1).map fun f =>
        let m := faultLanes x f
        ((laneList m).headD 0, m, f.2)).filter fun f => f.2.1 != 0
      let s := s.modGang x.gang fun g => g.modLanes (List.range 64 |>.filter fun i => (g.lane i).wins.any fun w => w.acc == id)
        fun _ l => { l with wins := l.wins.filter fun w => w.acc != id }
      (s.loadFaults id x fs 65).settleTraps x.gang

/-- The stash address of a request: its checks in the order of R146. -/
def stashCheck (s : State) (team : Nat) (off : Int) (n align : Nat) : Option Err :=
  if off < 0 || off.toNat + n > s.fstash team then some (stashErr cBOUNDS (wrap 32 off))
  else if off.toNat % align ≠ 0 then some (stashErr cMISALIGNED off.toNat)
  else none

/-- A request of LDS served, and of ATOMS performed, at its stash bank (R146, R156). -/
def serveStash (s : State) (x : Access) (r : Req) (align : Nat) (f : Option (Nat → Nat)) : State × Served :=
  let n := x.wd.bytes
  match s.stashCheck x.team r.offset n align with
  | some e => (s, .fault e)
  | none =>
    let so := r.offset.toNat
    match (if f.isSome then s.stashReadOnly x.team so n else none) with
    | some _ => (s, .fault (stashErr cRIGHTS so))
    | none =>
      match s.stashRead x.gridId (x.gang % 64) x.team so n with
      | (s, .fail e) => (s, .fault { e with addr := (stashErr 0 so).addr })
      | (s, .miss p b) => (s, .miss p b)
      | (s, .away w) => (s, .away w)
      | (s, .ok (bs, bad)) =>
        if bad.isSome then (s, .fault (stashErr cPOISON so))
        else match f with
          | none => (s.stashRead' x.gang x.team so n, .data (s.stashMixed x.gang pLSU x.team so bs))
          | some g => (s.stashWrite x.team so (toBytes n (g (ofBytes bs))), .data bs)

/-! The events. -/

/-- A request of an access waits for a page that has a miss entry. -/
def reqHeld (s : State) (x : Access) (r : Req) : Bool := (Tbl.find? x.stall r.lane).any fun p => Tbl.mem s.ctx.misses p

/-- Everything an access still owes waits for pages. -/
def pageHeld (s : State) (x : Access) : Bool :=
  !x.reqs.isEmpty && (x.reqs.all (s.reqHeld x) || (s.beatAccess x && x.reqs.any (s.reqHeld x)))

/-- The requests that share bytes with a set of them, directly or through others. -/
def sharing (fs : List (Req × List (Nat × Nat))) : Nat → List (Req × List (Nat × Nat)) → List (Req × List (Nat × Nat))
  | 0, g => g
  | fuel + 1, g =>
    let more := fs.filter fun x => g.any fun y => y.1.lane == x.1.lane || overlaps x.2 y.2
    if more.length = g.length then g else sharing fs fuel more

/-- The requests of an access that go in one uninterrupted sequence, in ascending lane index: one picked freely, and those that share
bytes with it (R144). -/
def nextReqs (s : State) (id : Nat) (x : Access) : List Req :=
  let free := x.reqs.filter fun r => !s.reqHeld x r
  match free[s.pickFor 21 id free.length]? with
  | none => []
  | some r =>
    let fs := x.reqs.map fun q => (q, s.footprint x q)
    if fs.length ≤ 1 then [r] else (sharing fs fs.length [(r, s.footprint x r)]).map Prod.fst

/-- One request after another; where one of them must wait, none is performed, and each that must wait is noted as it does (R144, R159). -/
def together (f : State → Access → Req → State × Access) (rs : List Req) (s : State) (x : Access) : State × Access :=
  let t := rs.foldl (fun (sx : State × Access) r => f sx.1 sx.2 r) (s, x)
  let waits := fun (y : Access) (r : Req) => y.reqs.any fun q => q.lane == r.lane
  if rs.length ≤ 1 || !rs.any (waits t.2) then t
  else rs.foldl (fun (sx : State × Access) r =>
    let u := f sx.1 sx.2 r
    if waits u.2 r then u else sx) (s, x)

/-- The requests of an access to another device's buffer that can go: all but those that must wait for an earlier access, and those that
share bytes with such a one (R144, R169). -/
def remoteReqs (s : State) (id : Nat) (x : Access) : List Req :=
  let fs := x.reqs.map fun q => (q, s.footprint x q)
  let late := sharing fs fs.length (fs.filter fun f => s.earlierOverlap id x f.1)
  (fs.filter fun f => !late.any fun g => g.1.lane == f.1.lane).map Prod.fst

/-- A request leaves for another device, with those of the access's other lanes (R144). -/
def goesOut (x : Access) (r : Req) : Access := { x with out := x.out ++ [r.lane] }

/-- What the message of an access's lanes asks: 1 loads, 2 stores, 3 and up an atomic, 17 a signal add. -/
def laneCode (x : Access) : Nat :=
  match x.kind with
  | .atom | .red => 3 + x.aop.code
  | .signal => 17
  | .store | .sst => 2
  | _ => 1

/-- The lanes that go to another device go in one message, to be performed there as one sequence (R144). (DESIGN CHOICE, assumption 14) -/
def sendLanes (s : State) (id : Nat) (x : Access) : State × Access :=
  if x.out.isEmpty then (s, x)
  else
    let x := { x with sent := some s.now, ent := if x.ent.isEmpty then s.entryRaw (x.handle % 4096) else x.ent }
    let e := s.entryOf x
    let rs := x.reqs.filter fun q => x.out.contains q.lane
    (s.sendRemote (e.data % 2 ^ 16) ([20, remoteId id 0, bits e.data 16 12, laneCode x, x.wd.bytes, boolNat (x.pol == .none && !s.dev.time.free),
      rs.length] ++ rs.flatMap fun q => [q.lane, q.off, q.data % 2 ^ 64, q.data / 2 ^ 64, q.expect]) [], x)

/-- One lane's prefetch at its service (R147): nothing where a check fails, its translation meets a fault, or a Mill makes the data. A line in
custody of its own cluster first returns (R154). -/
def prefetch (s : State) (id : Nat) (x : Access) (r : Req) : State × Served :=
  match s.checkParts x.gridId x.handle r.offset x.wd.bytes ⟨rR, Width.align x.wd, false, false⟩ with
  | .ok (e, ps) =>
    let off := r.offset.toNat
    if e.kind = 3 || e.kind = 6 || e.millrd ≠ noGraph then (s, .data [])
    else if e.kind = 5 then
      if !s.fabricUp || (s.remoteCopy x.core (Policy.rank x.pol) e.data off 1).isSome then (s, .data [])
      else (s, .remote (e.data % 2 ^ 16) (bits e.data 16 12) off)
    else if s.heldBlocks id x.core (e.base + off) then (s, .wait)
    else match ps with
      | [] => (s, .data [])
      | p :: _ =>
        let line := p.loc / 128
        if !s.dev.portUp p.loc then (s, .data [])
        else if Tbl.mem s.ctx.custody line then (s.askReturn (x.core / 8) p.loc, .wait)
        else if max (Policy.rank x.pol) p.attr ≠ 0 then ((s.setDev fun d => d.bring (s.pickFor 3 line 16) line).keepLeaves e off 1, .data [])
        else (match s.copyOf x.core line with
          | some _ => (s, .data [])
          | none => ((s.fillCache x.core (x.gang % 64) line).keepLeaves e off 1, .data []))
  | _ => (s, .data [])

/-- What an atomic meets after R84 (R151). -/
def atomKind (e : Entry) (h off : Nat) (aop : Aop) : Option Err :=
  if e.millrd ≠ noGraph || e.millwr ≠ noGraph || (e.kind = 7 && aop ≠ .add && aop ≠ .xchg && aop ≠ .cas) then some (errAt cATOMIC h off) else none

/-- One request of a returning access. -/
def loadOne (s : State) (id : Nat) (x : Access) (r : Req) : State × Access :=
  let rest := { x with reqs := x.reqs.filter fun q => q.lane != r.lane, stall := Tbl.erase x.stall r.lane }
  if x.kind != .div && s.earlierOverlap id x r then (s, x)
  else
    let f := fun old => aopApply x.aop x.wd.bytes old r.data r.expect
    let (s, y, w) : State × Served × StoreSet := match x.kind with
      | .div => (s, .data (toBytes 4 r.data), .none)
      | .prefetch => let (s, y) := s.prefetch id x r; (s, y, .none)
      | .lds => let (s, y) := s.serveStash x r (Width.align x.wd) none; (s, y, .none)
      | .atoms => let (s, y) := s.serveStash x r x.wd.bytes (some f); (s, y, .none)
      | .atom =>
        (match s.checkParts x.gridId x.handle r.offset x.wd.bytes ⟨rR ||| rW ||| rATOM, x.wd.bytes, true, false⟩ with
         | .fail e => (s, .fault e, .none)
         | .miss p b => (s, .miss p (b % 4096 + 4096), .none)
         | .away w => (s, .away w, .none)
         | .ok (e, _) => (match atomKind e x.handle r.off x.aop with
           | some e => (s, .fault e, .none)
           | none => s.atomicAt id x r f))
      | _ => let (s, y) := s.serveLoad id x r; (s, y, .none)
    let note := fun (s : State) =>
      if x.kind == .atom then s.noteStore x.gang x.grid x.gridId x.core x.orphan (setKey pLSU (s.accClass x)) { w with seq := id } else s
    match y with
    | .data bs => ((s.seen x r (note s)).deliver id x r (ofBytes bs), if x.kind == .sld then { x with reqs := [] } else rest)
    | .fault e => (s, { (if x.kind == .sld then x else rest) with faults := x.faults ++ [(r.lane, e)] })
    | .miss p b => ((s.postMiss p b (x.kind == .atom || x.kind == .atoms) x.gridId).perfEvent x.core (x.gang % 64) 0x16 1, { x with stall := Tbl.set x.stall r.lane p })
    | .wait => (s, x)
    | .away w => (s.askRemote id w, x)
    | .remote _ _ off =>
      if !s.fabricUp then (s, { (if x.kind == .sld then x else rest) with faults := x.faults ++ [(r.lane, errAt cTIMEOUT x.handle off)] })
      else (s, goesOut x r)

/-- Whether an access goes to another device's buffer. -/
def toRemote (s : State) (x : Access) : Bool :=
  match x.kind with
  | .lds | .sts | .atoms | .div | .writeBack => false
  | _ => (s.entryOf x).kind == 5

/-- Whether an access waits for another device, for its time, or for pages with miss entries. -/
def accessHeld (s : State) (id : Nat) (x : Access) : Bool :=
  x.sent.isSome || decide (s.now < x.notBefore) || s.awaits id || s.pageHeld x

/-- LOAD_RESULT and the returning half of ATOMIC_PERFORM: some of the access's lanes are served (R145, R155, R156, R214). -/
def serveLanes (s : State) (id : Nat) (x : Access) : State :=
  if s.accessHeld id x then s
  else
    let (s, x) := if s.toRemote x then
        let y := (s.remoteReqs id x).foldl (fun (sx : State × Access) r => sx.1.loadOne id sx.2 r) (s, x)
        y.1.sendLanes id y.2
      else together (fun s x r => s.loadOne id x r) (s.nextReqs id x) s x
    if x.kind == .sld && x.reqs.isEmpty then s.finishLoad id x
    else if x.kind == .sld && !x.faults.isEmpty then s.finishLoad id x
    else if x.kind == .sld then s.setAccess id x
    else s.finishLoad id x

/-- An access after one of its writes has been answered. -/
def noted (w : StoreSet) (x : Access) : Access :=
  { x with erred := x.erred || w.err.isSome, reply := x.reply.map fun y => (y.1, mergeStore y.2 { w with seq := 0 }) }

/-- The outcome of a write, reduction or signal add joins the sets it belongs to; an access without a gang, or of an
engine, answers with one error (R176, assumption 62); its identifier is its place in issue order. -/
def noteAccess (s : State) (id : Nat) (x : Access) (w : StoreSet) : State :=
  let w := { (if x.erred && (x.orphan || x.work.isSome) then { w with err := none } else w) with seq := id }
  if x.reply.isSome then s
  else match x.work.bind s.work? with
  | some wk => s.setWork (x.work.getD 0) (Work.note wk (setKey x.path (s.accClass x)) w)
  | none => s.noteStore x.gang x.grid x.gridId x.core x.orphan (setKey x.path (s.accClass x)) w

/-- The bytes of each sector that located pieces cover, added to those the instruction has written before (R91). -/
def wroteMore (m : Tbl (BitVec 64)) (ps : List Piece) : Tbl (BitVec 64) :=
  ps.foldl (fun m p => (sectorsOf p.loc p.n).foldl (fun m i => Tbl.set m i (Tbl.get 0 m i ||| sectorMask i p.loc p.n)) m) m

/-- One request of a store, performed at its home (R145) or its stash bank (R146). -/
def storeOne (s : State) (id : Nat) (x : Access) (r : Req) : State × Access :=
  let rest := { x with reqs := x.reqs.filter fun q => q.lane != r.lane, stall := Tbl.erase x.stall r.lane }
  if s.earlierOverlap id x r then (s, x)
  else
    let n := x.wd.bytes
    let e := s.entryOf x
    let bad := fun (s : State) (c : Err) => (s.noteAccess id x ⟨0, some c, false, 0⟩, { rest with erred := true })
    if x.kind == .sts then (s.stashWrite x.team r.off (toBytes n r.data), rest)
    else if e.kind = 5 then
      if !s.fabricUp then bad s (errAt cTIMEOUT x.handle r.off)
      else (s, goesOut x r)
    else if s.heldBlocks id x.core (e.base + r.off) then (s, x)
    else match s.placeAll e x.handle (cutParts e 4 r.off n) with
      | .fail c => bad s c
      | .miss p b => ((s.postMiss p b true x.gridId).perfEvent x.core (x.gang % 64) 0x16 1, { x with stall := Tbl.set x.stall r.lane p })
      | .away .. => (s, x)
      | .ok ps =>
        match ps.findSome? fun p => s.pieceBlocked (x.core / 8) false p with
        | some l => (s.askReturn (x.core / 8) l, x)
        | none =>
          let (s, w) := s.writePieces (some x.core) (Policy.rank x.pol) x.handle r.off ps (toBytes n r.data)
          let wrote := wroteMore rest.wrote ps
          let whole := fun (t : Tbl (BitVec 64)) i => Tbl.get 0 t i == BitVec.allOnes 64
          let done := (Tbl.keys wrote).filter fun i => whole wrote i && !whole rest.wrote i
          let s := if w.err.isSome then s else done.foldl (fun s i => s.setDev (Dev.setMark · i false)) s
          (((s.seen x r s).keepLeaves e r.off n).noteAccess id x w, { noted w rest with wrote := wrote })

/-- A write-back of a fence or of a team's last exit (R128, R129). -/
def writeBackOne (s : State) (id : Nat) (x : Access) (r : Req) : State × Access :=
  let rest := { x with reqs := x.reqs.filter fun q => q.lane != r.lane, stall := Tbl.erase x.stall r.lane }
  let note := fun (s : State) (w : StoreSet) =>
    ((s.noteStore x.gang x.grid x.gridId x.core x.orphan (setKey pLSU false) { (if x.erred && x.orphan then { w with err := none } else w) with seq := id }).modTeam x.team fun t => { t with wct := max t.wct w.wct }, noted w rest)
  if s.stashPending id x.team (64 * r.lane) 64 AccKind.dirties then (s, x)
  else match s.writeBack x.gridId (x.gang % 64) x.team r.lane with
  | (s, .ok w) => note s w
  | (s, .fail e) => note s ⟨0, some e, false, 0⟩
  | (_, .miss p b) => (s.postMiss p b true x.gridId, { x with stall := Tbl.set x.stall r.lane p })
  | (_, .away w) => (s.askRemote id w, x)

/-- The engine of a job whose writes are all performed writes its token, at its due time (R71, R134, R173). -/
def settleWork (s : State) (id : Nat) : State :=
  match s.work? id with
  | none => s
  | some w => match w.fin with
    | none => s
    | some (cause, count, addr) =>
      if (s.ctx.accs.any fun a => a.2.work == some id) || (match w.due with
        | some t => decide (s.now < t)
        | none => false) then s
      else s.endWork id w cause count addr

/-- An answer to a requester on another device: 40 data, 41 written, 42 failed, with the detail of the check that failed and the
offset of the byte that failed (R251, R315).
(DESIGN CHOICE, assumption 14) -/
def answer (s : State) (dev op buf off x : Nat) (bs : List Byte) : State := s.sendRemote dev [op, buf, off, x] bs
def refuse (s : State) (dev buf off : Nat) (e : Err) : State := s.answer dev 42 buf off (e.cause + e.info % 16 * 2 ^ 8) (toBytes 8 (e.addr % 2 ^ 52))

/-- An access with nothing left to do is done: it may have been the last that its engine waited for, and another device's write is
answered. -/
def keepAccess (s : State) (id : Nat) (x : Access) : State :=
  if !x.reqs.isEmpty then s.setAccess id x
  else match x.work, x.reply with
    | some w, _ => (s.dropAccess id).settleWork w
    | none, some (dev, w) => (match w.err with
      | some e => (s.dropAccess id).refuse dev x.handle (e.addr % 2 ^ 52) e
      | none => (s.dropAccess id).answer dev 41 x.handle 0 w.wct [])
    | none, none => s.dropAccess id

/-- STORE_PERFORM: some lanes of a store, in the order of R144, or a write-back. -/
def performStores (s : State) (id : Nat) (x : Access) : State :=
  if s.accessHeld id x then s
  else if x.kind == .writeBack then
    let (s, x) := together (fun s x r => s.writeBackOne id x r) (s.nextReqs id x) s x
    s.keepAccess id x
  else
    let (s, x) := if s.toRemote x then
        let y := (s.remoteReqs id x).foldl (fun (sx : State × Access) r => sx.1.storeOne id sx.2 r) (s, x)
        y.1.sendLanes id y.2
      else together (fun s x r => s.storeOne id x r) (s.nextReqs id x) s x
    s.keepAccess id x

/-- One reduction or signal add at its point (R157, R158, R257, R259). A held reduction whose service is fatal goes to the log as well as to
its gang's next fence (R158). A page fault, or a page
that has a miss entry already (R322), places it in its slice's fault-hold queue. -/
def reduceOne (s : State) (id : Nat) (x : Access) (r : Req) : State × Access :=
  let rest := { x with reqs := x.reqs.filter fun q => q.lane != r.lane, stall := Tbl.erase x.stall r.lane }
  if s.earlierOverlap id x r then (s, x)
  else
    let f := fun old => if x.kind == .signal then min (old + r.data) (2 ^ 64 - 1) else aopApply x.aop x.wd.bytes old r.data 0
    let page := s.reqVa x r / 2 ^ 16
    let e := s.entryOf x
    -- with the slice's queue full, the reduction waits at the port
    let queue := fun (s : State) (p b : Nat) =>
      if 256 ≤ (s.heldIn (sliceOf (s.reqVa x r))).length then ((s, x) : State × Access)
      else
        let s := (s.postMiss p b true x.gridId).perfEvent x.core (x.gang % 64) 0x16 1
        let s := if s.ctx.redHold.contains id then s else s.setCtx fun c => { c with redHold := c.redHold ++ [id] }
        (s, { x with stall := Tbl.set x.stall r.lane p })
    if e.kind = 1 && !s.ctx.redHold.contains id && Tbl.mem s.ctx.misses page then queue s page (x.handle % 4096)
    else match s.atomicAt id x r f with
    | (s, .data _, w) => ((s.seen x r s).noteAccess id x w, noted w rest)
    | (s, .fault e, _) =>
      let s := if e.cause = cPAGEFATAL && s.ctx.redHold.contains id && !x.orphan then s.logError x.grid x.gridId 0 x.core (s.gang x.gang).gangIdx e 0 else s
      (s.noteAccess id x ⟨0, some e, false, 0⟩, { rest with erred := true })
    | (s, .miss p b, _) => queue s p b
    | (s, .wait, _) => (s, x)
    | (s, .away .., _) => (s, x)
    | (s, .remote _ _ off, _) =>
      if !s.fabricUp then (s.noteAccess id x ⟨0, some (errAt cTIMEOUT x.handle off), false, 0⟩, { rest with erred := true })
      else (s, goesOut x r)

def performReds (s : State) (id : Nat) (x : Access) : State :=
  if s.accessHeld id x then s
  else
    let (s, x) := if s.toRemote x then
        let y := (s.remoteReqs id x).foldl (fun (sx : State × Access) r => sx.1.reduceOne id sx.2 r) (s, x)
        y.1.sendLanes id y.2
      else together (fun s x r => s.reduceOne id x r) (s.nextReqs id x) s x
    let s := if x.reqs.isEmpty then s.setCtx fun c => { c with redHold := c.redHold.filter (· != id) } else s
    s.keepAccess id x

/-- The store-set key of custody return writes, which only a FENCE.rel of device or system scope on the LSU path waits for (R154, R174). -/
def returnKey : Nat := setKey 7 false

/-- CUSTODY_RETURN: the line is written at its home as one store, and its WCT joins the sets of the gangs whose atomics it holds
(R154, R174); an error joins their LSU sets. A poisoned sector, which no atomic has changed, keeps its mark (R90). Instructions held for the
line go on. -/
def returnLine (s : State) (line : Nat) : State :=
  match Tbl.find? s.ctx.custody line with
  | none => s
  | some c =>
    let s := s.setCtx fun x => { x with custody := Tbl.erase x.custody line }
    let bad := [2 * line, 2 * line + 1].filter s.dev.poisoned
    let (s, w) := s.performWrite (128 * line) (s.dev.mem.readBytes (128 * line) 128)
    let s := (bad.foldl (fun s i => s.setDev (Dev.setMark · i true)) s).releaseRemote
    c.users.foldl (fun s u =>
      let note := fun (s : State) (key : Nat) (w : StoreSet) => s.noteStore u.1 u.2 (Rec.gridId (s.grid u.2).record) (u.1 / 64)
        (!(s.gang u.1).live || s.gridOf u.1 != u.2) key w
      let s := note s returnKey { w with err := none }
      if w.err.isSome then note s (setKey pLSU false) { w with wct := 0 } else s) s

/-- Bytes that a Mill has stored for the lanes that wrote in a beat of an access. -/
def beatSeen (s : State) (x : Access) (k loc : Nat) (bs : List Byte) : State :=
  if x.work.isSome || x.reply.isSome || bs.isEmpty then s
  else s.millSeen x.core x.gang (x.lanesOf true ⟨0, 64 * k, 0, 0⟩) loc bs

/-- MILL_WRITE_BEAT: the beats of a store through a Mill write graph, in ascending order (R105 to R109). A beat that an encode graph
has admitted keeps `lane` 1 until its tile closes. The GEN check of a beat whose page was missing at issue comes first (R84). -/
def millBeat (s : State) (id : Nat) (x : Access) (slot : Nat) (r : Req) : State × Access × Bool :=
  let rest := { x with reqs := x.reqs.filter fun q => q.off != r.off, stall := [] }
  let e := s.entryOf x
  let k := r.off / 64
  let whole := r.expect == 2 ^ 64 - 1
  let bs := toBytes 64 r.data
  let stall := fun (p b : Nat) => (s.postMiss p b true x.gridId, { x with stall := Tbl.set x.stall r.lane p }, false)
  let away := fun (w : Away) => (s.askRemote id w, x, false)
  let fails := fun (s : State) (y : Err) => (s.noteAccess id x ⟨0, some y, false, 0⟩, { rest with erred := true }, true)
  let gated : Port Unit := if !x.gate.contains k then .ok ()
    else (s.beatPlace e x.handle k slot).bind fun _ => match s.gateOf e x.handle r.off true with
      | .error y => .fail y
      | .ok _ => .ok ()
  match gated with
  | .fail y => fails s y
  | .miss p b => stall p b
  | .away w => away w
  | .ok _ =>
  if imgMode (s.millSlot slot).image = 1 then
    match s.millAdmit x.gridId e x.handle k slot id bs whole with
    | (s, .fail y) => fails s y
    | (_, .miss p b) => stall p b
    | (_, .away w) => away w
    | (s, .ok none) => (s, x, false)
    | (s, .ok (some _)) => (s, { x with reqs := x.reqs.map fun q => if q.off = r.off then { q with lane := 1 } else q, stall := [] }, true)
  else if !whole then match s.millPartial e x.handle k slot with
    | (s, .ok w) => (s.noteAccess id x w, noted w rest, true)
    | (s, .fail y) => fails s y
    | (_, .miss p b) => stall p b
    | (_, .away w) => away w
  else match s.millWriteBeatAt e x.handle k slot bs with
    | (s, .fail y) => fails s y
    | (_, .miss p b) => stall p b
    | (_, .away w) => away w
    | (s, .ok w) => ((s.beatSeen x k w.2.1 w.2.2).noteAccess id x w.1, noted w.1 rest, true)

/-- A full tile context closes: planned once, then written, and every beat of it has the outcome in its response (R109). What it asks of
another device is asked for its first beat. -/
def closeFull (s : State) (ch slot i : Nat) : State :=
  match (s.millPart ch slot).ctxs[i]? with
  | none => s
  | some c =>
    let ms := s.millSlot slot
    let img := match ms.draining with
      | some (g, im) => if ms.gen = some c.gen then ms.image else if g = c.gen then im else ms.image
      | none => ms.image
    let key := (c.waiters.head?.map Prod.fst).getD 0
    let seen := fun (h off : Nat) (bs : List Byte) (s : State) => match s.rangePieces (s.entry h) h off bs.length with
      | .ok ps => c.waiters.foldl (fun s (u : Nat × Nat) => match s.access? u.1 with
        | some x => (ps.foldl (fun (sb : State × List Byte) p => (sb.1.beatSeen x (u.2 / 64) p.loc (sb.2.take p.n), sb.2.drop p.n)) (s, bs)).1
        | none => s) s
      | _ => s
    let keep := fun (s : State) (c : TileCtx) =>
      let part := s.millPart ch slot
      s.setMillPart ch slot { part with ctxs := part.ctxs.set i c }
    let done := fun (s : State) (w : StoreSet) =>
      let part := s.millPart ch slot
      let s := s.setMillPart ch slot { part with ctxs := part.ctxs.eraseIdx i }
      (c.waiters.foldl (fun s (u : Nat × Nat) => match s.access? u.1 with
        | none => s
        | some x => (s.noteAccess u.1 x { w with err := w.err.map fun e => { e with addr := bref x.handle u.2 } }).keepAccess u.1
            { noted w x with reqs := x.reqs.filter fun q => q.off != u.2 }) s).drainSlot slot
    if c.beats.length < tileBeats (imgBf img) then s
    else match c.left with
      | some ps =>
        let ps := ps.rotateLeft (s.pickFor 13 c.tile ps.length)
        let (t, ps, w, x) := closeWrites c.gridId seen (if s.pickFor 12 c.tile 2 = 0 then ps.length else 1) ps c.wrote { s with eng := some key }
        let t := { t with eng := s.eng }
        (match ps, x with
         | [], _ =>
           let part := t.millPart ch slot
           done (t.setMillPart ch slot { part with tiles := min (part.tiles + 1) (2 ^ 32 - 1) }) w
         | ps, none => keep t { c with left := some ps, wrote := w }
         | ps, some x => (keep t { c with left := some ps, wrote := w }).askRemote key x)
      | none => match { s with eng := some key }.closePlan ch slot c img with
        | (_, .fail _) => s
        | (_, .miss p b) => s.postMiss p b true c.gridId
        | (_, .away w) => s.askRemote key w
        | (t, .ok (.error e)) => done { t with eng := s.eng } ⟨0, some e, false, 0⟩
        | (t, .ok (.ok (ps, w))) => keep { t with eng := s.eng } { c with left := some ps, wrote := w }

/-- Every full context of a slot tries to close. -/
def closeTiles (s : State) (slot : Nat) : State :=
  s.ctx.mills.foldl (fun s m =>
    if m.1 % 8 = slot then (List.range m.2.ctxs.length).foldr (fun i s => s.closeFull (m.1 / 8) slot i) s else s) s

/-- Whether a beat may enter its Mill: behind every beat over the same stored bytes that the port admitted before it (R107), and behind
its own lanes' earlier accesses to them (R169). -/
def beatReady (s : State) (id : Nat) (x : Access) (slot : Nat) (r : Req) : Bool :=
  let (bh, off, n, _) := s.backing (s.entryOf x) x.handle (r.off / 64) slot
  !s.beatBefore id bh off n && !s.earlierOverlap id x r

def performMill (s : State) (id : Nat) (x : Access) : State :=
  if s.accessHeld id x then s
  else
    let slot := (s.entryOf x).millwr
    let todo := (x.reqs.filter fun r => r.lane == 0).mergeSort fun a b => a.off ≤ b.off
    let gen := (s.entryOf x).gen
    let (s, x, _) := todo.foldl (fun (sx : State × Access × Bool) r =>
      if sx.2.2 then sx.1.asGeneration slot gen fun s => if s.beatReady id sx.2.1 slot r then s.millBeat id sx.2.1 slot r else (s, sx.2.1, false)
      else sx) (s, x, true)
    ((s.keepAccess id x).closeTiles slot).drainSlot slot

end State

end Sys2Proof.Machine
end

