-- ==== Sys2Proof/Machine/MemInstr.lean ====
section
/-! DEFINITION. The lane and uniform memory instructions (R137 to R158): what each does at issue. Returning accesses make their port
checks when they are served, stores and reductions at issue. -/

namespace Sys2Proof.Machine

open Sys2Proof

/-- The offset of R138: exact, then kept modulo 2^64. -/
def memOff (v : Word) (imm : Int) (n : Nat) : Int := v.toNat + imm * n

/-- An immediate of ten bits (R138). -/
def imm10 (imm : BitVec 10) : Int := imm.toInt

/-- One request for each executing lane. -/
def At.requests (a : At) (f : Nat → Req) : List Req := a.exec.map f

/-! Returning accesses. -/

def execLd (g : LGuard) (vd : VReg) (hs : SReg) (vo : VReg) (la : Fin 16) (wd : Width) (pol : Policy) (imm : BitVec 10)
    (s : State) : Host.Outcome State Fault Refusal :=
  issue (.ld g vd hs vo la wd pol imm)
    (fun a s =>
      let gg := s.gang a.gang
      let x := { a.access s .load with
        handle := (gg.sreg hs).toNat, wd := wd, pol := pol, reg := vd, la := la,
        reqs := a.requests fun l => ⟨l, wrap 64 (memOff ((gg.lane l).reg vo) (imm10 imm) wd.bytes), 0, 0⟩ }
      .done (a.launch s x a.exec)) s

def execLds (g : LGuard) (vd : VReg) (hs : SReg) (vo : VReg) (la : Fin 16) (wd : Width) (imm : BitVec 10)
    (s : State) : Host.Outcome State Fault Refusal :=
  issue (.lds g vd hs vo la wd imm)
    (fun a s =>
      let gg := s.gang a.gang
      let x := { a.access s .lds with
        wd := wd, reg := vd, la := la,
        reqs := a.requests fun l =>
                   ⟨l, wrap 64 ((gg.sreg hs).toNat + memOff ((gg.lane l).reg vo) (imm10 imm) wd.bytes), 0, 0⟩ }
      .done (a.launch s x a.exec)) s

/-- The operand and the expected value of an atomic are read at issue (R155). -/
def execAtom (g : LGuard) (vd va : VReg) (hs : SReg) (vo : VReg) (la : Fin 16) (wd : Width) (aop : Aop) (sc : Scope)
    (s : State) : Host.Outcome State Fault Refusal :=
  issue (.atom g vd va hs vo la wd aop sc)
    (fun a s =>
      let gg := s.gang a.gang
      let x := { a.access s .atom with
        handle := (gg.sreg hs).toNat, wd := wd, aop := aop, scope := sc, reg := vd, la := la,
        reqs := a.requests fun l =>
                   ⟨l, ((gg.lane l).reg vo).toNat, (gg.lane l).wide va wd, (gg.lane l).wide vd wd⟩ }
      .done (a.launch s x a.exec)) s

def execAtoms (g : LGuard) (vd va : VReg) (hs : SReg) (vo : VReg) (la : Fin 16) (wd : Width) (aop : Aop) (sc : Scope)
    (s : State) : Host.Outcome State Fault Refusal :=
  issue (.atoms g vd va hs vo la wd aop sc)
    (fun a s =>
      let gg := s.gang a.gang
      let x := { a.access s .atoms with
        wd := wd, aop := aop, scope := sc, reg := vd, la := la,
        reqs := a.requests fun l =>
                   ⟨l, (gg.sreg hs).toNat + ((gg.lane l).reg vo).toNat, (gg.lane l).wide va wd, (gg.lane l).wide vd wd⟩ }
      .done (a.launch s x a.exec)) s

/-- SLD is one request of the uniform stream; its `expect` keeps the issuing set, which is also TLANES of its faults (R149). -/
def execSld (u : UGuard) (sd sa sb : SReg) (la : Fin 16) (wd : Width) (pol : Policy) (imm : BitVec 11)
    (s : State) : Host.Outcome State Fault Refusal :=
  issue (.sld u sd sa sb la wd pol imm)
    (fun a s =>
      let gg := s.gang a.gang
      let x := { a.access s .sld with
        handle := (gg.sreg sa).toNat, wd := wd, pol := pol, reg := sd, la := la,
        reqs := [⟨64, wrap 64 (memOff (gg.sreg sb) imm.toInt wd.bytes), 0, a.set.toNat⟩] }
      .done (a.launch s x (laneList a.set))) s

/-! Stores and reductions. -/

/-- The checks a store makes at issue: R84, with PAGE_FATAL trapping here (R142) and the gate of a write graph. A replayable page fault passes,
and what comes after translation waits for it. No graph binds to another device's buffer (DESIGN CHOICE, assumption 73). -/
def State.storeCheck (s : State) (gridId h : Nat) (off : Int) (n align : Nat) : Option Err :=
  match s.checkParts gridId h off n ⟨rW, align, false, false⟩ with
  | .fail e => some e
  | .ok (e, _) => if e.kind = 5 && e.milled true then some (errAt cHANDLE h off.toNat) else none
  | _ => none

/-- The beats of a request whose page is missing: their GEN check is still to be made (R84). -/
def State.ungated (s : State) (x : Access) (r : Req) : List Nat :=
  match s.checkParts x.gridId x.handle r.offset x.wd.bytes ⟨rW, 1, false, false⟩ with
  | .miss .. => [r.off / 64, (r.off + x.wd.bytes - 1) / 64]
  | _ => []

/-- The lanes that write in each beat of a store; the uniform stream is no lane. -/
def beatLanes (x : Access) : Tbl (BitVec 64) :=
  x.reqs.foldl (fun t r => if r.lane < 64 then
    [r.off / 64, (r.off + x.wd.bytes - 1) / 64].foldl (fun t k => Tbl.set t k (Tbl.get 0 t k ||| laneBit r.lane)) t else t) []

/-- The store goes out: its requests as they are, or as beats of a write graph. -/
def State.sendStore (s : State) (x : Access) : State :=
  if x.reqs.isEmpty then s
  else
    let raw := s.entryRaw (x.handle % 4096)
    if (s.entry (x.handle % 4096)).millWrites then
      s.addAccess { x with ent := raw, reqs := beatReqs (x.reqs.map fun r => (r.off, toBytes x.wd.bytes r.data)), wrote := beatLanes x,
                             gate := x.reqs.flatMap (s.ungated x) }
    else s.addAccess { x with ent := raw }

/-- Requests split into those that pass a check and the faults of the others. -/
def splitReqs (check : Req → Option Err) (rs : List Req) : List Req × List (Nat × Err) :=
  (rs.filter fun r => (check r).isNone, rs.filterMap fun r => (check r).map (r.lane, ·))

def execSt (g : LGuard) (vd : VReg) (hs : SReg) (vo : VReg) (wd : Width) (pol : Policy) (imm : BitVec 10)
    (s : State) : Host.Outcome State Fault Refusal :=
  issue (.st g vd hs vo wd pol imm)
    (fun a s =>
      let gg := s.gang a.gang
      let h := (gg.sreg hs).toNat
      let rs := a.requests fun l =>
        ⟨l, wrap 64 (memOff ((gg.lane l).reg vo) (imm10 imm) wd.bytes), (gg.lane l).wide vd wd, 0⟩
      let (ok, bad) := splitReqs (fun r => s.storeCheck (s.gridIdOf a.gang) h r.offset wd.bytes (Width.align wd)) rs
      let x := { a.access s .store with handle := h, wd := wd, pol := pol, reqs := ok }
      a.laneFaults ((a.step s).sendStore x) bad) s

def execSts (g : LGuard) (vd : VReg) (hs : SReg) (vo : VReg) (wd : Width) (imm : BitVec 10)
    (s : State) : Host.Outcome State Fault Refusal :=
  issue (.sts g vd hs vo wd imm)
    (fun a s =>
      let gg := s.gang a.gang
      let rs := a.requests fun l =>
        ⟨l, wrap 64 ((gg.sreg hs).toNat + memOff ((gg.lane l).reg vo) (imm10 imm) wd.bytes), (gg.lane l).wide vd wd, 0⟩
      let check := fun (r : Req) => match s.stashCheck gg.team r.offset wd.bytes (Width.align wd) with
        | some e => some e
        | none => (s.stashReadOnly gg.team r.off wd.bytes).map fun _ => stashErr cRIGHTS r.off
      let (ok, bad) := splitReqs check rs
      let x := { a.access s .sts with wd := wd, reqs := ok }
      a.laneFaults (if ok.isEmpty then a.step s else (a.step s).addAccess x) bad) s

def execSst (u : UGuard) (sd sa sb : SReg) (wd : Width) (pol : Policy) (imm : BitVec 11)
    (s : State) : Host.Outcome State Fault Refusal :=
  issue (.sst u sd sa sb wd pol imm)
    (fun a s =>
      let gg := s.gang a.gang
      let h := (gg.sreg sa).toNat
      let off := memOff (gg.sreg sb) imm.toInt wd.bytes
      match s.storeCheck (s.gridIdOf a.gang) h off wd.bytes (Width.align wd) with
      | some e => .trap s a.set e.cause e.addr e.info
      | none =>
        let v := if wd.regs = 2 then gg.spair sd else (gg.sreg sd).toNat % 2 ^ (8 * wd.bytes)
        .done ((a.step s).sendStore { a.access s .store with handle := h, wd := wd, pol := pol, reqs := [⟨64, off.toNat, v, 0⟩] })) s

/-- The checks of a reduction at issue (R84, R151): all but translation, whose faults come later (R157). An offset below 0 is named modulo
2^52 (DESIGN CHOICE, assumption 71). -/
def State.atomCheck (s : State) (gridId h : Nat) (off : Int) (n : Nat) (aop : Aop) : Option Err :=
  let q : Need := ⟨rR ||| rW ||| rATOM, n, true, false⟩
  match s.check gridId h off n q with
  | .error c => some (errAt c h (wrap 52 off))
  | .ok e => (s.gates e h off.toNat q).or (State.atomKind e h off.toNat aop)

def execRed (g : LGuard) (va : VReg) (hs : SReg) (vo : VReg) (wd : Width) (aop : Aop) (sc : Scope)
    (s : State) : Host.Outcome State Fault Refusal :=
  issue (.red g va hs vo wd aop sc)
    (fun a s =>
      let gg := s.gang a.gang
      let h := (gg.sreg hs).toNat
      let rs := a.requests fun l => ⟨l, ((gg.lane l).reg vo).toNat, (gg.lane l).wide va wd, 0⟩
      let (ok, bad) := splitReqs (fun r => s.atomCheck (s.gridIdOf a.gang) h r.offset wd.bytes aop) rs
      let x := { a.access s .red with handle := h, wd := wd, aop := aop, scope := sc, reqs := ok,
                                      ent := s.entryRaw (h % 4096) }
      a.laneFaults (if ok.isEmpty then a.step s else (a.step s).addAccess x) bad) s

/-! PF and LEA. -/

/-- PF puts its requests out and goes on; nothing waits for them (R147). -/
def execPf (g : LGuard) (hs : SReg) (vo : VReg) (wd : Width) (pol : Policy) (imm : BitVec 10) (s : State) :
    Host.Outcome State Fault Refusal :=
  issue (.pf g hs vo wd pol imm)
    (fun a s =>
      let gg := s.gang a.gang
      .done ((a.step s).addAccess { a.access s .prefetch with
        handle := (gg.sreg hs).toNat, wd := wd, pol := pol,
        reqs := a.requests fun l => ⟨l, wrap 64 (memOff ((gg.lane l).reg vo) (imm10 imm) wd.bytes), 0, 0⟩ })) s

/-- LEA forms {s[HS][11:0], off mod 2^52} (R148). -/
def execLea (g : LGuard) (vd : VReg) (hs : SReg) (vo : VReg) (wd : Width) (imm : BitVec 10) (s : State) :
    Host.Outcome State Fault Refusal :=
  issue (.lea g vd hs vo wd imm)
    (fun a s =>
      let h := ((s.gang a.gang).sreg hs).toNat
      laneOp (fun _ l => l.setWide vd .d (bref h (wrap 52 (memOff (l.reg vo) (imm10 imm) wd.bytes)))) (fun _ _ _ => 0) a s) s

/-! Their events. -/

/-- Whether an access in flight is a returning one: it is served by LOAD_RESULT or ATOMIC_PERFORM. -/
def AccKind.returns : AccKind → Bool
  | .load | .lds | .sld | .div | .atom | .atoms | .prefetch => true
  | _ => false

def AccKind.isAtomic : AccKind → Bool
  | .atom | .atoms | .red => true
  | _ => false

/-- An event on an access in flight, where there is one of its kind. -/
def State.onAccess (s : State) (id : Nat) (p : Access → Bool) (f : State → Access → State) : Host.Outcome State Fault Refusal :=
  match s.access? id with
  | some x => .next (if p x then { f { s with eng := some id } x with eng := none } else s)
  | none => .next s

/-- LOAD_RESULT: a load, an LDS, an SLD or a quotient returns to some of its lanes (R145, R146, R214). -/
def execLoadResult (id : Nat) (s : State) : Host.Outcome State Fault Refusal :=
  s.onAccess id (fun x => x.kind.returns && !x.kind.isAtomic) fun s x => s.serveLanes id x

/-- STORE_PERFORM: some lanes of a store are performed, or a sector of a write-back (R145, R146, R128). -/
def execStorePerform (id : Nat) (s : State) : Host.Outcome State Fault Refusal :=
  s.onAccess id (fun x => (x.kind == .store || x.kind == .sts || x.kind == .sst || x.kind == .writeBack) && !s.beatAccess x)
    fun s x => s.performStores id x

/-- ATOMIC_PERFORM: atomics and reductions at their points (R153 to R158). -/
def execAtomicPerform (id : Nat) (s : State) : Host.Outcome State Fault Refusal :=
  s.onAccess id (fun x => x.kind.isAtomic) fun s x => if x.kind == .red then s.performReds id x else s.serveLanes id x

/-- CUSTODY_RETURN (R154). -/
def execCustodyReturn (line : Nat) (s : State) : Host.Outcome State Fault Refusal := .next (s.returnLine line)

/-- MILL_WRITE_BEAT: beats of a store through a write graph (R105 to R109). -/
def execMillWriteBeat (id : Nat) (s : State) : Host.Outcome State Fault Refusal :=
  s.onAccess id s.beatAccess fun s x => s.performMill id x

/-- SIGNAL_ADD: an add of SIGADD, of a transfer's SIG or of a completion at its point (R257, R259). -/
def execSignalAdd (id : Nat) (s : State) : Host.Outcome State Fault Refusal :=
  s.onAccess id (fun x => x.kind == .signal) fun s x => s.performReds id x

end Sys2Proof.Machine
end

