-- ==== Sys2Proof/Machine/Engine.lean ====
section
/-! DEFINITION. Asynchronous instructions as jobs of engines (R71, R173, R184, R185): how one starts, is attempted, and writes its
token; and the instructions that wait on tokens and grant permits (R182, R183, R190). -/

namespace Sys2Proof.Machine

open Sys2Proof

/-- The job of an instruction at issue. -/
def At.work (a : At) (s : State) (tok op10 : Nat) (job : Job) : Work :=
  { job := job, op10 := op10, gang := a.gang, core := a.core, team := (s.gang a.gang).team, grid := s.gridOf a.gang,
    gridId := s.gridIdOf a.gang, tok := tok, cause := 0, faultAt := 0, stores := [], errs := [], stall := none, sent := none, fin := none,
    due := none, trigger := none, orphan := false, info := 0, parts := [], since := s.now, born := s.ticks, begun := [], failed := none }

/-- The token register is marked pending and the work handed to its engine (R71). -/
def At.start (a : At) (s : State) (tok op10 : Nat) (job : Job) : State :=
  ((a.step s).addWork (a.work s tok op10 job)).modGang a.gang fun g => { g with tokens := Tbl.set g.tokens tok s.ctx.nextId }

namespace State

def countWorks (s : State) (p : Work → Bool) : Nat := (s.ctx.works.filter fun w => p w.2).length

def modWork (s : State) (id : Nat) (f : Work → Work) : State :=
  match s.work? id with
  | some w => s.setWork id (f w)
  | none => s

/-- A write of the job in hand joins the sets it will bring to its token's reading; TADDR of an error names the write. -/
def noteWork (s : State) (id h : Nat) (x : StoreSet) : State :=
  s.modWork id fun w => Work.note w (setKey (pathOf w.op10) (s.sysClass h)) x

/-- The engine is done: the beats it left partly covered go out, and its token is written once its writes are performed. -/
def finishWork (s : State) (id cause count addr : Nat) : State :=
  ((s.flushBeats id).modWork id fun w => { w with fin := some (cause, count, addr) }).settleWork id

/-- The detail of a job's fault goes to its token's reader and to the log (R315, R323). -/
def noteInfo (s : State) (id : Nat) (e : Option Err) : State :=
  match e with
  | some e => s.modWork id fun w => { w with info := e.info }
  | none => s

/-- A job ends with a fault. -/
def failWork (s : State) (id count : Nat) (e : Err) : State := (s.noteInfo id (some e)).finishWork id e.cause count e.addr

/-- LSU stash writes that a gang issued before an identifier and that are still in flight, whether or not it has exited since (R230,
R264). -/
def stashWritesPending (s : State) (gang before : Nat) : Bool :=
  s.ctx.accs.any fun x => x.1 < before && (x.2.kind == .sts || x.2.kind == .atoms) && x.2.gang == gang

/-- The jobs of the Loom chapter that read the stash (R230). -/
def loomReads : Job → Bool
  | .mmb .. | .mout .. | .mloop .. | .qscale .. | .qsplit .. | .cld .. => true
  | _ => false

/-- Whether a job waits: for a page, for another device, for stash writes before it (R230), or only for its writes. -/
def workHeld (s : State) (id : Nat) (w : Work) : Bool :=
  w.fin.isSome || s.awaits id || (match w.stall with
    | some p => Tbl.mem s.ctx.misses p
    | none => false) || (loomReads w.job && s.stashWritesPending w.gang id)

/-- An engine's event: an attempt that either has its whole effect, ends the job with a cause, or waits and changes nothing else. -/
def attempt (s : State) (id : Nat) (f : Work → State → State × Port Unit) : State :=
  match s.work? id with
  | none => s
  | some w =>
    if s.workHeld id w then s
    else match f w { s with eng := some id } with
      | (t, .ok _) => { t with eng := none }
      | (t, .fail e) => { t.failWork id 0 e with eng := none }
      | (_, .miss p b) =>
        ((s.postMiss p b false w.gridId).perfEvent w.core (w.gang % 64) 0x16 1).setWork id { w with stall := some p }
      | (_, .away w) => s.askRemote id w

/-- Stash bytes as they stand, read by an engine: fetch faults and poison end it, at the first byte that fails. -/
def engStashNow (s : State) (w : Work) (team so n : Nat) : State × Port (List Byte) :=
  andThen (s.stashRead w.gridId (w.gang % 64) team so n) fun s y => (s, match y.2 with
    | some o => .fail (stashErr cPOISON o)
    | none => .ok y.1)

/-- Stash bytes that stand at a place, as the engine in hand may read them: old or new where nothing orders them (R13, R173). -/
def engMixed (s : State) (w : Work) (team so : Nat) (bs : List Byte) : List Byte :=
  s.stashMixed w.gang (pathOf w.op10) team so (s.engAged s.ctx.poolPast (s.poolLoc team so) bs)

/-- A read of the issuing team's stash by an engine: fetch faults and poison end it, at the first byte that fails (R91, R129, R184). -/
def engStash (s : State) (w : Work) (team so n : Nat) : State × Port (List Byte) :=
  andThen (s.engStashNow w team so n) fun s bs => (s, .ok (s.engMixed w team so bs))

/-- A write of memory by an engine: an error of any kind goes to the write's response (R145, R176). -/
def engWrite (s : State) (id : Nat) (w : Work) (h : Nat) (ws : List (Nat × List Byte)) (align : Nat) : State × Port Unit :=
  match memWriteAll w.gridId h ws ⟨rW, align, false, false⟩ s with
  | (s, .ok x) => (s.noteWork id h x, .ok ())
  | (s, .fail e) => (s.noteWork id h ⟨0, some e, false, 0⟩, .ok ())
  | (s, .miss p b) => (s, .miss p b)
  | (s, .away w) => (s, .away w)

/-- The alignment of an element of e bytes (R84). -/
def elemAlign (e : Nat) : Nat := min e 4

end State

/-! Instructions that read memory as they issue. -/

/-- The issuing set waits at the instruction for a page (R384). -/
def At.pageHold (a : At) (s : State) (page buf : Nat) : State :=
  let s := s.postMiss page buf false (s.gridIdOf a.gang)
  let h := s.ctx.nextId
  a.holdLanes (s.addHold { kind := .page page, gang := a.gang, lanes := a.set, pc := a.pc, accs := [], err := none }) h

/-- The issuing set waits at the instruction for another device's answer, kept under a key. -/
def At.remoteHold (a : At) (s : State) (key : Nat) (w : Away) : State :=
  let s := s.askRemote key w
  let h := s.ctx.nextId
  a.holdLanes (s.addHold { kind := .remote, gang := a.gang, lanes := a.set, pc := a.pc, accs := [], err := none }) h

/-- An instruction that must read memory before it goes on: faults are precise, and a page or another device is waited for at the
instruction, which is then made again. -/
def At.reading {α : Type} (a : At) (s : State) (f : State → State × Port α) (ok : State → α → Res) : Res :=
  match f { s with eng := some (gangAsk a.gang) } with
  | (t, .ok v) => ok ({ t with eng := none }.setCtx fun c => { c with replies := Tbl.erase c.replies (gangAsk a.gang) }) v
  | (_, .fail e) => .trap s a.set e.cause e.addr e.info
  | (_, .miss p b) => .hold (a.pageHold s p b)
  | (_, .away .beat) => .stall
  | (_, .away w) => .hold (a.remoteHold s (gangAsk a.gang) w)

/-! TWAIT, TTEST and CPERMIT. -/

/-- TWAIT waits for the token, and its reading brings the engine's writes; CHK traps on a cause (R183). (DEDUCED, assumption 66) -/
def execTwait (z : ZReg) (sa : SReg) (chk : Bool) (s : State) : Host.Outcome State Fault Refusal :=
  issue (.twait z sa chk)
    (fun a s =>
      let g := s.gang a.gang
      if Tbl.mem g.tokens sa then .hold (a.block (.twait sa) s)
      else
        let s := s.readToken a.gang sa
        let v := (g.sreg sa).toNat
        if chk && bit v 31 && bits v 24 7 != 0 then .trap s a.set (bits v 24 7) (Tbl.get 0 g.engFault sa) (Tbl.get 0 g.engInfo sa)
        else .done (a.step s)) s

def execTtest (z : ZReg) (sd sa : SReg) (zo : ZReg) (s : State) : Host.Outcome State Fault Refusal :=
  issue (.ttest z sd sa zo)
    (gangOp fun g =>
      if Tbl.mem g.tokens sa then (g.setS sd 0).setZ zo false else (g.setS sd (g.sreg sa)).setZ zo true) s

/-- Stash reads of the LSU path that a gang has in flight (R190). -/
def State.stashReadsPending (s : State) (gang : Nat) : Bool :=
  s.ctx.accs.any fun x => (x.2.kind == .lds || x.2.kind == .atoms) && x.2.gang == gang && !x.2.orphan

def State.permit (s : State) (team k n : Nat) : State :=
  s.modTeam team fun t => { t with permits := Tbl.set t.permits k (min (Tbl.get 0 t.permits k + n) 65535) }

def execCpermit (z : ZReg) (sa : SReg) (k : Fin 16) (s : State) : Host.Outcome State Fault Refusal :=
  issue (.cpermit z sa k)
    (fun a s =>
      if s.stashReadsPending a.gang then .stall
      else
        let g := s.gang a.gang
        .done ((a.step s).permit g.team k ((g.sreg sa).toNat % 2 ^ 16))) s

end Sys2Proof.Machine
end

