-- ==== Sys2Proof/Machine/BarObj.lean ====
section
/-! DEFINITION. Barrier objects (R309): their layout, arrivals by gangs (R311) and by Carters (R191). -/

namespace Sys2Proof.Machine

/-- The fields of R309. -/
structure BarObj where
  expect : Nat
  pending : Nat
  phase : Nat
  overrun : Bool
  init : Bool
  cbytes : Nat
  ocore : Nat
  ogang : Nat
  ophase : Nat
  deriving DecidableEq, Repr

def BarObj.parse (b : List Byte) : BarObj :=
  let w := numAt b 0 4
  let o := numAt b 8 4
  { expect := bits w 0 12, pending := bits w 12 12, phase := bits w 24 4, overrun := bit w 28, init := bit w 29,
    cbytes := numAt b 4 4, ocore := bits o 0 8, ogang := bits o 8 4, ophase := bits o 16 4 }

def BarObj.word (o : BarObj) : Nat :=
  o.expect % 2 ^ 12 + o.pending % 2 ^ 12 * 2 ^ 12 + o.phase % 16 * 2 ^ 24 + boolNat o.overrun * 2 ^ 28 + boolNat o.init * 2 ^ 29

def BarObj.bytes (o : BarObj) : List Byte :=
  toBytes 4 o.word ++ toBytes 4 o.cbytes ++ toBytes 4 (o.ocore % 256 + o.ogang % 16 * 2 ^ 8 + o.ophase % 16 * 2 ^ 16) ++ toBytes 4 0

/-- BARI's object (R311). -/
def BarObj.fresh (n : Nat) : BarObj := ⟨n, n, 0, false, true, 0, 0, 0, 0⟩

def BarObj.complete (o : BarObj) : BarObj := { o with phase := (o.phase + 1) % 16, pending := o.expect }

/-- The first overrun records who made it (R309). -/
def BarObj.overrunBy (o : BarObj) (core gangIdx : Nat) : BarObj :=
  if o.overrun then o else { o with overrun := true, ocore := core, ogang := gangIdx, ophase := o.phase }

/-- A gang's arrival by n on an object with INIT set (R311). -/
def BarObj.arrive (o : BarObj) (core gangIdx n : Nat) : BarObj :=
  if n ≤ o.pending then
    let o := { o with pending := o.pending - n }
    if n > 0 && o.pending = 0 && o.cbytes = 0 then o.complete else o
  else (o.overrunBy core gangIdx).complete

/-- A Carter's arrive-start by a tile of n bytes (R191): the object, and the cause that keeps the tile out. -/
def BarObj.start (o : BarObj) (core gangIdx n : Nat) : BarObj × Nat :=
  if !o.init then (o, cUNINIT)
  else if o.cbytes + n ≥ 2 ^ 32 then (o.overrunBy core gangIdx, cOVERRUN)
  else ({ o with cbytes := o.cbytes + n }, 0)

/-- A Carter's arrive-end (R191). -/
def BarObj.finish (o : BarObj) (n : Nat) : BarObj :=
  let o := { o with cbytes := o.cbytes - n }
  if o.pending = 0 && o.cbytes = 0 then o.complete else o

end Sys2Proof.Machine
end

