-- ==== Sys2Proof/Machine/SysReg.lean ====
section
/-! DEFINITION. The system registers (R52, R53), the pool boundaries (R123 to R125), counters and sampling as programs reach them
(R342, R344, R345). -/

namespace Sys2Proof.Machine

open Sys2Proof

namespace State

/-- Teams resident on a core, as keys. -/
def teamsOn (s : State) (core : Nat) : List Nat :=
  ((List.range 16).map (teamKey core ·)).filter fun t => (s.team t).live

/-- R123 and R125: the boundaries are legal and every resident team's runs lie in their regions. An empty run too is held to its region,
at its address (DESIGN CHOICE, assumption 84). -/
def boundsOk (s : State) (core b1 b2 b3 : Nat) : Bool :=
  b1 % 1024 == 0 && b2 % 1024 == 0 && b3 % 1024 == 0 && decide (b1 ≤ b2 ∧ b2 ≤ b3 ∧ b3 ≤ 1572864 ∧ 65536 ≤ b3 - b2) &&
  (s.teamsOn core).all fun t =>
    let x := s.team t
    let r := (s.grid x.grid).record
    decide (x.regRun + Rec.freg r ≤ b1 ∧ b1 ≤ x.stashRun ∧ x.stashRun + Rec.fstash r ≤ b2 ∧ b3 ≤ x.saveRun ∧
      x.saveRun + Rec.fsave r ≤ 1572864)

/-- A write of one boundary (R125); a change of B2 or B3 drops the core cache (R122). -/
def setBounds (s : State) (core b1 b2 b3 : Nat) : State :=
  if s.boundsOk core b1 b2 b3 then
    s.modCore core fun c => { c with b1 := b1, b2 := b2, b3 := b3, cache := if c.b2 = b2 && c.b3 = b3 then c.cache else [] }
  else s

/-- The value of a system register as a gang reads it (R52). -/
def sysRead (s : State) (gang n : Nat) : Nat :=
  let g := s.gang gang
  let t := s.team g.team
  let r := s.recordOf gang
  let core := gang / 64
  let cd := s.coreDev core
  match n with
  | 0x000 => 64
  | 0x001 => core
  | 0x002 => core / 8
  | 0x003 => core / 48
  | 0x004 => Rec.gridId r
  | 0x005 => t.teamIdx
  | 0x006 => g.gangIdx
  | 0x007 => boolNat (!s.isProducer gang)
  | 0x008 => Rec.pgangs r + 16 * Rec.cgangs r
  | 0x009 => Rec.teamsField r
  | 0x00A => Rec.depth r
  | 0x010 => s.now % 2 ^ 32
  | 0x011 => s.now / 2 ^ 32 % 2 ^ 32
  | 0x012 => s.dev.cycle % 2 ^ 32
  | 0x013 => s.dev.cycle / 2 ^ 32 % 2 ^ 32
  | 0x018 => (s.core core).b1
  | 0x019 => (s.core core).b2
  | 0x01A => (s.core core).b3
  | 0x01C => s.dev.host.leaseNs
  | 0x01D => g.fflags.toNat
  | 0x020 => g.t.cause % 128
  | 0x021 => g.t.tpc
  | 0x022 => g.t.tresume
  | 0x023 => g.t.addr % 2 ^ 32
  | 0x024 => g.t.addr / 2 ^ 32 % 2 ^ 32
  | 0x025 => g.t.lanes.toNat % 2 ^ 32
  | 0x026 => g.t.lanes.toNat / 2 ^ 32
  | 0x027 => g.t.info
  | 0x028 => (s.grid (s.gridOf gang)).thandler
  | 0x030 => s.dev.host.assayN
  | 0x031 => cd.assayStat
  | 0x048 => cd.sampleCtl
  | 0x050 => s.dev.sec.debug % 16 + s.dev.sec.lcstate % 4 * 2 ^ 8
  | _ => if 0x040 ≤ n ∧ n ≤ 0x047 then Tbl.get 0 cd.perfSel (n - 0x040) else 0

/-- The Galois LFSR of R345, and the length of the interval that follows a step. -/
def lfsrStep (l : Nat) : Nat := if l % 2 = 1 then (l / 2) ^^^ 0x80200003 else l / 2
def sampleInterval (ctl l : Nat) : Nat := 2 ^ (bits ctl 1 4 + 7) + l % 2 ^ (bits ctl 1 4 + 8)

/-- A write of a system register, every zero field forced to 0; read-only registers ignore it (R53). -/
def sysWrite (s : State) (gang n v : Nat) : State :=
  let core := gang / 64
  let c := s.core core
  match n with
  | 0x018 => s.setBounds core (v % 2 ^ 21) c.b2 c.b3
  | 0x019 => s.setBounds core c.b1 (v % 2 ^ 21) c.b3
  | 0x01A => s.setBounds core c.b1 c.b2 (v % 2 ^ 21)
  | 0x01C => s.setHost fun h => { h with leaseNs := min (max (v % 2 ^ 15) 256) 16384 }
  | 0x01D => s.modGang gang fun g => { g with fflags := BitVec.ofNat 5 v }
  | 0x021 => s.modGang gang fun g => { g with t := { g.t with tpc := v / 4 * 4 } }
  | 0x022 => s.modGang gang fun g => { g with t := { g.t with tresume := v / 4 * 4 } }
  | 0x028 => s.modGrid (s.gridOf gang) fun g => { g with thandler := v / 4 * 4 }
  | 0x048 =>
    let ctl := v % 32 + v / 2 ^ 16 * 2 ^ 16
    let l := lfsrStep (v / 2 ^ 16 * 2 ^ 16 + 0xACE1)
    s.setCoreDev core { s.coreDev core with sampleCtl := ctl, lfsr := l, sampleAt := s.dev.cycle + sampleInterval ctl l }
  | _ =>
    if 0x040 ≤ n ∧ n ≤ 0x047 then
      let d := s.coreDev core
      s.setCoreDev core { d with perfSel := Tbl.set d.perfSel (n - 0x040) (v % 2 ^ 16), perf := Tbl.set d.perf (n - 0x040) 0 }
    else s

end State

def execSysrd (u : UGuard) (d : SReg) (n : BitVec 12) (dbl : Bool) (s : State) : Host.Outcome State Fault Refusal :=
  issue (.sysrd u d n dbl)
    (fun a s =>
      let lo := s.sysRead a.gang n.toNat
      gangOp (fun g => if dbl then g.setSpair d (lo + 2 ^ 32 * s.sysRead a.gang (n.toNat + 1)) else g.setS d (BitVec.ofNat 32 lo)) a s) s

def execSyswr (u : UGuard) (sa : SReg) (n : BitVec 12) (s : State) : Host.Outcome State Fault Refusal :=
  issue (.syswr u sa n) (fun a s => .done ((a.step s).sysWrite a.gang n.toNat ((s.gang a.gang).sreg sa).toNat)) s

/-- PERFRD reads one counter of the issuing core, both halves at one instant (R344). -/
def execPerfrd (u : UGuard) (d : SReg) (k : Fin 8) (s : State) : Host.Outcome State Fault Refusal :=
  issue (.perfrd u d k) (fun a s => gangOp (fun g => g.setSpair d (Tbl.get 0 (s.coreDev a.core).perf k)) a s) s

end Sys2Proof.Machine
end

