-- ==== Sys2Proof/Machine/Carter.lean ====
section
/-! DEFINITION. The Carters (R186 to R193): the walk descriptor, CPY's checks at issue, and the start and end of a tile. -/

namespace Sys2Proof.Machine

open Sys2Proof

/-- A walk descriptor (R186). -/
structure Walkd where
  dir : Nat
  e : Nat
  permit : Bool
  pctr : Nat
  bar : Bool
  cores : Nat
  memh : Nat
  memh2 : Nat
  soff : Nat
  doff : Nat
  n : List Nat
  ss : List Int
  ds : List Int
  rslots : Nat
  baroff : Nat
  zeros : Bool
  deriving DecidableEq, Repr

def parseWalk (d : List Word) : Walkd :=
  let r := fun i => (d.getD i 0).toNat
  let s := fun i => (d.getD i 0).toInt
  { dir := bits (r 0) 0 2, e := 2 ^ bits (r 0) 2 3, permit := bit (r 0) 5, pctr := bits (r 0) 6 4, bar := bit (r 0) 10,
    cores := bits (r 0) 16 8, memh := bits (r 1) 0 12, memh2 := bits (r 1) 12 12, soff := r 2, doff := r 3,
    n := [r 4 % 2 ^ 16 + 1, r 4 / 2 ^ 16 + 1, r 5 % 2 ^ 16 + 1, r 5 / 2 ^ 16 + 1],
    ss := [s 6, s 7, s 8], ds := [s 9, s 10, s 11], rslots := r 12 % 2 ^ 16, baroff := r 13,
    zeros := bits (r 0) 11 5 == 0 && bits (r 0) 24 8 == 0 && bits (r 1) 24 8 == 0 && r 12 / 2 ^ 16 == 0 && r 14 == 0 && r 15 == 0 }

def Walkd.ext (w : Walkd) (k : Nat) : Nat := w.n.getD k 1
def Walkd.tileBytes (w : Walkd) : Nat := w.e * w.ext 0 * w.ext 1 * w.ext 2
def Walkd.rowBytes (w : Walkd) : Nat := w.e * w.ext 0

/-- R186. -/
def Walkd.malformed (w : Walkd) : Bool :=
  w.dir == 3 || w.e > 16 || !w.zeros || (w.dir != 2 && w.memh2 != 0) ||
  (w.dir != 0 && (w.permit || w.bar || w.cores != 0 || w.rslots != 0)) || (w.bar && decide (w.tileBytes > 2 ^ 24))

/-- Dimension-3 positions at the destination. -/
def Walkd.rings (w : Walkd) : Nat := if w.rslots = 0 then w.ext 3 else min w.rslots (w.ext 3)

/-- Lowest offset and one past the highest byte of a side (R187). -/
def sideRange (base rowBytes : Nat) (strides : List Int) (counts : List Nat) : Int × Int :=
  (strides.zip counts).foldl (fun (r : Int × Int) (x : Int × Nat) =>
    (r.1 + min 0 (x.1 * ((x.2 : Int) - 1)), r.2 + max 0 (x.1 * ((x.2 : Int) - 1)))) ((base : Int), (base : Int) + rowBytes)

def Walkd.srcRange (w : Walkd) : Int × Int := sideRange w.soff w.rowBytes w.ss [w.ext 1, w.ext 2, w.ext 3]
def Walkd.dstRange (w : Walkd) : Int × Int := sideRange w.doff w.rowBytes w.ds [w.ext 1, w.ext 2, w.rings]

def Walkd.aligned (w : Walkd) (base : Nat) (strides : List Int) : Bool :=
  let al := State.elemAlign w.e
  base % al == 0 && strides.all fun x => x % al == 0

/-- The elements of part of a row. -/
def TileRow.elements (r : TileRow) (e : Nat) : List TileRow :=
  (List.range (r.n / e)).map fun i => ⟨r.pos + i, r.src + i * e, r.dst + i * e, e⟩

namespace State

/-- The checks of R187 on a memory side. -/
def walkMem (s : State) (gridId h : Nat) (r : Int × Int) (rights : Nat) (al : Bool) : Option Err :=
  match s.check gridId h r.1 (r.2 - r.1).toNat ⟨rights, 1, false, false⟩ with
  | .error c => some (errAt c h (wrap 52 r.1))
  | .ok _ => if al then none else some (errAt cMISALIGNED h (wrap 52 r.1))

def walkStash (s : State) (team : Nat) (r : Int × Int) (al : Bool) : Option Err :=
  if r.1 < 0 || r.2 > s.fstash team then some (stashErr cBOUNDS (wrap 32 r.1))
  else if al then none else some (stashErr cMISALIGNED r.1.toNat)

/-- All checks of R187 in order. -/
def walkCheck (s : State) (gridId team : Nat) (w : Walkd) : Option Err :=
  let sa := w.aligned w.soff w.ss
  let da := w.aligned w.doff w.ds
  let bar := if !w.bar then none
    else if w.baroff + 16 * max w.rslots 1 > s.fstash team then some (stashErr cBOUNDS w.baroff)
    else if w.baroff % 16 ≠ 0 then some (stashErr cMISALIGNED w.baroff) else none
  if w.malformed then some ⟨cRESERVED, 0, 0⟩
  else match w.dir with
    | 0 => ((s.walkMem gridId w.memh w.srcRange rR sa).or (s.walkStash team w.dstRange da)).or bar
    | 1 => (s.walkMem gridId w.memh w.dstRange rW da).or (s.walkStash team w.srcRange sa)
    | _ => (s.walkMem gridId w.memh w.srcRange rR sa).or (s.walkMem gridId w.memh2 w.dstRange rW da)

/-- R189: the destination teams of a tile, and whether a core of the set holds none. -/
def walkTeams (s : State) (w : Work) (d : Walkd) : List Nat × Bool :=
  if d.dir ≠ 0 then ([w.team], false)
  else
    let on := fun (core : Nat) =>
      if core = w.core then some w.team
      else ((s.teamsOn core).filter fun t => (s.team t).grid == w.grid && !(s.team t).exited).foldl (fun (b : Option Nat) t =>
        match b with
        | none => some t
        | some u => if (s.team t).teamIdx < (s.team u).teamIdx then some t else some u) none
    let cores := if d.cores = 0 then [w.core] else ((List.range 8).filter fun c => bit d.cores c).map (w.core / 8 * 8 + ·)
    (cores.filterMap on, cores.any fun c => (on c).isNone)

/-- A barrier object in a team's stash that is to be written: it is read through its mapping (R127), and not where it is mapped .ro (R132). -/
def readObj (s : State) (w : Work) (team so : Nat) : State × Port BarObj :=
  andThen (s.engStash w team so 16) fun s b => (s, match s.stashReadOnly team so 16 with
    | some o => .fail (stashErr cRIGHTS o)
    | none => .ok (.parse b))

/-- Where something of a tile stands in the order of its walk (R193): before its elements, at the element of a place, or after them. -/
def walkPlace (i3 pos : Nat) : Nat := i3 * 2 ^ 56 + pos
def walkLast : Nat := 2 ^ 56 - 1

/-- The cause of a walk: the first in tile order (R193), within a tile in the order of its elements. (DEDUCED, assumption 17) -/
def walkCause (s : State) (id place : Nat) (e : Err) (stop : Bool) : State :=
  s.modWork id fun w => match w.job with
    | .carter d next hand first stopped =>
      let earlier := w.cause == 0 || decide (place < first)
      { w with job := .carter d next hand (if earlier then place else first) (stopped || stop),
               cause := if earlier then e.cause else w.cause, faultAt := if earlier then e.addr else w.faultAt,
               info := if earlier then e.info else w.info }
    | _ => w

/-- The walk ends when no tile is in hand and none will start. -/
def walkEnd (s : State) (id : Nat) : State :=
  match s.work? id with
  | some w => match w.job with
    | .carter d next hand _ stopped =>
      if hand.isEmpty && (stopped || decide (next ≥ (parseWalk d).ext 3)) then s.finishWork id w.cause 0 w.faultAt else s
    | _ => s
  | none => s

/-- Whether the next tile of a walk may start: permits stand in every destination team (R188, R190). -/
def walkReady (s : State) (w : Work) : Bool :=
  match w.job with
  | .carter d next _ _ stopped =>
    let x := parseWalk d
    !stopped && decide (next < x.ext 3) &&
      (!x.permit || (s.walkTeams w x).1.all fun t => Tbl.get 0 (s.team t).permits x.pctr ≥ 1)
  | _ => false

/-- The rows of a tile, in order (R188). -/
def tileRows (x : Walkd) (i3 : Nat) : List TileRow :=
  let j := if x.rslots = 0 then i3 else i3 % x.rslots
  let at' := fun (base : Nat) (st : List Int) (i1 i2 k : Nat) =>
    ((base : Int) + i1 * st.getD 0 0 + i2 * st.getD 1 0 + k * st.getD 2 0).toNat
  (List.range (x.ext 2)).flatMap fun i2 => (List.range (x.ext 1)).map fun i1 =>
    ⟨(i2 * x.ext 1 + i1) * x.ext 0, at' x.soff x.ss i1 i2 i3, at' x.doff x.ds i1 i2 j, x.rowBytes⟩

/-- The arrive-starts of a tile (R191): the teams that take it, and the first cause that kept it out of one. An object that cannot be
read or written keeps the tile out of its team alone (R193). BARRIER_UNINIT and BARRIER_OVERRUN record no byte (DESIGN CHOICE, assumption 92). -/
def arriveStarts (w : Work) (so n : Nat) (gangIdx : Nat) : List Nat → State → State × Port (List Nat × Option Err)
  | [], s => (s, .ok ([], none))
  | t :: ts, s =>
    match s.readObj w t so with
    | (s, .miss p b) => (s, .miss p b)
    | (s, .away w) => (s, .away w)
    | (s, .fail e) => andThen (arriveStarts w so n gangIdx ts s) fun s r => (s, .ok (r.1, some e))
    | (s, .ok o) =>
      let (o', c) := o.start w.core gangIdx n
      let s := if o' = o then s else s.stashWrite t so o'.bytes
      andThen (arriveStarts w so n gangIdx ts s) fun s r =>
        (s, .ok (if c = 0 then t :: r.1 else r.1, if c = 0 then r.2 else some ⟨c, 0, 0⟩))

/-- CARTER_TILE_START: the next tile starts (R188): permits are taken and arrive-starts made. (DEDUCED, assumption 17) -/
def tileStart (s : State) (id : Nat) : State :=
  s.attempt id fun w s =>
    match w.job with
    | .carter d next _ _ _ =>
      if !s.walkReady w then (s, .ok ())
      else
        let x := parseWalk d
        let (ts, lone) := s.walkTeams w x
        let s := if x.permit then ts.foldl (fun s t =>
          s.modTeam t fun u => { u with permits := Tbl.set u.permits x.pctr (Tbl.get 0 u.permits x.pctr - 1) }) s else s
        let j := if x.rslots = 0 then next else next % x.rslots
        let r := if x.bar then arriveStarts w (x.baroff + 16 * j) x.tileBytes (s.gang w.gang).gangIdx ts s else (s, .ok (ts, none))
        andThen r fun s r =>
          let s := s.modWork id fun w => match w.job with
            | .carter d next hand f st => { w with job := .carter d (next + 1) (hand ++ [⟨next, r.1, none, s.ticks, tileRows x next⟩]) f st }
            | _ => w
          let s := if lone then s.walkCause id (walkPlace next 0) ⟨cOWNER, 0, 0⟩ false else s
          ((r.2.map fun e => s.walkCause id (walkPlace next 0) e true).getD s, .ok ())
    | _ => (s, .ok ())

/-- A row read, or where it cannot be, its elements one by one: what was read, with its destination, and the first element that fails. The rows of
a read graph stand or fall whole (R105). -/
def readRow (s : State) (w : Work) (x : Walkd) (r : TileRow) : State × Port (List Byte) :=
  if x.dir = 1 then s.engStash w w.team r.src r.n else s.memRead w.gridId x.memh r.src r.n needR

def readEach (w : Work) (x : Walkd) : List TileRow → State → State × Port (List (Nat × List Byte) × Option (Nat × Err))
  | [], s => (s, .ok ([], none))
  | r :: rest, s =>
    match s.readRow w x r with
    | (_, .fail e) => andThen (readEach w x rest s) fun s y => (s, .ok (y.1, some (r.pos, e)))
    | (s, .miss p b) => (s, .miss p b)
    | (s, .away w) => (s, .away w)
    | (s, .ok bs) => andThen (readEach w x rest s) fun s y => (s, .ok ((r.dst, bs) :: y.1, y.2))

/-- Rows read in order, though one fails (R193): what was read, and the first fault. -/
def readRows (w : Work) (x : Walkd) : List TileRow → State → State × Port (List (Nat × List Byte) × Option (Nat × Err))
  | [], s => (s, .ok ([], none))
  | r :: rest, s =>
    let more := fun (s : State) (a : List (Nat × List Byte)) (f : Option (Nat × Err)) =>
      andThen (readRows w x rest s) fun s y => (s, .ok (a ++ y.1, f.or y.2))
    match s.readRow w x r with
    | (t, .fail e) =>
      if x.dir != 1 && (s.entry (x.memh % 4096)).milled false then more t [] (some (r.pos, e))
      else andThen (readEach w x (r.elements x.e) s) fun s y => more s y.1 y.2
    | (s, .miss p b) => (s, .miss p b)
    | (s, .away w) => (s, .away w)
    | (s, .ok bs) => more s [(r.dst, bs)] none

/-- Rows placed in a team's stash: a byte mapped .ro is not written and gives RIGHTS, a range past Fstash BOUNDS (R188, R189). -/
def placeRows (s : State) (team : Nat) (rows : List (Nat × List Byte)) : State × Option Err :=
  rows.foldl (fun (sx : State × Option Err) (d, bs) =>
    let s := sx.1
    if d + bs.length > s.fstash team then (s, sx.2.or (some (stashErr cBOUNDS d)))
    else match s.stashReadOnly team d bs.length with
      | none => (s.stashWrite team d bs, sx.2)
      | some o =>
        (bs.zipIdx.foldl (fun s (b, i) => if (s.stashReadOnly team (d + i) 1).isSome then s else s.stashWrite team (d + i) [b]) s,
         sx.2.or (some (stashErr cRIGHTS o)))) (s, none)

/-- The arrive-ends of a tile (R191), each made though another fails: the first cause. -/
def arriveEnds (w : Work) (id so n : Nat) (rows : List (Nat × Nat)) : List Nat → State → State × Port (Option Err)
  | [], s => (s, .ok none)
  | t :: ts, s =>
    match s.readObj w t so with
    | (s, .miss p b) => (s, .miss p b)
    | (s, .away w) => (s, .away w)
    | (s, .fail e) => andThen (arriveEnds w id so n rows ts s) fun s _ => (s, .ok (some e))
    | (s, .ok o) => arriveEnds w id so n rows ts ((s.stashWrite t so (o.finish n).bytes).tilePhase id t rows so o.phase)

/-- Two tiles of a walk write a common byte: the later is placed after the earlier (R188). (DEDUCED, assumption 17) -/
def rowsMeet (x : Walkd) (i j : Nat) : Bool :=
  let dst := fun (k : Nat) => (tileRows x k).map fun r => (r.dst, r.n)
  overlaps (dst i) (dst j)

/-- What of a tile one event moves, and what it leaves (R188): all that is left, or freely some elements of a row, but none that is placed before
others left whose bytes it would keep. Rows of another device's buffer come one by one. -/
def tileTake (s : State) (x : Walkd) (left : List TileRow) : List TileRow × List TileRow :=
  let k := s.pickFor 27 0 (left.length + 1)
  if x.dir != 1 && (s.entry (x.memh % 4096)).kind == 5 then (left.take 1, left.drop 1)
  else match k, left[k - 1]? with
  | 0, _ | _, none => (left, [])
  | k + 1, some r =>
    let m := r.n / x.e
    let i := s.pickFor 27 1 m
    let n := s.pickFor 27 2 (m - i) + 1
    let part : TileRow := ⟨r.pos + i, r.src + i * x.e, r.dst + i * x.e, n * x.e⟩
    let before := left.take k
    if before.any fun y => y.dst < part.dst + part.n && part.dst < y.dst + y.n then (left, [])
    else ([part], before ++ ([⟨r.pos, r.src, r.dst, i * x.e⟩, ⟨r.pos + i + n, r.src + (i + n) * x.e, r.dst + (i + n) * x.e, (m - i - n) * x.e⟩].filter fun y => y.n != 0) ++
      left.drop (k + 1))

/-- Something of a tile in hand, or with `whole` all that is left of it, is read and placed; once all of it is, what a write graph still lacks goes (R105), and the
arrive-ends are made (R188, R191 to R193). -/
def tileMoves (s : State) (id i3 : Nat) (whole : Bool) : State :=
  match s.work? id with
  | none => s
  | some w => match w.job with
    | .carter d _ hand _ _ =>
      match hand.find? fun t => t.i3 == i3 with
      | none => s
      | some t =>
        let x := parseWalk d
        let held := s.awaits id || (match t.stall with
          | some p => Tbl.mem s.ctx.misses p
          | none => false) || hand.any fun u => decide (u.i3 < i3) && rowsMeet x u.i3 i3
        let j := if x.rslots = 0 then i3 else i3 % x.rslots
        let obj := x.baroff + 16 * j
        let (part, left) := if whole then (t.left, []) else s.tileTake x t.left
        let place := fun (s : State) (rows : List (Nat × List Byte)) =>
          if x.dir = 0 then
            let (s, e) := t.teams.foldl (fun (sx : State × Option Err) u =>
              let (s, e) := sx.1.placeRows u rows
              (s, sx.2.or e)) (s, none)
            (s, Port.ok e)
          else andThen (s.engWrite id w (if x.dir = 1 then x.memh else x.memh2) rows (elemAlign x.e)) fun s _ => (s, .ok none)
        let close := fun (s : State) =>
          if !left.isEmpty then (s, Port.ok none)
          else andThen (if x.bar then arriveEnds w id obj x.tileBytes ((tileRows x i3).map fun r => (r.dst, r.n)) t.teams s else (s, .ok none)) fun s b => (s.flushBeats id, .ok b)
        let run := andThen (readRows w x part ({ s with eng := some id }.modWork id fun w => { w with born := t.born })) fun s r =>
          andThen (place s r.1) fun s e => andThen (close s) fun s b => (s, .ok (r.2, e, b))
        let note := fun (s : State) (e : Option (Nat × Err)) (stop : Bool) => match e with
          | some (p, e) => s.walkCause id (walkPlace i3 p) e stop
          | none => s
        let rest := fun (s : State) => s.modWork id fun v => match v.job with
          | .carter d n h f st =>
            { v with born := w.born, job := .carter d n (if left.isEmpty then h.filter fun t => t.i3 != i3
                else h.map fun t => if t.i3 = i3 then { t with left := left } else t) f st }
          | _ => v
        if held then s
        else match run with
          | (s, .ok (a, b, c)) =>
            let s := note s a true
            let s := note s (b.map ((part.head?.map (·.pos)).getD 0, ·)) (match b with
              | some e => e.cause == cRIGHTS
              | none => false)
            let s := note s (c.map (walkLast, ·)) true
            { (rest s).walkEnd id with eng := none }
          | (s, .fail e) => { (rest (s.walkCause id (walkPlace i3 0) e true)).walkEnd id with eng := none }
          | (_, .miss p b) =>
            ((s.postMiss p b false w.gridId).perfEvent w.core (w.gang % 64) 0x16 1).modWork id fun w => match w.job with
              | .carter d n h f st =>
                { w with job := .carter d n (h.map fun t => if t.i3 = i3 then { t with stall := some p } else t) f st }
              | _ => w
          | (_, .away w) => s.askRemote id w
    | _ => s

end State

/-- CARTER_TILE_END: a part of a tile in hand (R188). -/
def State.tileEnd (s : State) (id i3 : Nat) : State := s.tileMoves id i3 false

/-- CPY (R186, R187): a Carter runs at most 16 walks for its cluster. -/
def execCpy (u : UGuard) (sd sa : SReg) (s : State) : Host.Outcome State Fault Refusal :=
  issue (.cpy u sd sa)
    (fun a s =>
      let g := s.gang a.gang
      let d := (List.range 16).map fun i => g.sreg (sa.val + i)
      match s.walkCheck (s.gridIdOf a.gang) g.team (parseWalk d) with
      | some e => .trap s a.set e.cause e.addr e.info
      | none =>
        if s.countWorks (fun w => w.op10 == 0x040 && w.core / 8 == a.core / 8) ≥ 16 then .stall
        else .done (a.start s sd 0x040 (.carter d 0 [] 0 false))) s

/-- CARTER_TILE_START. -/
def execCarterTileStart (work : Nat) (s : State) : Host.Outcome State Fault Refusal := .next ((s.tileStart work).walkEnd work)

/-- CARTER_TILE_END. -/
def execCarterTileEnd (work i3 : Nat) (s : State) : Host.Outcome State Fault Refusal := .next (s.tileEnd work i3)

end Sys2Proof.Machine
end

