-- ==== Sys2Proof/Machine/Gleaner.lean ====
section
/-! DEFINITION. The Gleaner's GATH, SCAT and SINTER (R194 to R198). Each event makes a free number of elements; a page fault
saves the position. -/

namespace Sys2Proof.Machine

open Sys2Proof

namespace State

/-- Entries of the core's Gleaner in use: GATH, SCAT, SINTER and MOUT. -/
def gleanerFull (s : State) (core : Nat) : Bool :=
  decide (s.countWorks (fun w => ((0x041 ≤ w.op10 && w.op10 ≤ 0x043) || w.op10 == 0x054) && w.core == core) ≥ 16)

/-- The issue checks of GATH and SCAT, in their order. -/
def gatherCheck (s : State) (team idx n data e : Nat) : Option Err :=
  let f := s.fstash team
  if idx + 4 * n > f then some (stashErr cBOUNDS idx)
  else if data + n * e > f then some (stashErr cBOUNDS data)
  else if idx % 4 ≠ 0 then some (stashErr cMISALIGNED idx)
  else if data % elemAlign e ≠ 0 then some (stashErr cMISALIGNED data)
  else if n > 16777215 then some (stashErr cBOUNDS idx) else none

/-- How many of the elements left one event makes: at least one, freely up to all. (DESIGN CHOICE, assumption 15) -/
def stretch (s : State) (left : Nat) : Nat := if left ≤ 1 then 1 else 1 + s.pick 14 left

/-- Elements in ascending order until one cannot go on: the position reached, what the elements that are not null gave, and why it
stopped. -/
def runElems {α : Type} (f : Nat → State → State × Port (Option α)) : List Nat → Nat → List α → State → State × Nat × List α × Port Unit
  | [], i, xs, s => (s, i, xs, .ok ())
  | k :: ks, _, xs, s =>
    match f k s with
    | (t, .ok x) => runElems f ks (k + 1) (xs ++ x.toList) t
    | (t, .fail e) => (t, k, xs, .fail e)
    | (_, .miss p b) => (s, k, xs, .miss p b)
    | (_, .away w) => (s, k, xs, .away w)

/-- Elements above a failing one are made or not, freely (R195, R196). (DESIGN CHOICE, assumption 22) -/
def runAbove {α : Type} (f : Nat → State → State × Port (Option α)) (ks : List Nat) (xs : List α) (s : State) : State × List α :=
  ks.foldl (fun (y : State × List α) k =>
    if y.1.pickFor 17 k 2 = 0 then y
    else match f k y.1 with
      | (u, .ok x) => (u, y.2 ++ x.toList)
      | _ => y) (s, xs)

/-- The positions of one event. -/
def elemRange (s : State) (i n : Nat) : List Nat := ((List.range n).drop i).take (s.stretch (n - i))

/-- A job's progress is kept while it waits for a page or another device. -/
def waitJob (s : State) (id : Nat) (w : Work) (job : Job) (r : Port Unit) : State :=
  let s := { s with eng := none }.modWork id fun x => { x with job := job }
  match r with
  | .miss p b => ((s.postMiss p b false w.gridId).perfEvent w.core (w.gang % 64) 0x16 1).modWork id fun x => { x with stall := some p }
  | .away w => s.askRemote id w
  | _ => s

/-- The index word of element i; all ones names no element. -/
def indexWord (s : State) (w : Work) (idx i : Nat) : State × Port Nat :=
  andThen (s.engStash w w.team (idx + 4 * i) 4) fun s b => (s, .ok (ofBytes b))

def gathOne (w : Work) (h base idx data e i : Nat) (s : State) : State × Port (Option Unit) :=
  andThen (s.indexWord w idx i) fun s x =>
    let d := data + i * e
    match s.stashReadOnly w.team d e with
    | some o => (s, .fail (stashErr cRIGHTS o))
    | none =>
      if x = 0xFFFFFFFF then (s.stashWrite w.team d (toBytes e 0), .ok none)
      else andThen (s.memRead w.gridId h (base + x * e) e ⟨rR, elemAlign e, false, false⟩) fun s bs =>
        (s.stashWrite w.team d bs, .ok (some ()))

/-- GATH_COMPLETE (R195, R198). -/
def gathStep (s : State) (id : Nat) : State :=
  match s.work? id with
  | some w => match w.job with
    | .gath h base idx n data wd i cnt =>
      if s.workHeld id w then s
      else
        let one := gathOne w h base idx data wd.bytes
        match runElems one (s.elemRange i n) i [] { s with eng := some id } with
        | (t, k, xs, .ok _) =>
          if k ≥ n then { t.finishWork id 0 (cnt + xs.length) 0 with eng := none }
          else t.waitJob id w (.gath h base idx n data wd k (cnt + xs.length)) (.ok ())
        | (t, k, xs, .fail e) => { (runAbove one ((List.range n).drop (k + 1)) xs t).1.failWork id k e with eng := none }
        | (t, k, xs, r) => t.waitJob id w (.gath h base idx n data wd k (cnt + xs.length)) r
    | _ => s
  | none => s

/-- One element of a plain SCAT: written at its home, or, where `mill` says that its buffer is written through a graph, checked and
translated only: its bytes join others of the transfer in their beats (R105). -/
def scatOne (mill : Bool) (id : Nat) (w : Work) (h base idx data e i : Nat) (s : State) : State × Port (Option (Nat × Nat × List Byte)) :=
  andThen (s.indexWord w idx i) fun s x =>
    if x = 0xFFFFFFFF then (s, .ok none)
    else andThen (s.engStash w w.team (data + i * e) e) fun s bs =>
      let off := base + x * e
      if mill then
        (s, match s.check w.gridId h off e ⟨rW, elemAlign e, false, false⟩ with
          | .error c => .fail (errAt c h off)
          | .ok en => (if en.kind = 1 then (s.rangePieces en h off e).write else .ok []).bind fun _ => match s.millGate h off true with
            | .error y => .fail y
            | .ok _ => .ok (some (i, off, bs)))
      else andThen (s.rawWrite w.gridId h off bs ⟨rW, elemAlign e, false, false⟩) fun s y => (s.noteWork id h y, .ok (some (i, off, bs)))

/-- One element of a reducing SCAT: its checks, translation and data; the reduction is performed at its point afterwards (R152, R196). -/
def scatRed (w : Work) (h base idx data e : Nat) (aop : Aop) (i : Nat) (s : State) : State × Port (Option (Nat × Nat × List Byte)) :=
  andThen (s.indexWord w idx i) fun s x =>
    if x = 0xFFFFFFFF then (s, .ok none)
    else
      let off := base + x * e
      match s.atomCheck w.gridId h off e aop with
      | some y => (s, .fail y)
      | none =>
        let en := s.entry (h % 4096)
        andThen (s, if en.kind = 5 then .ok () else ((s.place en h off e).write).map fun _ => ()) fun s _ =>
          andThen (s.engStash w w.team (data + i * e) e) fun s bs => (s, .ok (some (i, off, bs)))

def ScatOp.aop : ScatOp → Aop
  | .st => .add | .add => .add | .fadd => .fadd | .hadd2 => .hadd2

/-- Elements that were checked go out: beats of a write graph, or reductions, which keep their order (R196). -/
def scatSend (s : State) (mill : Bool) (id : Nat) (w : Work) (h : Nat) (wd : Width) (op : ScatOp) (xs : List (Nat × Nat × List Byte)) : State :=
  if xs.isEmpty then s
  else if op == .st then
    if mill then
      (match memWriteAll w.gridId h (xs.map fun x => x.2) ⟨rW, elemAlign wd.bytes, false, false⟩ s with
       | (s, .ok y) => s.noteWork id h y
       | (s, .fail y) => s.noteWork id h ⟨0, some y, false, 0⟩
       | (s, _) => s)
    else s
  else
    let q := s.queuedWrite h (xs.map fun x => ⟨x.1, x.2.1, ofBytes x.2.2, 0⟩) none
    s.addAccess { q with kind := .red, wd := wd, aop := ScatOp.aop op, scope := .device }

/-- SCAT_COMPLETE (R196, R198). -/
def scatStep (s : State) (id : Nat) : State :=
  match s.work? id with
  | some w => match w.job with
    | .scat h base idx n data wd op i cnt =>
      if s.workHeld id w then s
      else
        let e := wd.bytes
        let mill := s.milled h true
        let one := if op == .st then scatOne mill id w h base idx data e else scatRed w h base idx data e (ScatOp.aop op)
        let send := fun (t : State) (xs : List (Nat × Nat × List Byte)) => t.scatSend mill id w h wd op xs
        match runElems one (s.elemRange i n) i [] { s with eng := some id } with
        | (t, k, xs, .ok _) =>
          if k ≥ n then { (send t xs).finishWork id 0 (min (cnt + xs.length) (2 ^ 24 - 1)) 0 with eng := none }
          else (send t xs).waitJob id w (.scat h base idx n data wd op k (cnt + xs.length)) (.ok ())
        | (t, k, xs, .fail y) =>
          let r := runAbove one ((List.range n).drop (k + 1)) xs t
          { (send r.1 r.2).failWork id k y with eng := none }
        | (t, k, xs, r) => (send t xs).waitJob id w (.scat h base idx n data wd op k (cnt + xs.length)) r
    | _ => s
  | none => s

/-- The state of an intersection: positions and count. -/
def sinterLoop (w : Work) (h bound out cap offA lenA offB lenB : Nat) (emit : Bool) :
    Nat → Nat → Nat → Nat → State → State × (Nat × Nat × Nat) × Port Unit
  | 0, a, b, cnt, s => (s, (a, b, cnt), .ok ())
  | fuel + 1, a, b, cnt, s =>
    if a ≥ lenA || b ≥ lenB then (s, (a, b, cnt), .ok ())
    else
      let rd := fun (o : Nat) (s : State) => s.memRead w.gridId h o 4 ⟨rR, 4, false, false⟩
      match andThen (rd (offA + 4 * a) s) fun s x => andThen (rd (offB + 4 * b) s) fun s y => (s, .ok (ofBytes x, ofBytes y)) with
      | (t, .fail e) => (t, (a, b, cnt), .fail e)
      | (_, .miss p b') => (s, (a, b, cnt), .miss p b')
      | (_, .away w) => (s, (a, b, cnt), .away w)
      | (t, .ok (x, y)) =>
        let go := sinterLoop w h bound out cap offA lenA offB lenB emit fuel
        if x < y then go (a + 1) b cnt t
        else if x > y then go a (b + 1) cnt t
        else if x ≤ bound then go (a + 1) (b + 1) cnt t
        else if emit && cnt < cap then
          let d := out + 8 + 4 * cnt
          match t.stashReadOnly w.team d 4 with
          | some o => (t, (a, b, cnt), .fail (stashErr cRIGHTS o))
          | none => go (a + 1) (b + 1) (cnt + 1) (t.stashWrite w.team d (toBytes 4 x))
        else go (a + 1) (b + 1) (cnt + 1) t

/-- SINTER_COMPLETE (R197, R198). -/
def sinterStep (s : State) (id : Nat) : State :=
  match s.work? id with
  | some w => match w.job with
    | .sinter h bound out cap offA lenA offB lenB emit a b cnt =>
      if s.workHeld id w then s
      else match sinterLoop w h bound out cap offA lenA offB lenB emit (s.stretch (lenA + lenB - a - b)) a b cnt { s with eng := some id } with
        | (t, (a, b, cnt), .ok _) =>
          if a < lenA && b < lenB then t.waitJob id w (.sinter h bound out cap offA lenA offB lenB emit a b cnt) (.ok ())
          else (match t.stashReadOnly w.team out 8 with
           | some o => { t.failWork id (min cnt 0xFFFFFF) (stashErr cRIGHTS o) with eng := none }
           | none => { (t.stashWrite w.team out (toBytes 8 cnt)).finishWork id 0 (min cnt 0xFFFFFF) 0 with eng := none })
        | (t, (_, _, cnt), .fail e) => { t.failWork id (min cnt 0xFFFFFF) e with eng := none }
        | (t, (a, b, cnt), r) => t.waitJob id w (.sinter h bound out cap offA lenA offB lenB emit a b cnt) r
    | _ => s
  | none => s

/-- The issue checks of SINTER: R84 on both streams, then its stash region (R197). -/
def sinterCheck (s : State) (gridId team h out cap offA lenA offB lenB : Nat) (emit : Bool) : Option Err :=
  let stream := fun (off len : Nat) => match s.check gridId h off (4 * len) ⟨rR, 4, false, false⟩ with
    | .error c => some (errAt c h off)
    | .ok _ => none
  ((stream offA lenA).or (stream offB lenB)).or
    (if out % 8 ≠ 0 then some (stashErr cMISALIGNED out)
     else if out + 8 + (if emit then 4 * cap else 0) > s.fstash team then some (stashErr cBOUNDS out) else none)

end State

/-- An asynchronous word with issue checks, a unit that may be full, and a job. -/
def asyncOp (tok op10 : Nat) (check : At → State → Option Err) (full : At → State → Bool) (job : At → State → Job) (a : At) (s : State) : Res :=
  match check a s with
  | some e => .trap s a.set e.cause e.addr e.info
  | none => if full a s then .stall else .done (a.start s tok op10 (job a s))

def execGath (u : UGuard) (sd sa sb sc : SReg) (wd : Width) (s : State) : Host.Outcome State Fault Refusal :=
  issue (.gath u sd sa sb sc wd)
    (fun a s =>
      let g := s.gang a.gang
      let r := fun (i : Nat) => (g.sreg i).toNat
      asyncOp sd 0x041 (fun _ s => s.gatherCheck g.team (r sb) (r (sb.val + 1)) (r sc) wd.bytes) (fun a s => s.gleanerFull a.core)
        (fun _ _ => .gath (r sa) (r (sa.val + 1)) (r sb) (r (sb.val + 1)) (r sc) wd 0 0) a s) s

def execScat (u : UGuard) (sd sa sb sc : SReg) (wd : Width) (op : ScatOp) (s : State) : Host.Outcome State Fault Refusal :=
  issue (.scat u sd sa sb sc wd op)
    (fun a s =>
      let g := s.gang a.gang
      let r := fun (i : Nat) => (g.sreg i).toNat
      asyncOp sd 0x042 (fun _ s => s.gatherCheck g.team (r sb) (r (sb.val + 1)) (r sc) wd.bytes) (fun a s => s.gleanerFull a.core)
        (fun _ _ => .scat (r sa) (r (sa.val + 1)) (r sb) (r (sb.val + 1)) (r sc) wd op 0 0) a s) s

def execSinter (u : UGuard) (sd sa sb sc : SReg) (emit : Bool) (s : State) : Host.Outcome State Fault Refusal :=
  issue (.sinter u sd sa sb sc emit)
    (fun a s =>
      let g := s.gang a.gang
      let r := fun (i : Nat) => (g.sreg i).toNat
      let h := r sa
      let out := r (sa.val + 2)
      let cap := r (sa.val + 3)
      asyncOp sd 0x043
        (fun a s => s.sinterCheck (s.gridIdOf a.gang) g.team h out cap (r sb) (r (sb.val + 1)) (r sc) (r (sc.val + 1)) emit)
        (fun a s => s.gleanerFull a.core)
        (fun _ _ => .sinter h (r (sa.val + 1)) out cap (r sb) (r (sb.val + 1)) (r sc) (r (sc.val + 1)) emit 0 0 0) a s) s

def execGathComplete (work : Nat) (s : State) : Host.Outcome State Fault Refusal := .next (s.gathStep work)
def execScatComplete (work : Nat) (s : State) : Host.Outcome State Fault Refusal := .next (s.scatStep work)
def execSinterComplete (work : Nat) (s : State) : Host.Outcome State Fault Refusal := .next (s.sinterStep work)

end Sys2Proof.Machine
end

