-- ==== Sys2Proof/Machine/Loom.lean ====
section
/-! DEFINITION. The Loom and the Joiner (R226 to R248): steps and staging slots, the dense and outlier halves, the merge and the
Assayer, MLOOP, encoding and decoding in the core, and the accumulator instructions. -/

namespace Sys2Proof.Machine

open Sys2Proof

/-! Step blocks (R227). -/

/-- One operand of a step: handle, p', tile index, body and scale offsets (indices may be negative inside MLOOP). -/
structure Operand where
  h : Nat
  pq : Nat
  t : Int
  body : Int
  scale : Int
  deriving DecidableEq, Repr

def blockA (b : List Word) : Operand :=
  let r := fun i => (b.getD i 0).toNat
  ⟨bits (r 0) 0 12, bits (r 0) 24 4, r 1, r 3, r 4⟩
def blockB (b : List Word) : Operand :=
  let r := fun i => (b.getD i 0).toNat
  ⟨bits (r 0) 12 12, bits (r 0) 28 4, r 2, r 5, r 6⟩

/-- The table's entries: signed bytes, 0 and 8 taken as 0 (R233). -/
def tableOf (t : List Word) : List Int :=
  (List.range 16).map fun n => if n % 8 = 0 then 0 else signExt ((t.getD (n / 4) 0).toNat / 2 ^ (8 * (n % 4))) 8

def Term.val : Term → FVal
  | .nan _ => .nan false
  | .inf n => .inf n
  | .num n m e => .fin n m e

namespace State

/-- The handle checks of R231 and R239: handle, owner, then kind 2. -/
def splitHandle (s : State) (gridId h : Nat) : Option Err :=
  let e := s.entry (h % 4096)
  if h ≥ 4096 || e.kind = 0 || e.malformed s.dev.host.devnum then some (errAt cHANDLE h 0)
  else if e.owner ≠ 0xFFFF && e.owner ≠ gridId then some (errAt cOWNER h 0)
  else if e.kind ≠ 2 then some (errAt cHANDLE h 0) else none

/-- The issue checks of R231 before the slot. -/
def stepCheck (s : State) (gridId : Nat) (b : List Word) : Option Err :=
  let x := blockA b
  let y := blockB b
  let pbad := fun (p : Nat) => p == 1 || decide (p > 8)
  let mis := fun (o : Int) (n : Nat) => if o.toNat % n ≠ 0 then some (stashErr cMISALIGNED o.toNat) else none
  if pbad x.pq || pbad y.pq || b.getD 7 0 != 0 then some ⟨cRESERVED, 0, 0⟩
  else ((((s.splitHandle gridId x.h).or (s.splitHandle gridId y.h)).or (mis x.body 128)).or (mis x.scale 64)).or
    ((mis y.body 128).or (mis y.scale 64))

/-! Staging slots (R228). -/

def slot (s : State) (core k : Nat) : Slot := Tbl.get .free (s.core core).slots k
def setSlot (s : State) (core k : Nat) (x : Slot) : State := s.modCore core fun c => { c with slots := Tbl.set c.slots k x }

end State

/-- What a slot's rule says to an instruction at issue. -/
inductive SlotRule where
  | go (x : Slot)
  | waits
  | bad
  deriving DecidableEq, Repr

/-- MMB or MOUT of a team meets a slot (R228). -/
def Slot.half (x : Slot) (team : Nat) (step : StepId) (dense : Bool) : SlotRule :=
  let put := fun (x : Slot) => if dense then { x with mmbIssued := true } else { x with moutIssued := true }
  match x.reserved with
  | some t => if t = team then .bad else .waits
  | none =>
    match x.state with
    | .free => .go (put { Slot.free with state := .opened, owner := team, step := step })
    | _ =>
      if x.owner ≠ team then .waits
      else if x.step ≠ step || (if dense then x.mmbIssued else x.moutIssued) then .bad
      else .go (put x)

/-- MJOIN of a team meets a slot (R228). -/
def Slot.join (x : Slot) (team : Nat) : SlotRule :=
  match x.reserved with
  | some t => if t = team then .bad else .waits
  | none =>
    match x.state with
    | .free => .bad
    | .opened => if x.owner = team then .go { x with state := .joining } else .waits
    | .joining => if x.owner = team then .bad else .waits

/-- MLOOP of a team meets one of its slots (R228). -/
def Slot.loop (x : Slot) (team : Nat) : SlotRule :=
  match x.reserved, x.state with
  | some t, _ => if t = team then .bad else .waits
  | none, .free => .go { Slot.free with reserved := some team }
  | none, _ => if x.owner = team then .bad else .waits

def slotErr : Err := ⟨cMALFORMED, 0, 1⟩

/-! Reading an operand. -/

/-- An operand of a step after the checks of R231's first loop. -/
structure Side' where
  d : Desc
  pq : Nat
  tk : Nat
  t : Nat
  body : Nat
  scale : Nat
  deriving DecidableEq, Repr

def Side'.bytes (x : Side') : Nat := if x.d.layout = 0 then x.pq * 2048 else x.d.tileBytes

/-- The stash sectors that hold the planes and the scale entries of elements (line, k), in ascending order. -/
def Side'.sectors (x : Side') (els : List (Nat × Nat)) : List Nat :=
  (((els.flatMap fun (l, k) => (x.scale + 8 * l + 2 * (k / 64)) / 64 ::
      (List.range x.pq).map fun q => (x.body + planeOffset x.d.layout x.d.planes q l (k / 64) + k % 64 / 8) / 64).dedup).mergeSort fun a b => a ≤ b)

/-- The bytes of an operand, cut for quick access. -/
structure Loaded where
  side : Side'
  rows : List (List Byte)
  scales : List Byte
  deriving DecidableEq, Repr

def Loaded.entry (x : Loaded) (l b : Nat) : Nat := scaleEntry x.scales l b

/-- The cause of a scale entry in the stash (R231). -/
def Loaded.entryBad (x : Loaded) (l b : Nat) : Option Err :=
  let e := x.entry l b
  let at' := x.side.scale + 8 * l + 2 * b
  if e / 2 ^ 12 ≠ 0 then some (stashErr cMALFORMED at')
  else if bits e 8 4 ≠ (4 * x.side.tk + b) % 16 then some (stashErr cSKEW at') else none

def Loaded.allBad (x : Loaded) : Option Err := (List.range 256).findSome? fun i => x.entryBad (i / 4) (i % 4)

/-- The signed coefficient of a code, or of the table (R30, R233). -/
def Loaded.coef (x : Loaded) (table : Option (List Int)) (l k : Nat) : Int :=
  let (n, m) := codeAt x.side.d.layout x.side.d.planes x.side.pq x.rows l k
  match table with
  | some t =>
    let sign := (at2 x.rows (planeOffset x.side.d.layout x.side.d.planes 0 l (k / 64) + k % 64 / 8)).getLsbD (k % 8)
    t.getD (8 * boolNat sign + m) 0
  | none => if n then -(m : Int) else m

/-- S_eff of a block: an integer and its exponent (R28). -/
def Loaded.scaleAt (x : Loaded) (l b : Nat) : Nat × Int :=
  let v := scaleValue (x.entry l b % 256)
  (v.m, v.e + x.side.d.xo + ((x.side.d.planes : Int) - x.side.pq))

/-- All 64 dense terms N S_A S_B of a step, exact, with the key of element and block (R231). -/
def denseTerms (a b : Loaded) (table : Option (List Int)) : List (Nat × Term) :=
  let side := fun (x : Loaded) (t : Option (List Int)) => (List.range 64).map fun l => (List.range 4).map fun k =>
    ((List.range 64).map fun e => x.coef t l (64 * k + e), x.scaleAt l k)
  let as := side a table
  let bs := side b none
  as.zipIdx.flatMap fun (ra, i) => bs.zipIdx.flatMap fun (rb, j) => (ra.zip rb).zipIdx.map fun ((x, y), k) =>
    let n := (x.1.zip y.1).foldl (fun (s : Int) (c : Int × Int) => s + c.1 * c.2) 0
    let m := n.natAbs * x.2.1 * y.2.1
    ((i * 64 + j) * 4 + k, Term.num (decide (n < 0) && m != 0) m (x.2.2 + y.2.2))

/-- RoundNE32 of an exact term. -/
def Term.round32 (t : Term) : Nat × Flags := fp32.ofVal t.val

namespace State

/-- R231's checks of one operand, the table's included (R233). -/
def operand (s : State) (w : Work) (x : Operand) (table : Bool) : State × Port Side' :=
  andThen (s.descOf w.gridId x.h) fun s d =>
    let pq := if x.pq = 0 then d.planes else x.pq
    let body := if d.layout = 0 then pq * 2048 else d.tileBytes
    let bad := fun (e : Err) => (s, (.fail e : Port Side'))
    if pq > d.planes || (table && pq > 4) then bad ⟨cMALFORMED, (s.entry x.h).data, 0⟩
    else if x.t < 0 || x.t.toNat ≥ d.tlines * d.tks then bad ⟨cBOUNDS, 0, 0⟩
    else if x.body < 0 || x.body.toNat + body > s.fstash w.team then bad (stashErr cBOUNDS (wrap 32 x.body))
    else if x.scale < 0 || x.scale.toNat + 512 > s.fstash w.team then bad (stashErr cBOUNDS (wrap 32 x.scale))
    else (s, .ok ⟨d, pq, x.t.toNat % d.tks, x.t.toNat, x.body.toNat, x.scale.toNat⟩)

/-- The stash bytes of an operand. (DESIGN CHOICE, assumption 24) -/
def load (s : State) (w : Work) (x : Side') : State × Port Loaded :=
  andThen (s.engStash w w.team x.body x.bytes) fun s b =>
    andThen (s.engStash w w.team x.scale 512) fun s sc => (s, .ok ⟨x, chunks 256 (x.bytes / 256) b, sc⟩)

/-- Sectors of the team's stash read one after another by an engine. -/
def engSectors (w : Work) : List Nat → State → State × Port Unit
  | [], s => (s, .ok ())
  | i :: is, s => andThen (s.engStash w w.team (64 * i) 64) fun s _ => engSectors w is s

/-- The stash bytes of an operand of which only some elements are read: the sectors of their planes and scale entries (R234). -/
def loadPart (s : State) (w : Work) (x : Side') (els : List (Nat × Nat)) : State × Port Loaded :=
  andThen (engSectors w (x.sectors els) s) fun s _ =>
    let read := fun (so n : Nat) => s.engMixed w w.team so (s.stashBytes w.team so n)
    (s, .ok ⟨x, chunks 256 (x.bytes / 256) (read x.body x.bytes), read x.scale 512⟩)

/-- The fields by which a HOLD latch is known (R232). -/
def holdFields (b : List Word) : List Word :=
  [BitVec.ofNat 32 (blockA b).h, b.getD 1 0, b.getD 3 0, b.getD 4 0, BitVec.ofNat 32 (blockA b).pq]

/-- The latched bytes, where the latch stands filled for this gang and step; using them or the stash is free (R232). -/
def latched (s : State) (w : Work) (b : List Word) : Option (List Byte × List Byte) :=
  match (s.core w.core).latch with
  | some l => if l.gang = w.gang && l.fields == holdFields b && !l.body.isEmpty && s.pick 7 2 = 1 then some (l.body, l.scales) else none
  | none => none

/-- What the dense half makes: its exact terms, its conditions and the CRCs of bodies read whole. -/
def denseHalf (s : State) (w : Work) (id : StepId) : State × Port (Tbl Term × Flags × List (Option Nat)) :=
  let tbl := id.table.map tableOf
  andThen (s.operand w (blockA id.block) tbl.isSome) fun s a =>
  andThen (s.operand w (blockB id.block) false) fun s b =>
    let la := match s.latched w id.block with
      | some (body, sc) => (s, Port.ok (Loaded.mk a (chunks 256 (a.bytes / 256) body) sc))
      | none => s.load w a
    andThen la fun s la => andThen (s.load w b) fun s lb =>
      match la.allBad.or lb.allBad with
      | some e => (s, .fail e)
      | none =>
        let ts := denseTerms la lb tbl
        let fl := ts.foldl (fun f t => f ||| (Term.round32 t.2).2) 0
        let crc := fun (x : Loaded) => if x.side.bytes = x.side.d.tileBytes then some (crc32c x.rows.flatten) else none
        (s, .ok (ts, fl, [crc la, crc lb]))

/-- The record of an operand's tile: header and entries, checked (R234). A bad header fails before the entries are read (DESIGN CHOICE,
assumption 99). -/
def outliers (s : State) (w : Work) (x : Side') : State × Port (List Nat × Option Nat) :=
  let d := x.d
  let site := errAt cMALFORMED d.outl (x.t * d.recBytes)
  andThen (s.rawRead w.gridId d.outl (x.t * d.recBytes) 16 needR) fun s h =>
    if headerBad d h then (s, .fail site)
    else andThen (s.readEntries w.gridId d x.t h) fun s es =>
      if let some a := es.2 then (s, .fail ⟨cPOISON, a, 0⟩)
      else if entriesBad es.1 then (s, .fail site)
      else if numAt h 9 1 % 16 ≠ 4 * x.tk % 16 then (s, .fail { site with cause := cSKEW })
      else (s, .ok (es.1, if d.crc then some (numAt h 12 4) else none))

end State

/-- The true value of an element of a loaded operand (R43, R233), its scale entry checked where it is read. -/
def Loaded.value (x : Loaded) (outs : List Nat) (table : Option (List Int)) (l k : Nat) : Except Err FVal :=
  match outs.find? fun e => entryK e == k && entryLine e == l with
  | some e => .ok (bf16.read (e % 2 ^ 16))
  | none =>
    match x.entryBad l (k / 64) with
    | some e => .error e
    | none =>
      let c := x.coef table l k
      let v := x.scaleAt l (k / 64)
      .ok (if v.1 = 0 then .fin false 0 0 else .fin (decide (c < 0)) (c.natAbs * v.1) v.2)

/-- An exact product, with R24's specials; a NaN raises NV in the slot (R234). -/
def termOf (x y : FVal) : Term × Flags :=
  if x.isNaN || y.isNaN then (.nan false, nv)
  else match mulExact x y with
    | .invalid _ => (.nan false, nv)
    | .val (.fin n m e) => (.num n m e, 0)
    | .val (.inf n) => (.inf n, 0)
    | .val (.nan _) => (.nan false, nv)

/-- A line's terms with its partners, in order. -/
def lineTerms (f : Nat → Except Err (FVal × FVal)) : List Nat → Except Err (List (Nat × Term) × Flags)
  | [] => .ok ([], 0)
  | p :: ps => match f p, lineTerms f ps with
    | .error e, _ => .error e
    | .ok _, .error e => .error e
    | .ok (x, y), .ok (ts, fl) => let t := termOf x y; .ok ((p, t.1) :: ts, t.2 ||| fl)

/-- All lines of a step in ascending (K, A before B, LINE) (R234). -/
def outLines (a b : Loaded) (oa ob : List Nat) (table : Option (List Int)) : List (Nat × Bool × Nat) → Except Err (List OutLine × Flags)
  | [] => .ok ([], 0)
  | (k, isB, line) :: rest =>
    let isOut := fun (os : List Nat) (l : Nat) => os.any fun e => entryK e == k && entryLine e == l
    let pair := fun (i j : Nat) => match a.value oa table i k, b.value ob none j k with
      | .error e, _ => Except.error e
      | .ok _, .error e => .error e
      | .ok x, .ok y => .ok (x, y)
    let ts := if isB then lineTerms (fun i => pair i line) ((List.range 64).filter fun i => !isOut oa i)
      else lineTerms (fun j => pair line j) (List.range 64)
    match ts, outLines a b oa ob table rest with
    | .error e, _ => .error e
    | .ok _, .error e => .error e
    | .ok (ts, f), .ok (ls, g) => .ok (⟨k, isB, line, ts⟩ :: ls, f ||| g)

/-- The elements whose codes and scale entries the lines of the other operand read, the operand's own outliers apart (R234). -/
def partners (own other : List Nat) : List (Nat × Nat) :=
  (other.map entryK).dedup.flatMap fun k =>
    ((List.range 64).filter fun l => !own.any fun e => entryK e == k && entryLine e == l).map fun l => (l, k)

def lineKeys (oa ob : List Nat) : List (Nat × Bool × Nat) :=
  (List.range 256).flatMap fun k =>
    ((oa.filter fun e => entryK e == k).map fun e => (k, false, entryLine e)) ++
    ((ob.filter fun e => entryK e == k).map fun e => (k, true, entryLine e))

namespace State

/-- What the outlier half makes: its lines and conditions, and the CRCs the records hold. -/
def outHalf (s : State) (w : Work) (id : StepId) : State × Port (List OutLine × Flags × List (Option Nat)) :=
  let tbl := id.table.map tableOf
  andThen (s.operand w (blockA id.block) tbl.isSome) fun s a => andThen (s.outliers w a) fun s oa =>
  andThen (s.operand w (blockB id.block) false) fun s b => andThen (s.outliers w b) fun s ob =>
    if oa.1.isEmpty && ob.1.isEmpty then (s, .ok ([], 0, [oa.2, ob.2]))
    else andThen (s.loadPart w a (partners oa.1 ob.1)) fun s la => andThen (s.loadPart w b (partners ob.1 oa.1)) fun s lb =>
      (s, match outLines la lb oa.1 ob.1 tbl (lineKeys oa.1 ob.1) with
        | .ok (ls, f) => .ok (ls, f, [oa.2, ob.2])
        | .error e => .fail e)

/-! The merge (R44, R236) and the Assayer (R247). -/

/-- The terms of a step at one element, in the order of R44. -/
def elemTerms (dense : Tbl Term) (lines : List OutLine) (i j : Nat) : List Term :=
  (List.range 4).flatMap fun b =>
    let d := (Term.round32 (Tbl.get (.num false 0 0) dense ((i * 64 + j) * 4 + b))).1
    let outs := (lines.filter fun l => l.k / 64 == b).filterMap fun l =>
      if l.isB then (if l.line = j then Tbl.find? l.terms i else none) else if l.line = i then Tbl.find? l.terms j else none
    (match fp32.read d with
      | .fin n m e => .num n m e
      | .inf n => .inf n
      | .nan _ => .nan false) :: outs

/-- The rounded additions of an element. -/
def addTerms (acc : Nat) (ts : List Term) : Nat × Flags :=
  ts.foldl (fun (x : Nat × Flags) t => let y := fp32.add (fp32.read x.1) t.val; (y.1, x.2 ||| y.2)) (acc, 0)

/-- The exact sum of a value and terms, with infinities. -/
def exactSum (x : FVal) (ts : List Term) : FVal :=
  ts.foldl (fun x t => match x, t.val with
    | .nan q, _ => .nan q
    | _, .nan q => .nan q
    | .inf n, .inf m => if n = m then .inf n else .nan false
    | .inf n, _ => .inf n
    | _, .inf m => .inf m
    | .fin n m e, .fin n' m' e' => let y := addFin n m e n' m' e'; .fin y.1 y.2.1 y.2.2) x

/-- FP32 values between two results, both zeros one value (R247). -/
def fpDistance (x y : Nat) : Nat :=
  let ord := fun (a : Nat) => if a ≥ 2 ^ 31 then -((a - 2 ^ 31 : Nat) : Int) else (a : Int)
  (ord x - ord y).natAbs

/-- The deviation of an element; a NaN is skipped. (DEDUCED, assumption 27) -/
def deviation (acc res : Nat) (dense : Tbl Term) (lines : List OutLine) (i j : Nat) : Nat :=
  let outs := lines.filterMap fun l =>
    if l.isB then (if l.line = j then Tbl.find? l.terms i else none) else if l.line = i then Tbl.find? l.terms j else none
  let ts := ((List.range 4).map fun b => Tbl.get (.num false 0 0) dense ((i * 64 + j) * 4 + b)) ++ outs
  let x := exactSum (fp32.read acc) ts
  if x.isNaN || (fp32.read res).isNaN then 0 else fpDistance res (fp32.ofVal x).1

/-- One step in ASSAY_N is recomputed; its record goes to the telemetry ring (R247, R346), and the controller's reading of it clears
ASSAY_STAT but for the count (R248). Whether the Assayer's own datapath agrees is free, as a soft error in either is; a MISMATCH goes to the
log and escalates where ASSAYPOL says so (R319, R346). (DESIGN CHOICE, assumption 87) -/
def assay (s : State) (w : Work) (tile worst : Nat) (crcBad : Bool) : State :=
  let core := w.core
  let c := s.coreDev core
  let n := s.dev.host.assayN
  let k := c.assayCount + 1
  if n = 0 then s
  else if k % n ≠ 0 then s.setCoreDev core { c with assayCount := k }
  else
    let top := max (c.assayStat % 2 ^ 16) (min worst 65535)
    let differs := s.pick 8 2 = 1
    let seq := (c.assayStat / 2 ^ 24 + 1) % 256
    let st := top + boolNat (differs || bit c.assayStat 16) * 2 ^ 16 + boolNat (crcBad || bit c.assayStat 17) * 2 ^ 17 + seq * 2 ^ 24
    let s := (s.setCoreDev core { c with assayCount := k, assayStat := st }).telemetry 1
      (toBytes 4 core ++ toBytes 4 w.gridId ++ toBytes 4 tile ++ toBytes 4 (min worst 65535) ++ toBytes 4 (boolNat differs + 2 * boolNat crcBad))
    if !differs then s
    else
      let s := s.logError w.grid w.gridId 6 core (s.gang w.gang).gangIdx ⟨Config.haltCause % 128, 0, 0⟩ 0
      if s.dev.host.assayPol = 1 then s.escalate none ⟨Config.haltCause % 128, 0, 0, 0, 0, 0, 0⟩ false else s

def tile (s : State) (core k : Nat) : Tile := Tbl.get .zero (s.core core).acc k
def setTile (s : State) (core k : Nat) (x : Tile) : State := s.modCore core fun c => { c with acc := Tbl.set c.acc k x }

/-- The physical tile behind a team's tile name (R135). -/
def physTile (s : State) (team ct : Nat) : Nat := (s.team team).tiles.getD ct 0

/-- An error of a step on a tile leaves it unchanged and sets ERR (R236, R244). -/
def tileError (s : State) (core phys : Nat) : State :=
  let t := s.tile core phys
  s.setTile core phys { t with status := if bit t.status 8 then t.status else t.status + 2 ^ 8 }

/-- Conditions joined to a status word, and a step counted (R244). -/
def statusOf (st : Nat) (fl : Flags) (steps : Nat) : Nat :=
  (BitVec.ofNat 5 st ||| fl).toNat + bits st 8 1 * 2 ^ 8 + min (st / 2 ^ 16 + steps) 65535 * 2 ^ 16

/-- A step's terms merged into a tile (R236). -/
def mergeInto (s : State) (w : Work) (phys : Nat) (dense : Tbl Term) (lines : List OutLine) (fl : Flags) (crcBad : Bool) : State :=
  let t := s.tile w.core phys
  let cells := (List.range 4096).map fun x =>
    let a := (Tbl.get 0 t.el x).toNat
    let r := addTerms a (elemTerms dense lines (x / 64) (x % 64))
    (x, BitVec.ofNat 32 r.1, r.2)
  let el : Tbl Word := (cells.filter fun c => c.2.1 != 0).map fun c => (c.1, c.2.1)
  let fl := cells.foldl (fun f c => f ||| c.2.2) fl
  let n := s.dev.host.assayN
  let worst := if n = 0 || ((s.coreDev w.core).assayCount + 1) % n ≠ 0 then 0
    else cells.foldl (fun m c => max m (deviation (Tbl.get 0 t.el c.1).toNat c.2.1.toNat dense lines (c.1 / 64) (c.1 % 64))) 0
  let s := s.setTile w.core phys ⟨el, statusOf t.status fl 1⟩
  ((s.perfEvent w.core (w.gang % 64) 0x10 1).perfEvent w.core (w.gang % 64) 0x11 lines.length).assay w phys worst crcBad

/-- Whether a body's CRC and the record's differ where both are known (R247). -/
def crcsDiffer (xs ys : List (Option Nat)) : Bool := (xs.zip ys).any fun p => match p with
  | (some x, some y) => x != y
  | _ => false

/-! Order on tiles (R229). -/

def Job.tile : Job → Option Nat
  | .mjoin _ ct => some ct
  | .mloop _ _ ct .. => some ct
  | .cld _ _ ct _ => some ct
  | .cst _ _ ct .. => some ct
  | _ => none

/-- An earlier instruction of the team on the tile is still to have its effect. -/
def tileBusy (s : State) (before team ct : Nat) : Bool :=
  s.ctx.works.any fun x => x.1 < before && x.2.team == team && x.2.fin.isNone && Job.tile x.2.job == some ct

/-! Exit of a team with slots in use (R228, R246). -/

/-- A slot of a team that has exited: halves that issued run on, a merge both of whose halves issued too; otherwise the slot is freed,
and an MJOIN that can never merge ends with SLOTSTATE. -/
def exitSlot (s : State) (team k : Nat) : State :=
  let core := teamCore team
  let x := s.slot core k
  if x.state == .free || x.owner ≠ team || (x.mmbIssued && !x.mmbDone) || (x.moutIssued && !x.moutDone) then s
  else if x.state == .joining && x.mmbIssued && x.moutIssued then s
  else
    let s := s.setSlot core k .free
    let waits := fun (w : Nat × Work) => w.2.team == team && (match w.2.job with
      | .mjoin j _ => j == k
      | _ => false)
    match List.find? waits s.ctx.works with
    | some (id, w) => s.endWork id { w with info := slotErr.info } cMALFORMED 0 0
    | none => s

def freeSlots (s : State) (team : Nat) : State := (List.range 4).foldl (fun s k => s.exitSlot team k) s

/-- The slots of a team that has ended go with their last half; those of one whose write-backs are still awaited stay (R305). -/
def exitSlots (s : State) (team : Nat) : State := if (s.team team).exited && !(s.team team).live then s.freeSlots team else s

/-! The events of a step. -/

/-- A half completes: its part of the slot, and its token (R231, R234). -/
def halfDone (s : State) (id : Nat) (w : Work) (k : Nat) (dense : Bool) (f : Slot → Slot) (e : Option Err) : State :=
  let x := f (s.slot w.core k)
  let x := if dense then { x with mmbDone := true, mmbErr := e } else { x with moutDone := true, moutErr := e }
  let y := e.getD ⟨0, 0, 0⟩
  { ((s.setSlot w.core k x).noteInfo id e).finishWork id y.cause 0 y.addr with eng := none }.exitSlots w.team

/-- A half is attempted; a fault of any kind is the half's error. -/
def halfStep {α : Type} (s : State) (id : Nat) (w : Work) (k : Nat) (dense : Bool) (r : State × Port α) (f : α → Slot → Slot) : State :=
  match r with
  | (t, .ok v) => t.halfDone id w k dense (f v) none
  | (t, .fail e) => t.halfDone id w k dense (fun x => x) (some e)
  | (_, .miss p b) => (s.postMiss p b false w.gridId).setWork id { w with stall := some p }
  | (_, .away w) => s.askRemote id w

/-- The bytes a held operand leaves in the latch, where it still stands (R232). -/
def fillLatch (s : State) (w : Work) (id : StepId) : State :=
  match (s.core w.core).latch, s.operand w (blockA id.block) false with
  | some l, (t, .ok a) =>
    if l.gang = w.gang && l.fields == holdFields id.block && l.body.isEmpty then
      s.modCore w.core fun c => { c with latch := some { l with body := t.stashBytes w.team a.body a.bytes,
                                                                scales := t.stashBytes w.team a.scale 512 } }
    else s
  | _, _ => s

def mmbStep (s : State) (id : Nat) : State :=
  match s.work? id with
  | some w => match w.job with
    | .mmb step k hold =>
      if s.workHeld id w then s
      else
        let r := { s with eng := some id }.denseHalf w step
        let r := match r with
          | (t, .ok v) => (if hold then t.fillLatch w step else t, .ok v)
          | r => r
        s.halfStep id w k true r fun v x => { x with dense := v.1, flags := x.flags ||| v.2.1, bodyCrc := v.2.2 }
    | _ => s
  | none => s

def moutStep (s : State) (id : Nat) : State :=
  match s.work? id with
  | some w => match w.job with
    | .mout step k =>
      if s.workHeld id w then s
      else s.halfStep id w k false ({ s with eng := some id }.outHalf w step) fun v x =>
        { x with lines := v.1, flags := x.flags ||| v.2.1, wantCrc := v.2.2 }
    | _ => s
  | none => s

/-- MJOIN_MERGE (R236). -/
def joinStep (s : State) (id : Nat) : State :=
  match s.work? id with
  | some w => match w.job with
    | .mjoin k ct =>
      let x := s.slot w.core k
      if s.workHeld id w || !x.mmbDone || !x.moutDone || s.tileBusy id w.team ct then s
      else
        let phys := s.physTile w.team ct
        let s := s.setSlot w.core k .free
        (match x.mmbErr.or x.moutErr with
         | some e => (s.tileError w.core phys).failWork id 0 e
         | none => (s.mergeInto w phys x.dense x.lines x.flags (crcsDiffer x.bodyCrc x.wantCrc)).finishWork id 0 0 0)
    | _ => s
  | none => s

/-! MLOOP (R237, R238). -/

structure Loop where
  n : Nat
  sync : Bool
  pctr : Nat
  dta : Int
  dtb : Int
  ring : Nat
  ds : Int
  baroff : Nat
  zeros : Bool
  deriving DecidableEq, Repr

def parseLoop (l : List Word) : Loop :=
  let a := (l.getD 0 0).toNat
  let b := (l.getD 1 0).toNat
  { n := a % 2 ^ 16, sync := bit a 16, pctr := bits a 17 4, dta := signExt b 8, dtb := signExt (b / 2 ^ 8) 8, ring := bits b 16 5,
    ds := (l.getD 2 0).toInt, baroff := (l.getD 3 0).toNat, zeros := a / 2 ^ 21 == 0 && b / 2 ^ 21 == 0 }

def Loop.q (l : Loop) : Nat := max l.ring 1

/-- MLOOP's own checks at issue, before the reservation. -/
def loopCheck (s : State) (gridId team : Nat) (b : List Word) (l : Loop) : Option Err :=
  if !l.zeros || l.ring > 16 then some ⟨cRESERVED, 0, 0⟩
  else (s.stepCheck gridId b).or
    (if l.ds % 128 ≠ 0 then some (stashErr cMISALIGNED (wrap 32 l.ds))
     else if l.sync && l.baroff % 16 ≠ 0 then some (stashErr cMISALIGNED l.baroff)
     else if l.sync && l.baroff + 16 * l.q > s.fstash team then some (stashErr cBOUNDS l.baroff) else none)

/-- The operands of step j. -/
def loopOperands (b : List Word) (l : Loop) (j : Nat) : Operand × Operand :=
  let off : Int := if l.ring ≠ 0 then (j % l.ring : Nat) * l.ds else j * l.ds
  let mv := fun (x : Operand) (dt : Int) => { x with t := x.t + j * dt, body := x.body + off, scale := x.scale + off }
  (mv (blockA b) l.dta, mv (blockB b) l.dtb)

/-- The step block of step j. A tile index above 2^32 - 1 wraps as a register does (DESIGN CHOICE, assumption 98). -/
def loopBlock (b : List Word) (l : Loop) (j : Nat) : List Word :=
  let (x, y) := loopOperands b l j
  let w := fun (i : Int) => BitVec.ofNat 32 (wrap 32 i)
  [b.getD 0 0, w x.t, w y.t, w x.body, w x.scale, w y.body, w y.scale, 0]

/-- Phases of ring objects as they stand (R238). -/
def phases (w : Work) (l : Loop) : List Nat → State → State × Port (List Nat)
  | [], s => (s, .ok [])
  | r :: rs, s => andThen (s.engStashNow w w.team (l.baroff + 16 * r) 16) fun s b =>
      andThen (phases w l rs s) fun s ps => (s, .ok ((BarObj.parse b).phase :: ps))

/-- A fault as an outcome that an engine goes on from. -/
def caught {α : Type} (r : State × Port α) : State × Port (Except Err α) :=
  (r.1, match r.2 with
    | .fail e => .ok (.error e)
    | .ok v => .ok (.ok v)
    | .miss p b => .miss p b
    | .away w => .away w)

/-- The slots of an MLOOP become FREE with its token. -/
def freeLoopSlots (s : State) (w : Work) (s0 : Nat) (two : Bool) : State :=
  let s := s.setSlot w.core s0 .free
  if two then s.setSlot w.core (s0 ^^^ 1) .free else s

/-- The phase that a step awaits has been seen: what its tile's Carter placed is read as it stands, and nothing from before now (R192, R238). Without
SYNC a step reads what stood at any instant since the step before it. -/
def loopReady (s : State) (id : Nat) (w : Work) (l : Loop) (j phase : Nat) : State :=
  if l.sync then (s.phaseSeen w.gang (l.baroff + 16 * (j % l.q)) phase).modWork id fun w => { w with born := s.ticks } else s

/-- MLOOP_STEP: the phases at the start, one step, or the end. A step that fails after its reads still grants its permit; a fault of
any read ends the loop with the count of the steps before it (R238). No step starts while pre-emption is asked for (R245). (DEDUCED, assumption 25) -/
def loopStep (s : State) (id : Nat) : State :=
  match s.work? id with
  | some w => match w.job with
    | .mloop step lw ct s0 two j ph0 =>
      let l := parseLoop lw
      let phys := s.physTile w.team ct
      let done := fun (s : State) (cause count addr : Nat) =>
        ((s.freeLoopSlots w s0 two).finishWork id cause count addr, (.ok () : Port Unit))
      let fail := fun (s : State) (e : Err) => done ((s.tileError w.core phys).noteInfo id (some e)) e.cause j e.addr
      if l.n = 0 then (if w.fin.isSome then s else (done s 0 0 0).1)
      else if s.workHeld id w || s.dev.pre.req || s.tileBusy id w.team ct then s
      else s.attempt id fun w s =>
        if l.sync && ph0.isEmpty then
          andThen (caught (phases w l (List.range l.q) s)) fun s ps => match ps with
            | .error e => fail s e
            | .ok ps => (s.modWork id fun w => { w with job := .mloop step lw ct s0 two j ps }, .ok ())
        else if j ≥ l.n then done s 0 l.n 0
        else
          let (x, y) := loopOperands step.block l j
          if x.t < 0 || y.t < 0 || x.body < 0 || x.scale < 0 || y.body < 0 || y.scale < 0 then fail s ⟨cBOUNDS, 0, 0⟩
          else andThen (caught (if l.sync then phases w l [j % l.q] s else (s, .ok []))) fun s ph => match ph with
            | .error e => fail s e
            | .ok ph =>
              if l.sync && ph.headD 0 ≠ (ph0.getD (j % l.q) 0 + j / l.q + 1) % 16 then (s, .ok ())
              else
                let sid : StepId := ⟨loopBlock step.block l j, step.table⟩
                let granted := fun (s : State) => if l.sync then s.permit w.team l.pctr 1 else s
                let s := s.loopReady id w l j (ph.headD 0)
                andThen (caught (s.denseHalf w sid)) fun s da => andThen (caught (s.outHalf { w with op10 := 0x054 } sid)) fun s ou =>
                  match da, ou with
                  | .error e, _ => fail (granted s) e
                  | .ok _, .error e => fail (granted s) e
                  | .ok d, .ok o =>
                    let s := granted (s.mergeInto w phys d.1 o.1 (d.2.1 ||| o.2.1) (crcsDiffer d.2.2 o.2.2))
                    (s.modWork id fun w => { w with job := .mloop step lw ct s0 two (j + 1) ph0, born := s.ticks }, .ok ())
    | _ => s
  | none => s

/-! QSCALE, QSPLIT and QDEQ (R239 to R242). -/

/-- The issue checks of R239. -/
def quantCheck (s : State) (gridId team h so pitch e : Nat) (dst : Option Nat) : Option Err :=
  let f := s.fstash team
  (s.splitHandle gridId h).or
    (if so % 64 ≠ 0 || pitch % 64 ≠ 0 then some (stashErr cMISALIGNED so)
     else if pitch < 256 * e || so + 63 * pitch + 256 * e > f then some (stashErr cBOUNDS so)
     else match dst with
       | some d => if d % 64 ≠ 0 then some (stashErr cMISALIGNED d) else if d + 512 > f then some (stashErr cBOUNDS d) else none
       | none => none)

/-- Descriptor and tile index, in the engine. -/
def quantDesc (s : State) (w : Work) (h t : Nat) : State × Port Desc :=
  andThen (s.descOf w.gridId h) fun s d => (s, if t ≥ d.tlines * d.tks then .fail ⟨cBOUNDS, 0, 0⟩ else .ok d)

/-- The lines of a stash tile as FP32 elements (R240). -/
def stashLines (w : Work) (so pitch e : Nat) : List Nat → State → State × Port (List (List Nat))
  | [], s => (s, .ok [])
  | l :: ls, s => andThen (s.engStash w w.team (so + l * pitch) (256 * e)) fun s bs =>
      andThen (stashLines w so pitch e ls s) fun s rest =>
        (s, .ok (((chunks e 256 bs).map fun b => if e = 2 then ofBytes b * 2 ^ 16 else ofBytes b) :: rest))

/-- The encoded tile of lines read before or now, with these lines. -/
def encodedLines (s : State) (w : Work) (h t so pitch : Nat) (bf : Bool) (held : List (List Nat)) : State × Port (Desc × TileImage × List (List Nat)) :=
  andThen (s.quantDesc w h t) fun s d =>
    andThen (if held.isEmpty then stashLines w so pitch (if bf then 2 else 4) (List.range 64) s else (s, .ok held)) fun s ls =>
      (s, .ok (d, encodeTile d (t % d.tks) ls, ls))

/-- The encoded tile that QSCALE and QSPLIT share. -/
def encoded (s : State) (w : Work) (h t so pitch : Nat) (bf : Bool) : State × Port (Desc × TileImage) :=
  andThen (s.encodedLines w h t so pitch bf []) fun s x => (s, .ok (x.1, x.2.1))

/-- {SAT, n} (R240). -/
def satCount (x : TileImage) : Nat := boolNat x.sat * 2 ^ 23 + x.outs.length % 2 ^ 23

def qscaleStep (s : State) (id : Nat) : State :=
  s.attempt id fun w s =>
    match w.job with
    | .qscale h t so pitch dst bf =>
      andThen (s.encoded w h t so pitch bf) fun s x =>
        match s.stashReadOnly w.team dst 512 with
        | some o => (s.finishWork id cRIGHTS (satCount x.2) (stashErr 0 o).addr, .ok ())
        | none => ((s.stashWrite w.team dst x.2.scales).finishWork id 0 (satCount x.2) 0, .ok ())
    | _ => (s, .ok ())

/-- The checks of QSPLIT on every byte it will write (R240 step 1). -/
def splitParts (s : State) (gridId : Nat) (d : Desc) (t n : Nat) : Option Err :=
  let one := fun (h off len rights align : Nat) (atomic : Bool) => match s.check gridId h off len ⟨rights, align, atomic, false⟩ with
    | .error c => some (errAt c h off)
    | .ok _ => none
  (((one d.body (t * d.tileBytes) d.tileBytes rW 1 false).or (one d.scale (512 * t) 512 rW 1 false)).or
    (one d.outl (t * d.recBytes) d.recBytes rW 1 false)).or
    (if n > d.cap then (one d.spill 0 (4 * d.poolCap) rW 1 false).or
      (one (d.fill / 2 ^ 52) (d.fill % 2 ^ 52) 8 (rR ||| rW ||| rATOM) 8 true) else none)

/-- A part of a tile goes out: as beats of a Mill graph, or piece by piece, so that a reader without order may find it half written
(R42); a fault of any piece is the write's (R176). -/
def placePart (s : State) (id : Nat) (w : Work) (h off : Nat) (bs : List Byte) : State × Port Unit :=
  if s.milled h true then s.engWrite id w h [(off, bs)] 1
  else
    let n := if off % 16 = 0 && bs.length % 16 = 0 then 16 else 4
    let reqs := (chunks n (bs.length / n) bs).zipIdx.map fun (b, i) => (⟨i, off + n * i, ofBytes b, 0⟩ : Req)
    (s.addAccess { s.queuedWrite h reqs none with wd := if n = 16 then .q else .w }, .ok ())

def placeParts (id : Nat) (w : Work) : List (Nat × Nat × List Byte) → State → State × Port Unit
  | [], s => (s, .ok ())
  | (h, off, bs) :: rest, s => andThen (s.placePart id w h off bs) fun s _ => placeParts id w rest s

/-- QSPLIT_COMPLETE: the reservation, and with it every part of the tile on its way (R40, R240). The lines are read once: they are kept while the
owner of a fill counter answers. -/
def qsplitStep (s : State) (id : Nat) : State :=
  s.attempt id fun w s =>
    match w.job with
    | .qsplit h t so pitch bf held =>
      andThen (s.encodedLines w h t so pitch bf held) fun s x =>
        let d := x.1
        let im := x.2.1
        let n := im.outs.length
        let fin := fun (s : State) (e : Err) => (s.failWork id (satCount im) e, (.ok () : Port Unit))
        match s.splitParts w.gridId d t n with
        | some e => fin s e
        | none => match s.reserve w.gridId d n with
          | (s, .fail e) => fin s e
          | (s, .miss p b) => (s, .miss p b)
          | (s, .away y) => ((s.askRemote id y).modWork id fun w => { w with job := .qsplit h t so pitch bf x.2.2 }, .ok ())
          | (s, .ok (_, none)) => fin s ⟨cOVERFLOW, 0, 0⟩
          | (s, .ok (y, some f)) =>
            let s := if n > d.cap then s.noteWork id (d.fill / 2 ^ 52) y else s
            andThen (placeParts id w (tileWrites d t im f) s) fun s _ => (s.finishWork id 0 (satCount im) 0, .ok ())
    | _ => (s, .ok ())

/-- Where the first failing test of a reader finds its fault (R184, R38). -/
def partsSite (d : Desc) (t : Nat) (x : TileParts) : Err :=
  let r := errAt cMALFORMED d.outl (t * d.recBytes)
  if headerBad d x.header then r
  else if entriesBad x.entries then errAt cMALFORMED d.outl (t * d.recBytes + 16)
  else match (List.range 256).find? fun i => scaleEntry x.scales (i / 4) (i % 4) / 2 ^ 12 != 0 with
    | some i => errAt cMALFORMED d.scale (512 * t + 2 * i)
    | none =>
      let base := numAt x.header 9 1 % 16
      if base ≠ 4 * (t % d.tks) % 16 then r
      else match (List.range 256).find? fun i => bits (scaleEntry x.scales (i / 4) (i % 4)) 8 4 != (base + i % 4) % 16 with
        | some i => errAt cSKEW d.scale (512 * t + 2 * i)
        | none => errAt cMALFORMED d.body (t * d.tileBytes)

/-- QDEQ_COMPLETE (R242). Of a plane-major tile read at fewer planes than it has, only these planes are fetched, so its BODYCRC, a CRC of
all of them, is not checked (DESIGN CHOICE, assumption 80). -/
def qdeqStep (s : State) (id : Nat) : State :=
  s.attempt id fun w s =>
    match w.job with
    | .qdeq h t so pitch pq bf =>
      andThen (s.quantDesc w h t) fun s d =>
        let p := if pq = 0 then d.planes else pq
        let whole := d.layout ≠ 0 || p ≥ d.planes
        andThen (s.readTile w.gridId d t (if whole then d.tileBytes else p * 2048)) fun s x =>
          let c := if p > d.planes || headerBad d x.1.header then cMALFORMED else x.1.bad d (t % d.tks) whole
          let e := if bf then 2 else 4
          if c ≠ 0 then (s, .fail { partsSite d t x.1 with cause := c })
          else match x.2 with
          | some a => (s, .fail ⟨cPOISON, a, 0⟩)
          | none =>
            match (List.range 64).findSome? fun l => s.stashReadOnly w.team (so + l * pitch) (256 * e) with
            | some o => (s, .fail (stashErr cRIGHTS o))
            | none =>
              let rows := chunks 256 (x.1.body.length / 256) x.1.body
              let vals := (List.range 64).map fun l => (List.range 256).map fun k =>
                (if bf then bf16 else fp32).ofVal (x.1.value d p rows l k)
              let fl : Flags := vals.foldl (fun f r => r.foldl (fun f v => f ||| v.2) f) 0
              let s := vals.zipIdx.foldl (fun s (r, l) => s.stashWrite w.team (so + l * pitch) (r.flatMap fun v => toBytes e v.1)) s
              (s.finishWork id 0 fl.toNat 0, .ok ())
    | _ => (s, .ok ())

/-! CLD and CST (R243). -/

def accCheck (s : State) (team so pitch e : Nat) : Option Err :=
  if so % 64 ≠ 0 || pitch % 64 ≠ 0 then some (stashErr cMISALIGNED so)
  else if pitch < 64 * e || so + 63 * pitch + 64 * e > s.fstash team then some (stashErr cBOUNDS so) else none

def accLines (w : Work) (so pitch e : Nat) : List Nat → State → State × Port (List (List Nat))
  | [], s => (s, .ok [])
  | i :: is, s => andThen (s.engStash w w.team (so + i * pitch) (64 * e)) fun s bs =>
      andThen (accLines w so pitch e is s) fun s rest => (s, .ok ((chunks e 64 bs).map ofBytes :: rest))

def cldStep (s : State) (id : Nat) : State :=
  s.attempt id fun w s =>
    match w.job with
    | .cld so pitch ct bf =>
      if s.tileBusy id w.team ct then (s, .ok ())
      else andThen (accLines w so pitch (if bf then 2 else 4) (List.range 64) s) fun s ls =>
        let vals := ls.flatten.map fun v =>
          let x := if bf then bf16.read v else fp32.read v
          if x.isNaN then (0x7FC00000, if x.signals then nv else 0) else if bf then fp32.ofVal x else (v, 0)
        let fl : Flags := vals.foldl (fun f v => f ||| v.2) 0
        let el : Tbl Word := (vals.zipIdx.filter fun v => v.1.1 != 0).map fun v => (v.2, BitVec.ofNat 32 v.1.1)
        ((s.setTile w.core (s.physTile w.team ct) ⟨el, (fl &&& nv).toNat⟩).finishWork id 0 0 0, .ok ())
    | _ => (s, .ok ())

/-- Rows placed until one meets a region mapped .ro; the bytes before it stay placed. -/
def cstRows (team so pitch : Nat) : List (Nat × List Byte) → State → State × Option Nat
  | [], s => (s, none)
  | (i, bs) :: rest, s => match s.stashReadOnly team (so + i * pitch) bs.length with
    | some o => (s.stashWrite team (so + i * pitch) (bs.take (o - (so + i * pitch))), some o)
    | none => cstRows team so pitch rest (s.stashWrite team (so + i * pitch) bs)

/-- CST_COMPLETE (R243). The conditions of a store that a region mapped .ro ends are those of all 4 096 elements (DESIGN CHOICE, assumption 100). -/
def cstStep (s : State) (id : Nat) : State :=
  s.attempt id fun w s =>
    match w.job with
    | .cst so pitch ct bf clr =>
      if s.tileBusy id w.team ct then (s, .ok ())
      else
        let phys := s.physTile w.team ct
        let t := s.tile w.core phys
        let vals := (List.range 4096).map fun x =>
          let v := (Tbl.get 0 t.el x).toNat
          if bf then bf16.ofVal (fp32.read v) else (v, 0)
        let fl : Flags := vals.foldl (fun f v => f ||| v.2) 0
        let rows := (chunks 64 64 vals).map fun r => r.flatMap fun v => toBytes (if bf then 2 else 4) v.1
        let s := s.setTile w.core phys { t with status := statusOf t.status fl 0 }
        match cstRows w.team so pitch (rows.zipIdx.map fun r => (r.2, r.1)) s with
        | (s, some o) => (s.finishWork id cRIGHTS 0 (stashErr 0 o).addr, .ok ())
        | (s, none) =>
          let s := if clr then s.setTile w.core phys ⟨[], (s.tile w.core phys).status % 2 ^ 16⟩ else s
          (s.finishWork id 0 0 0, .ok ())
    | _ => (s, .ok ())

/-- An instruction of another gang of the core drops the HOLD latch (R232). -/
def loomIssue (s : State) (a : At) : State :=
  s.modCore a.core fun c => { c with latch := c.latch.filter fun l => l.gang == a.gang }

end State

/-! The instructions. -/

def blockOf (g : Gang) (r n : Nat) : List Word := (List.range n).map fun i => g.sreg (r + i)

/-- The steps' identity (R227, R233). -/
def stepIdOf (g : Gang) (sa sb : Nat) (table : Bool) : StepId := ⟨blockOf g sa 8, if table then some (blockOf g sb 4) else none⟩

/-- A half's instruction: checks, slot, job (R228, R231, R234). -/
def halfOp (tok op10 : Nat) (step : At → State → StepId) (k : Nat) (dense : Bool) (job : StepId → Job) (latch : StepId → Option Latch → At → Option Latch)
    (a : At) (s : State) : Res :=
  let id := step a s
  match s.stepCheck (s.gridIdOf a.gang) id.block with
  | some e => .trap s a.set e.cause e.addr e.info
  | none =>
    match (s.slot a.core k).half (s.gang a.gang).team id dense with
    | .waits => .stall
    | .bad => .trap s a.set slotErr.cause slotErr.addr slotErr.info
    | .go x =>
      if !dense && (s.countWorks (fun w => ((0x041 ≤ w.op10 && w.op10 ≤ 0x043) || w.op10 == 0x054) && w.core == a.core) ≥ 16) then .stall
      else
        let s := (s.loomIssue a).setSlot a.core k x
        let s := s.modCore a.core fun c => { c with latch := latch id c.latch a }
        .done (a.start s tok op10 (job id))

def execMmb (u : UGuard) (sd sa sb : SReg) (k : Fin 4) (hold table : Bool) (s : State) : Host.Outcome State Fault Refusal :=
  issue (.mmb u sd sa sb k hold table)
    (halfOp sd 0x053 (fun a s => stepIdOf (s.gang a.gang) sa sb table) k true (fun id => .mmb id k hold) fun id l a =>
      let f := State.holdFields id.block
      match l with
      | some l => if l.fields == f then some l else if hold then some ⟨a.gang, f, [], []⟩ else none
      | none => if hold then some ⟨a.gang, f, [], []⟩ else none) s

def execMout (u : UGuard) (sd sa sb : SReg) (k : Fin 4) (table : Bool) (s : State) : Host.Outcome State Fault Refusal :=
  issue (.mout u sd sa sb k table)
    (halfOp sd 0x054 (fun a s => stepIdOf (s.gang a.gang) sa sb table) k false (fun id => .mout id k) fun _ l _ => l) s

def execMjoin (u : UGuard) (sd : SReg) (k : Fin 4) (ct : CReg) (s : State) : Host.Outcome State Fault Refusal :=
  issue (.mjoin u sd k ct)
    (fun a s =>
      match (s.slot a.core k).join (s.gang a.gang).team with
      | .waits => .stall
      | .bad => .trap s a.set slotErr.cause slotErr.addr slotErr.info
      | .go x => .done (a.start ((s.loomIssue a).setSlot a.core k x) sd 0x055 (.mjoin k ct))) s

def execMloop (u : UGuard) (sd sa sb sc : SReg) (ct : CReg) (s0 : Fin 4) (two table : Bool) (s : State) :
    Host.Outcome State Fault Refusal :=
  issue (.mloop u sd sa sb sc ct s0 two table)
    (fun a s =>
      let g := s.gang a.gang
      let id := stepIdOf g sa sc table
      let lw := blockOf g sb 4
      match s.loopCheck (s.gridIdOf a.gang) g.team id.block (State.parseLoop lw) with
      | some e => .trap s a.set e.cause e.addr e.info
      | none =>
        let ks := if two then [s0.val, s0.val ^^^ 1] else [s0.val]
        let rs := ks.map fun k => (k, (s.slot a.core k).loop g.team)
        if rs.any fun r => r.2 == .bad then .trap s a.set slotErr.cause slotErr.addr slotErr.info
        else if rs.any fun r => r.2 == .waits then .stall
        else
          let s := rs.foldl (fun s r => match r.2 with
            | .go x => s.setSlot a.core r.1 x
            | _ => s) (s.loomIssue a)
          .done (a.start s sd 0x056 (.mloop id lw ct s0 two 0 []))) s

def quantOp (tok op10 : Nat) (check : At → State → Option Err) (job : At → State → Job) (a : At) (s : State) : Res :=
  match check a s with
  | some e => .trap s a.set e.cause e.addr e.info
  | none => .done (a.start (s.loomIssue a) tok op10 (job a s))

def execQscale (u : UGuard) (sd sa sb sc : SReg) (bf : Bool) (s : State) : Host.Outcome State Fault Refusal :=
  issue (.qscale u sd sa sb sc bf)
    (fun a s =>
      let g := s.gang a.gang
      let r := fun (i : Nat) => (g.sreg i).toNat
      quantOp sd 0x050 (fun a s => s.quantCheck (s.gridIdOf a.gang) g.team (r sa) (r sb) (r (sb.val + 1)) (if bf then 2 else 4) (some (r sc)))
        (fun _ _ => .qscale (r sa) (r (sa.val + 1)) (r sb) (r (sb.val + 1)) (r sc) bf) a s) s

def execQsplit (u : UGuard) (sd sa sb : SReg) (bf : Bool) (s : State) : Host.Outcome State Fault Refusal :=
  issue (.qsplit u sd sa sb bf)
    (fun a s =>
      let g := s.gang a.gang
      let r := fun (i : Nat) => (g.sreg i).toNat
      quantOp sd 0x051 (fun a s => s.quantCheck (s.gridIdOf a.gang) g.team (r sa) (r sb) (r (sb.val + 1)) (if bf then 2 else 4) none)
        (fun _ _ => .qsplit (r sa) (r (sa.val + 1)) (r sb) (r (sb.val + 1)) bf []) a s) s

def execQdeq (u : UGuard) (sd sa sb : SReg) (pq : Fin 16) (bf : Bool) (s : State) : Host.Outcome State Fault Refusal :=
  issue (.qdeq u sd sa sb pq bf)
    (fun a s =>
      let g := s.gang a.gang
      let r := fun (i : Nat) => (g.sreg i).toNat
      quantOp sd 0x052 (fun a s => s.quantCheck (s.gridIdOf a.gang) g.team (r sa) (r sb) (r (sb.val + 1)) (if bf then 2 else 4) none)
        (fun _ _ => .qdeq (r sa) (r (sa.val + 1)) (r sb) (r (sb.val + 1)) pq bf) a s) s

/-- CZERO waits at issue for earlier instructions on its tile (R229). -/
def execCzero (u : UGuard) (ct : CReg) (s : State) : Host.Outcome State Fault Refusal :=
  issue (.czero u ct)
    (fun a s =>
      let team := (s.gang a.gang).team
      if s.tileBusy s.ctx.nextId team ct then .stall
      else .done ((a.step (s.loomIssue a)).setTile a.core (s.physTile team ct) .zero)) s

def execCstat (u : UGuard) (sd : SReg) (ct : CReg) (clr : Bool) (s : State) : Host.Outcome State Fault Refusal :=
  issue (.cstat u sd ct clr)
    (fun a s =>
      let team := (s.gang a.gang).team
      let phys := s.physTile team ct
      let t := s.tile a.core phys
      if s.tileBusy s.ctx.nextId team ct then .stall
      else
        let s := if clr then s.setTile a.core phys { t with status := t.status / 2 ^ 16 * 2 ^ 16 } else s
        gangOp (fun g => g.setS sd (BitVec.ofNat 32 t.status)) a (s.loomIssue a)) s

def execCld (u : UGuard) (sd sa sb : SReg) (ct : CReg) (bf : Bool) (s : State) : Host.Outcome State Fault Refusal :=
  issue (.cld u sd sa sb ct bf)
    (fun a s =>
      let g := s.gang a.gang
      let so := (g.sreg sa).toNat
      let pitch := (g.sreg sb).toNat
      quantOp sd 0x058 (fun _ s => s.accCheck g.team so pitch (if bf then 2 else 4)) (fun _ _ => .cld so pitch ct bf) a s) s

def execCst (u : UGuard) (sd sa sb : SReg) (ct : CReg) (bf clr : Bool) (s : State) : Host.Outcome State Fault Refusal :=
  issue (.cst u sd sa sb ct bf clr)
    (fun a s =>
      let g := s.gang a.gang
      let so := (g.sreg sa).toNat
      let pitch := (g.sreg sb).toNat
      quantOp sd 0x059 (fun _ s => s.accCheck g.team so pitch (if bf then 2 else 4)) (fun _ _ => .cst so pitch ct bf clr) a s) s

def execMmbHalfComplete (work : Nat) (s : State) : Host.Outcome State Fault Refusal := .next (s.mmbStep work)
def execMoutHalfComplete (work : Nat) (s : State) : Host.Outcome State Fault Refusal := .next (s.moutStep work)
def execMjoinMerge (work : Nat) (s : State) : Host.Outcome State Fault Refusal := .next (s.joinStep work)
def execMloopStep (work : Nat) (s : State) : Host.Outcome State Fault Refusal := .next (s.loopStep work)
def execQscaleComplete (work : Nat) (s : State) : Host.Outcome State Fault Refusal := .next (s.qscaleStep work)
def execQsplitComplete (work : Nat) (s : State) : Host.Outcome State Fault Refusal := .next (s.qsplitStep work)
def execQdeqComplete (work : Nat) (s : State) : Host.Outcome State Fault Refusal := .next (s.qdeqStep work)
def execCldComplete (work : Nat) (s : State) : Host.Outcome State Fault Refusal := .next (s.cldStep work)
def execCstComplete (work : Nat) (s : State) : Host.Outcome State Fault Refusal := .next (s.cstStep work)

end Sys2Proof.Machine
end

