-- ==== Sys2Proof/Machine/Media.lean ====
section
/-! DEFINITION. The media decoders (R199 to R203). What a decoder makes of an access unit is the AV1 and HEVC standards' matter: free
values of Config. Everything around it is modelled: the session descriptor, its checks, the placing of samples, and the status. -/

namespace Sys2Proof.Machine

open Sys2Proof

/-- A plane of a session descriptor (R200). -/
structure Plane where
  h : Nat
  zero : Nat
  off : Nat
  pitch : Nat
  deriving DecidableEq, Repr

structure Session where
  codec : Nat
  layout : Bool
  reset : Bool
  maxw : Nat
  maxh : Nat
  bsh : Nat
  refh : Nat
  refoff : Nat
  refsize : Nat
  planes : List Plane
  bad : Bool
  deriving DecidableEq, Repr

def parsePlane (b : List Byte) (o : Nat) : Plane :=
  ⟨numAt b o 4 % 4096, numAt b o 4 / 4096, numAt b (o + 4) 8, numAt b (o + 12) 4⟩

/-- The descriptor and whether it is malformed (R200). -/
def parseSession (b : List Byte) : Session :=
  let w := numAt b 0 4
  let maxw := numAt b 4 2
  let maxh := numAt b 6 2
  let codec := w % 16
  let layout := bit w 4
  let nr := if codec = 1 then 8 else 16
  let ps := [0x20, 0x30, 0x40].map (parsePlane b)
  { codec := codec, layout := layout, reset := bit w 5, maxw := maxw, maxh := maxh, bsh := numAt b 8 4 % 4096,
    refh := numAt b 12 4 % 4096, refoff := numAt b 0x10 8, refsize := numAt b 0x18 8, planes := ps,
    bad := (codec != 1 && codec != 2) || w / 64 != 0 || maxw < 16 || 8192 < maxw || maxh < 16 || 4352 < maxh ||
      numAt b 8 4 / 4096 != 0 || numAt b 12 4 / 4096 != 0 || numAt b 0x10 8 % 4096 != 0 ||
      numAt b 0x18 8 < (nr + 2) * roundUp maxw 64 * roundUp maxh 64 * 3 + 2097152 ||
      ps.any fun p => p.zero != 0 || p.pitch % 64 != 0 || (layout && p.pitch != 0) }

/-- RoundNE16b(v / (2^d - 1)) (R202). -/
def sampleValue (d v : Nat) : Nat :=
  let m := 2 ^ d - 1
  let n := v * 2 ^ 60
  (bf16.ofVal (.fin false (2 * (n / m) + boolNat (n % m != 0)) (-61))).1

/-- How many rows a plane is written in: lines, or the lines of its tiles (R202). -/
def planeRows (layout : Bool) (w h : Nat) : Nat := if layout then ceilDiv w 256 * ceilDiv h 64 * 64 else h

/-- One row of a plane as it is written, pitch-linear or in split-tile order, with its offset; what lies beyond the picture is +0 (R202). -/
def planeRow (layout : Bool) (p : Plane) (w h : Nat) (px : Nat → Nat → Nat) (r : Nat) : Nat × List Byte :=
  let sample := fun (x y : Nat) => toBytes 2 (if x < w ∧ y < h then px x y else 0)
  if layout then
    let tks := ceilDiv w 256
    let t := r / 64
    let l := r % 64
    (p.off + t * 32768 + l * 512, (List.range 256).flatMap fun k => sample (t % tks * 256 + k) (t / tks * 64 + l))
  else (p.off + r * p.pitch, (List.range (max w (p.pitch / 2))).flatMap fun x => sample x r)

/-- Bytes from a plane's offset to the end of its extent. -/
def planeExtent (layout : Bool) (p : Plane) (w h : Nat) : Nat :=
  if layout then ceilDiv w 256 * ceilDiv h 64 * 32768 else if h = 0 then 0 else (h - 1) * p.pitch + max (2 * w) p.pitch

/-- What a decoder makes of a unit, as far as the manual goes (R199, R201, R202): SHOWN, MONO, TEN, ERR and the picture size. A kind
that is not supported has ERR 2, HEVC is never monochrome, and HEVC Main has 8 bits. -/
structure Decoded where
  shown : Bool
  mono : Bool
  ten : Bool
  err : Nat
  pw : Nat
  ph : Nat
  deriving DecidableEq, Repr

def decoded (d : Session) (earlier : List (List Byte)) (unit : List Byte) : Decoded :=
  let kind := Config.decodeKind d.codec earlier unit
  let (shown, mono, ten, err) := Config.decodeStatus d.codec earlier unit
  let (pw, ph) := Config.decodeSize d.codec earlier unit
  let known := if d.codec = 1 then kind == .av1Main else kind == .hevcMain || kind == .hevcMain10
  let err := if !known then 2 else if pw > d.maxw || ph > d.maxh then 4 else err % 4
  ⟨shown && err != 2 && err != 4, mono && d.codec == 1, ten && kind != .hevcMain, err, pw, ph⟩

/-- The planes of a session with their sizes for a picture, chroma halved (R202). -/
def Session.sized (d : Session) (w h : Nat) : List (Plane × Nat × Nat) :=
  (d.planes.zipIdx).map fun (p, i) => if i = 0 then (p, w, h) else (p, ceilDiv w 2, ceilDiv h 2)

/-- The rows of a unit's picture in the order in which they are written: plane and row. -/
def Session.rows (d : Session) (x : Decoded) : List (Nat × Nat) :=
  if !x.shown then []
  else ((d.sized x.pw x.ph).zipIdx.take (if x.mono then 1 else 3)).flatMap fun (p, i) =>
    (List.range (planeRows d.layout p.2.1 p.2.2)).map fun r => (i, r)

namespace State

/-- The checks of MDEC on its descriptor and access unit, at issue (R201). -/
def mdecCheck (s : State) (gridId h off uo ul : Nat) : State × Port Session :=
  match s.check gridId h off 128 ⟨rR ||| rW, 128, false, false⟩ with
  | .error c => (s, .fail (errAt c h off))
  | .ok _ => andThen (s.memRead gridId h off 128 ⟨rR, 128, false, false⟩) fun s b =>
    let d := parseSession b
    match s.check gridId d.bsh uo ul ⟨rR, 1, false, false⟩ with
    | .error c => (s, .fail (errAt c d.bsh uo))
    | .ok _ => (s, if d.bad then .fail (errAt cHANDLE h off) else .ok d)

/-- A decoder in use. -/
def decoderBusy (s : State) (n : Nat) : Bool := s.ctx.works.any fun w => match w.2.job with
  | .mdec _ _ _ _ k .. => k == n
  | _ => false

/-- Whether a decode of the same session is before one: an earlier one of the gang, or one of another gang that is in progress (R203). -/
def sessionWaits (s : State) (id : Nat) (w : Work) (h off : Nat) : Bool := s.ctx.works.any fun x => x.1 != id &&
  (match x.2.job with
   | .mdec h' off' _ _ _ taken _ => h' % 4096 == h % 4096 && off' == off && ((x.1 < id && x.2.gang == w.gang) || !taken.isEmpty)
   | _ => false)

/-- One of the engine's own checks (R201). -/
def mdecBuffer (s : State) (gridId h off n rights : Nat) : Option Err :=
  match s.check gridId h off n ⟨rights, 1, false, false⟩ with
  | .error c => some (errAt c h off)
  | .ok _ => none

/-- Each plane buffer, with W over the extent of a picture (R201), within the session's limits. -/
def mdecPlanes (s : State) (gridId : Nat) (d : Session) (w h : Nat) : Option Err :=
  (d.sized (min w d.maxw) (min h d.maxh)).findSome? fun p => s.mdecBuffer gridId p.1.h p.1.off (planeExtent d.layout p.1 p.2.1 p.2.2) rW

/-- Some rows of a picture, written in order. -/
def mdecWrite (id : Nat) (w : Work) (d : Session) (x : Decoded) (earlier : List (List Byte)) (unit : List Byte) :
    List (Nat × Nat) → State → State × Port Unit
  | [], s => (s, .ok ())
  | (i, r) :: rs, s =>
    match (d.sized x.pw x.ph)[i]? with
    | none => (s, .ok ())
    | some (p, pw, ph) =>
      let px := fun a b => sampleValue (if x.ten then 10 else 8)
        (Config.decodeSample d.codec earlier unit i a b % 2 ^ (if x.ten then 10 else 8))
      andThen (s.engWrite id w p.h [planeRow d.layout p pw ph px r] 1) fun s _ => mdecWrite id w d x earlier unit rs s

/-- A decoder takes a unit up: the descriptor, the unit's bytes, and what the session holds, which is its reference store as it stands and the
units since its reset (R201, R203). -/
def mdecTake (s : State) (id : Nat) (w : Work) (h off uo ul k : Nat) : State × Port Unit :=
  andThen (s.memRead w.gridId h off 128 ⟨rR, 128, false, false⟩) fun s b =>
    let d := parseSession b
    if d.bad then (s, .fail (errAt cHANDLE h off))
    else andThen (s.memRead w.gridId d.bsh uo ul needR) fun s unit =>
      match s.mdecBuffer w.gridId d.refh d.refoff d.refsize (rR ||| rW) with
      | some e => (s, .fail e)
      | none =>
        let go := fun (s : State) (refs : List (List Byte)) =>
          let x := decoded d refs unit
          match s.mdecPlanes w.gridId d x.pw x.ph with
          | some e => (s, Port.fail e)
          | none => (s.setWork id { w with job := .mdec h off uo ul k (b :: unit :: refs) 0 }, .ok ())
        if d.reset then go s []
        else andThen (s.memRead w.gridId d.refh d.refoff d.refsize needR) fun s store =>
          go s (store :: Tbl.get [] s.ctx.sessions (bref h off))

/-- A unit ends: the reference store, the status, and the session's private bytes, whose form the manual does not give, are written. -/
def mdecEnd (s : State) (id : Nat) (w : Work) (h off : Nat) (b unit : List Byte) (refs : List (List Byte)) : State × Port Unit :=
  let d := parseSession b
  let x := decoded d refs unit
  let (order, conc) := Config.decodeOrder d.codec refs unit
  let store := (List.range d.refsize).map (Config.implByte (2 * s.ticks))
  let priv := (List.range 32).map (Config.implByte (2 * s.ticks + 1))
  let status := toBytes 4 (boolNat x.shown + 2 * boolNat x.mono + 4 * boolNat x.ten + 16 * x.err) ++ toBytes 2 x.pw ++ toBytes 2 x.ph ++
    toBytes 4 order.toNat ++ toBytes 4 conc.toNat
  let word := toBytes 4 (numAt b 0 4 - 32 * boolNat d.reset)
  andThen (s.engWrite id w d.refh [(d.refoff, store)] 1) fun s _ =>
    andThen (s.engWrite id w h ([(off, word), (off + 0x50, status), (off + 0x60, priv)]) 1) fun s _ =>
      let s := s.setCtx fun c => { c with sessions := Tbl.set c.sessions (bref h off) (refs.drop 1 ++ [unit]) }
      (s.finishWork id 0 0 0, .ok ())

/-- MDEC_COMPLETE: a decoder goes on with an access unit: it takes it up, writes a stretch of its picture's rows, or ends it (R200 to
R203). (DESIGN CHOICE, assumptions 8, 9, 15 and 26) -/
def mdecStep (s : State) (id : Nat) : State :=
  s.attempt id fun w s =>
    match w.job with
    | .mdec h off uo ul k (b :: unit :: refs) row =>
      let d := parseSession b
      let x := decoded d refs unit
      let left := (d.rows x).drop row
      if left.isEmpty then s.mdecEnd id w h off b unit refs
      else
        let n := s.stretch left.length
        andThen (mdecWrite id w d x refs unit (left.take n) s) fun s _ =>
          (match s.work? id with
           | some w => s.setWork id { w with job := .mdec h off uo ul k (b :: unit :: refs) (row + n) }
           | none => s, .ok ())
    | .mdec h off uo ul k _ _ => if s.sessionWaits id w h off then (s, .ok ()) else s.mdecTake id w h off uo ul k
    | _ => (s, .ok ())

/-- A decoder that pre-emption stops within a unit saves its state in the last 2 MiB of the reference store (R203). -/
def mdecSave (s : State) (w : Work) : State :=
  match w.job with
  | .mdec _ _ _ _ _ (b :: _ :: _) _ =>
    let d := parseSession b
    (s.rawWrite w.gridId d.refh (d.refoff + d.refsize - 2097152) ((List.range 2097152).map (Config.implByte (2 * s.ticks))) needW).1
  | _ => s

end State

/-- MDEC (R200, R201): it waits at issue until its decoder is idle. -/
def execMdec (u : UGuard) (sd sa sb sc : SReg) (n : Fin 8) (any : Bool) (s : State) : Host.Outcome State Fault Refusal :=
  issue (.mdec u sd sa sb sc n any)
    (fun a s =>
      let g := s.gang a.gang
      let r := fun (i : Nat) => (g.sreg i).toNat
      let free := if any then (List.range 8).find? fun k => !s.decoderBusy k else if s.decoderBusy n then none else some n.val
      a.reading s (fun s => s.mdecCheck (s.gridIdOf a.gang) (r sa) (r sb) (r sc) (r (sc.val + 1))) fun s _ =>
        match free with
        | none => .stall
        | some k => .done (a.start s sd 0x044 (.mdec (r sa) (r sb) (r sc) (r (sc.val + 1)) k [] 0))) s

def execMdecComplete (work : Nat) (s : State) : Host.Outcome State Fault Refusal := .next (s.mdecStep work)

end Sys2Proof.Machine
end

