-- ==== Sys2Proof/Machine/StashInstr.lean ====
section
/-! DEFINITION. STMAP, STUNMAP and STFLUSH (R131 to R134). -/

namespace Sys2Proof.Machine

open Sys2Proof State

/-- The lanes of a hold record go on after the instruction they stand at. -/
def State.holdDone (s : State) (id : Nat) (h : Hold) : State :=
  (s.dropHold id).modGang h.gang fun g =>
    g.modLanes (laneList h.lanes) fun _ l => if l.hold == some id then l.advance ((h.pc + 8) % 2 ^ 32) else l

/-- The lanes of a hold record trap at the instruction they stand at. -/
def State.holdTrap (s : State) (id : Nat) (h : Hold) (e : Err) : State :=
  let g := s.gang h.gang
  let m := g.lanesWhere fun _ l => l.hold == some id
  let s := (s.dropHold id).modGang h.gang fun g => g.modLanes (laneList m) fun _ l => { l with hold := none }
  s.raise h.gang ⟨e.cause, h.pc, (h.pc + 8) % 2 ^ 32, e.addr, m, e.info, id⟩

/-- An error of a stash instruction that carries a detail (R131). -/
def unmapped (detail so : Nat) : Err := { stashErr cUNMAPPED so with info := detail }

/-- The checks of STMAP, in the order of R132. -/
def State.stmapCheck (s : State) (gridId team h off so n : Nat) (mode : MapMode) : Option Err :=
  let rights := match mode with
    | .rw => rR ||| rW
    | .ro => rR
    | .wo => rW
  let k := (s.entry (h % 4096)).kind
  let t := s.team team
  if k = 3 || k = 5 || k = 6 then some (errAt cHANDLE h off)
  else match s.check gridId h off n ⟨rights, 128, false, false⟩ with
    | .error c => some (errAt c h off)
    | .ok _ =>
      if so % 128 ≠ 0 then some (stashErr cMISALIGNED so)
      else if so + n > s.fstash team then some (stashErr cBOUNDS so)
      else if t.maps.any fun r => r.so < so + n && so < r.so + r.n then some (unmapped 2 so)
      else if t.maps.length ≥ 16 then some (unmapped 3 so) else none

def execStmap (u : UGuard) (sa sb sc : SReg) (lines : BitVec 14) (mode : MapMode) (s : State) : Host.Outcome State Fault Refusal :=
  issue (.stmap u sa sb sc lines mode)
    (fun a s =>
      let g := s.gang a.gang
      let h := (g.sreg sa).toNat
      let off := (g.sreg sb).toNat
      let so := (g.sreg sc).toNat
      let n := 128 * lines.toNat
      match s.stmapCheck (s.gridIdOf a.gang) g.team h off so n mode with
      | some e => .trap s a.set e.cause e.addr e.info
      | none => if s.stashPending s.ctx.nextId g.team so n AccKind.stash then .stall else .done ((a.step s).modTeam g.team fun t => { t with
          maps := t.maps ++ [⟨so, n, h % 4096, off, mode⟩],
          sectors := t.sectors.filter fun x => x.1 < so / 64 || (so + n) / 64 ≤ x.1 })) s

/-! STUNMAP (R133). -/

/-- The stash bytes of the issuing team that a job reads or writes, as (first, length). An operand body of a step is at most 16 KiB. -/
def Job.stashRanges : Job → List (Nat × Nat)
  | .carter d .. =>
    let w := parseWalk d
    let r := if w.dir = 0 then w.dstRange else if w.dir = 1 then w.srcRange else (0, 0)
    (r.1.toNat, (r.2 - r.1).toNat) :: (if w.bar then [(w.baroff, 16 * max w.rslots 1)] else [])
  | .gath _ _ idx n data wd .. => [(idx, 4 * n), (data, wd.bytes * n)]
  | .scat _ _ idx n data wd .. => [(idx, 4 * n), (data, wd.bytes * n)]
  | .sinter _ _ out cap _ _ _ _ emit .. => [(out, 8 + (if emit then 4 * cap else 0))]
  | .qscale _ _ so pitch dst bf => [(so, 63 * pitch + 256 * (if bf then 2 else 4)), (dst, 512)]
  | .qsplit _ _ so pitch bf _ => [(so, 63 * pitch + 256 * (if bf then 2 else 4))]
  | .qdeq _ _ so pitch _ bf => [(so, 63 * pitch + 256 * (if bf then 2 else 4))]
  | .mmb step .. | .mout step .. => operandRanges (blockA step.block) ++ operandRanges (blockB step.block)
  | .mloop step lw _ _ _ _ _ =>
    let l := State.parseLoop lw
    (if l.sync then [(l.baroff, 16 * l.q)] else []) ++
    (List.range (if l.ring = 0 then l.n else min l.n l.ring)).flatMap fun j =>
      let x := State.loopOperands step.block l j
      operandRanges x.1 ++ operandRanges x.2
  | .cld so pitch _ bf => [(so, 63 * pitch + 64 * (if bf then 2 else 4))]
  | .cst so pitch _ bf _ => [(so, 63 * pitch + 64 * (if bf then 2 else 4))]
  | .xfer _ src dst n .. => (if src.stash then [(src.off, n)] else []) ++ (if dst.stash then [(dst.off, n)] else [])
  | .circle _ _ src n .. => if src.stash then [(src.off, n)] else []
  | .stflush _ _ _ lo n => [(lo, n)]
  | _ => []
where
  operandRanges (x : Operand) : List (Nat × Nat) := [(x.body.toNat, 16384), (x.scale.toNat, 512)]

/-- Whether an engine transfer issued earlier by the team, or a pending STFLUSH, still touches a range of its stash. -/
def State.stashInUse (s : State) (before team so n : Nat) : Bool :=
  s.ctx.works.any fun w => w.1 < before && w.2.team == team &&
    (Job.stashRanges w.2.job).any fun r => r.1 < so + n && so < r.1 + r.2

def execStunmap (u : UGuard) (sa : SReg) (drop : Bool) (s : State) : Host.Outcome State Fault Refusal :=
  issue (.stunmap u sa drop)
    (fun a s =>
      let g := s.gang a.gang
      let so := (g.sreg sa).toNat
      if (s.team g.team).maps.any fun r => r.so == so then
        .hold (a.holdLanes (s.addHold { kind := .stunmap so drop, gang := a.gang, lanes := a.set, pc := a.pc, accs := [], err := none })
          s.ctx.nextId)
      else
        let e := unmapped 1 so
        .trap s a.set e.cause e.addr e.info) s

/-- Write-backs of a list of sectors, in order: the merged set of their WCTs, or the first failure. -/
def writeBacks (gridId slot team : Nat) : List Nat → State → State × Port StoreSet
  | [], s => (s, .ok .none)
  | i :: is, s => match s.writeBack gridId slot team i with
    | (s, .fail e) => (s, .ok ⟨0, some e, false, 0⟩)
    | (s, .ok w) => if w.err.isSome then (s, .ok w)
      else andThen (writeBacks gridId slot team is s) fun s y => (s, .ok (mergeStore w y))
    | x => x

/-- The region leaves the map table; its bytes stay as scratch. -/
def State.dropRegion (s : State) (team so n : Nat) : State :=
  s.modTeam team fun t => { t with
    maps := t.maps.filter fun r => r.so != so,
    sectors := t.sectors.filter fun x => x.1 < so / 64 || (so + n) / 64 ≤ x.1 }

/-- STUNMAP_COMPLETE: the waits of R133 are over; the region is written back and removed. -/
def State.stunmapDone (s : State) (id : Nat) (h : Hold) (so : Nat) (drop : Bool) : State :=
  let team := (s.gang h.gang).team
  match (s.team team).maps.find? fun r => r.so == so with
  | none => s.holdTrap id h (unmapped 1 so)
  | some r =>
    if s.stashInUse id team so r.n || s.stashPending id team so r.n AccKind.stash then s
    else if drop then (s.dropRegion team so r.n).holdDone id h
    else
      let gridId := s.gridIdOf h.gang
      match writeBacks gridId (h.gang % 64) team (s.dirtySectors team fun o => r.so ≤ o && o < r.so + r.n) { s with eng := some id } with
      | (t, .ok w) =>
        let t := { t with eng := none }.noteStore h.gang (s.gridOf h.gang) gridId (h.gang / 64) false (setKey pLSU false) { w with err := none, seq := id }
        (match w.err with
        | none => (t.dropRegion team so r.n).holdDone id h
        | some e => t.holdTrap id h e)
      | (t, .fail e) => { t with eng := none }.holdTrap id h e
      | (_, .miss p b) => s.postMiss p b true gridId
      | (_, .away w) => s.askRemote id w

def execStunmapComplete (hold : Nat) (s : State) : Host.Outcome State Fault Refusal :=
  .next (match Tbl.find? s.ctx.holds hold with
    | some h => (match h.kind with
      | .stunmap so drop => s.stunmapDone hold h so drop
      | _ => s)
    | none => s)

/-! STFLUSH (R134). -/

/-- Sectors of the mapped regions inside a range. -/
def Team.mappedSectors (t : Team) (lo hi : Nat) : List Nat :=
  t.maps.flatMap fun r =>
    let a := max r.so lo
    let b := min (r.so + r.n) hi
    (List.range ((b - a) / 64)).map (a / 64 + ·)

/-- STFLUSH hands the sectors of its range to its engine; with none dirty it is over at once (R134). (DEDUCED, assumptions 34 and 59) -/
def execStflush (u : UGuard) (sd sa sb : SReg) (all inv : Bool) (s : State) : Host.Outcome State Fault Refusal :=
  issue (.stflush u sd sa sb all inv)
    (fun a s =>
      let g := s.gang a.gang
      let f := s.fstash g.team
      let lo := if all then 0 else (g.sreg sa).toNat
      let n := if all then f else (g.sreg sb).toNat
      if !all && (lo % 128 ≠ 0 || n % 128 ≠ 0) then .trap s a.set cMISALIGNED (stashErr 0 lo).addr 0
      else if lo + n > f then .trap s a.set cBOUNDS (stashErr 0 lo).addr 0
      else
        let t := s.team g.team
        let coming := s.comingSectors s.ctx.nextId g.team
        let is := (t.mappedSectors lo (lo + n)).filter fun i =>
          (t.sector i).dirty != 0 || coming.contains i || (inv && (t.sector i).expiry.isSome)
        let id := s.ctx.nextId
        let s := a.start s sd 0x032 (.stflush is inv 0 lo n)
        .done (if is.any fun i => (t.sector i).dirty != 0 || coming.contains i then s
          else (is.foldl (fun s i => s.setSector g.team i { t.sector i with expiry := none }) s).finishWork id 0 0 0)) s

/-- One sector of an STFLUSH: whether it was written back, and the write-back's WCT. -/
def State.flushOne (s : State) (w : Work) (inv : Bool) (i : Nat) : State × Port (Bool × StoreSet) :=
  let dirty := ((s.team w.team).sector i).dirty != 0
  andThen (s.writeBack w.gridId (w.gang % 64) w.team i) fun s y =>
    (if inv && y.err.isNone then s.setSector w.team i { (s.team w.team).sector i with expiry := none } else s, .ok (dirty && y.err.isNone, y))

/-- The sectors in turn, until one waits for a page; the first failure gives the token its cause. -/
def flushAll (id : Nat) (inv : Bool) (lo n : Nat) : List Nat → Nat → State → State
  | [], count, s =>
    s.modWork id fun w =>
      { w with job := .stflush [] inv count lo n, fin := some (w.cause, count, w.faultAt),
               due := some (w.stores.foldl (fun t x => max t x.2.wct) 0) }
  | i :: is, count, s =>
    match s.work? id with
    | none => s
    | some w => match s.flushOne w inv i with
      | (s, .ok (d, y)) =>
        flushAll id inv lo n is (count + boolNat d) (s.modWork id fun w =>
          let w := Work.note w (setKey pLSU false) { y with err := none }
          match y.err with
          | some e => if w.cause = 0 then { w with cause := e.cause, faultAt := e.addr } else w
          | none => w)
      | (s, .fail e) =>
        flushAll id inv lo n is count (s.modWork id fun w => if w.cause = 0 then { w with cause := e.cause, faultAt := e.addr } else w)
      | (_, .miss p b) =>
        (s.postMiss p b true w.gridId).modWork id fun w => { w with job := .stflush (i :: is) inv count lo n, stall := some p }
      | (_, .away w) => (s.askRemote id w).modWork id fun w => { w with job := .stflush (i :: is) inv count lo n }

/-- The write-backs of an STFLUSH, and the token once DTIME has reached their WCTs. -/
def State.stflushStep (s : State) (work : Nat) : State :=
  match s.work? work with
  | some w => (match w.job with
    | .stflush is inv count lo n =>
      if w.fin.isSome then s.settleWork work
      else if s.workHeld work w || (is.any fun i => s.stashPending work w.team (64 * i) 64 AccKind.dirties) then s
      else ({ flushAll work inv lo n is (min count (2 ^ 24 - 1)) { s with eng := some work } with eng := none }).settleWork work
    | _ => s)
  | none => s

def execStflushComplete (work : Nat) (s : State) : Host.Outcome State Fault Refusal := .next (s.stflushStep work)

end Sys2Proof.Machine
end

