-- ==== Sys2Proof/Machine/Fetch.lean ====
section
/-! DEFINITION. Instruction fetch (R65, R84, R274, R383): the words at a PC, read through the code buffer and decoded. -/

namespace Sys2Proof.Machine

open Sys2Proof State

/-- What a fetch comes to. A fault carries the length by which TRESUME passes the instruction (R314), and whether the word is a BARA or a
BARW, at which the gang reconverges before its checks are made (R283). -/
inductive Fetched where
  | instr (i : Instr)
  | bad (e : Err) (len : Nat) (barrier : Bool)
  | miss (page buf : Nat)
  | away (w : Away)

/-- A placed code word as the core reads it: from its cache under a lease, or at the home (R122), served at an instant of the fetch's
window (R383). -/
def State.codePieces (s : State) (gang h pc since : Nat) : List Piece → State × Port (List Byte)
  | [] => (s, .ok [])
  | p :: ps =>
    if !s.dev.portUp p.loc then (s, .fail (farErr h pc p.loc))
    else
      let (s, a, bad) := s.readCuts (gang / 64) (gang % 64) p.attr (lineCuts 2 p.loc p.n)
      if bad then (s, .fail (errAt cPOISON h pc))
      else andThen (s.codePieces gang h (pc + p.n) since ps) fun s b => (s, .ok (s.agedCode since p.loc a ++ b))

/-- One code word: R84 with X and alignment 4, for a window of the fetch that opened at an instant. A word of another device's buffer comes from
a copy under its lease, or is asked for with the line (R120, R122); a view is read as an engine reads it. -/
def State.fetchWord (s : State) (gang pc since : Nat) : State × Port Word :=
  let gridId := s.gridIdOf gang
  let h := Rec.codeBuf (s.recordOf gang)
  let q : Need := ⟨rX, 4, false, false⟩
  let r := match s.check gridId h pc 4 q with
    | .ok e =>
      if (e.kind = 1 || e.kind = 4 || e.kind = 7) && !e.milled false
        then andThen (s, s.rangePieces e h pc 4) fun s ps => andThen (s.codePieces gang h pc since ps) fun s bs => (s.keepLeaves e pc 4, .ok bs)
      else if e.kind = 5 && !e.milled false then (match s.remoteCopy (gang / 64) 0 e.data pc 4 with
        | some (bs, bad) => (s, if bad then .fail (errAt cPOISON h pc) else .ok bs)
        | none => (s, (s.remoteAnswer e h pc 4 (.line (e.data % 2 ^ 16) (bits e.data 16 12) pc 4)).map fun y : Reply => y.bytes))
      else s.memRead gridId h pc 4 q
    | .error _ => s.memRead gridId h pc 4 q
  (r.1, r.2.map fun bs => BitVec.ofNat 32 (ofBytes bs))

/-- Whether a first word has the opcode of BARA or BARW. -/
def isBarrierWord (w : Nat) : Bool := w / 2 ^ 30 == 3 && (bits w 20 10 == 0x022 || bits w 20 10 == 0x023)

/-- The decode checks that a word fails, or its instruction (R65). -/
def Fetched.of (w0 w1 : Word) : Fetched :=
  let len := if isLong w0.toNat then 8 else 4
  match decodeWords w0 w1 with
  | .ok i => .instr i
  | .error .illegalOpcode => .bad ⟨cILLEGAL, 0, 0⟩ len false
  | .error _ => .bad ⟨cRESERVED, 0, 0⟩ len (isBarrierWord w0.toNat)

/-- The words at a PC. The second word is fetched only where the first names an opcode and bit 30 says so. -/
def State.fetchWords (s : State) (gang pc : Nat) : State × Fetched :=
  let since := s.codeSince gang pc
  match s.fetchWord gang pc since with
  | (s, .fail e) => (s, .bad e 4 false)
  | (s, .miss p b) => (s, .miss p b)
  | (s, .away w) => (s, .away w)
  | (s, .ok w0) =>
    let illegal := match decodeWords w0 0 with
      | .error .illegalOpcode => true
      | _ => false
    if illegal || !isLong w0.toNat then (s, Fetched.of w0 0)
    else match s.fetchWord gang ((pc + 4) % 2 ^ 32) since with
      | (s, .fail e) => (s, .bad e 8 (isBarrierWord w0.toNat))
      | (s, .miss p b) => (s, .miss p b)
      | (s, .away w) => (s, .away w)
      | (s, .ok w1) => (s, Fetched.of w0 w1)

/-- The instruction at a PC, in the name of the gang; what another device has answered is used once. -/
def State.fetch (s : State) (gang pc : Nat) : State × Fetched :=
  match { s with eng := some (fetchAsk gang) }.fetchWords gang pc with
  | (t, .miss p b) => ({ t with eng := s.eng }, .miss p b)
  | (t, .away w) => ({ t with eng := s.eng }, .away w)
  | (t, f) => ({ t with eng := s.eng, ctx := { t.ctx with replies := Tbl.erase t.ctx.replies (fetchAsk gang) } }, f)

/-- The lanes of a gang that stand blocked in an instruction that waits, and their offset: those of the lowest such lane. -/
def Gang.blockedIn (g : Gang) (p : Wait → Bool) : Option (Lanes × Nat) :=
  ((List.range 64).find? fun i => (g.lane i).cond == .blocked && p (g.lane i).wait).map fun i =>
    let o := (g.lane i).pc
    (g.lanesWhere fun _ l => l.cond == .blocked && l.pc == o && p l.wait, o)

/-- A blocked instruction made again by the lanes that wait in it, where its words can be fetched; a release that lanes outside H meet
while a handler runs takes effect (R314). A stopped gang issues nothing (R341). -/
def State.again (s : State) (core slot : Nat) (p : Wait → Bool) (run : Instr → State → Host.Outcome State Fault Refusal) :
    Host.Outcome State Fault Refusal :=
  let gk := gangKey core slot
  let g := s.gang gk
  match g.blockedIn p with
  | none => .next s
  | some (m, o) =>
    if g.stopped then .next s
    else match s.fetch gk o with
    | (t, .instr i) => run i { t with cur := some ⟨core, slot, m, o, true⟩ }
    | (_, .miss p b) => .next (s.postMiss p b false (s.gridIdOf gk))
    | (_, .away w) => .next (s.askRemote (fetchAsk gk) w)
    | _ => .next s

end Sys2Proof.Machine
end

