-- ==== Sys2Proof/Machine/Fence.lean ====
section
/-! DEFINITION. FENCE and the waits that other instructions make as one (R172 to R177, R180). -/

namespace Sys2Proof.Machine

open Sys2Proof State

/-- Kinds of access that write, and kinds that return a value. -/
def AccKind.writes : AccKind → Bool
  | .store | .sts | .sst | .atom | .atoms | .red | .signal | .writeBack => true
  | _ => false
def AccKind.loads : AccKind → Bool
  | .load | .lds | .sld | .atom | .atoms => true
  | _ => false

/-- Whether an access in flight writes a buffer of kinds 4, 5 or 7 (R174). -/
def State.accSystem (s : State) (x : Access) : Bool :=
  match x.kind with
  | .lds | .sts | .atoms | .writeBack | .div => false
  | _ => s.accClass x

/-- Accesses of a gang on named paths issued before an identifier and still in flight, engines' own apart (R173, R175). -/
def State.fencePending (s : State) (gang before : Nat) (paths : Nat) (p : Access → Bool) : Bool :=
  s.ctx.accs.any fun y => y.1 < before && y.2.gang == gang && !y.2.orphan && y.2.work.isNone && bit paths y.2.path && p y.2

/-- The store-set keys that a scope covers on named paths (R174, R176). -/
def fenceKeys (paths : Nat) (scope : Scope) : List Nat :=
  ((List.range 7).filter fun p => bit paths p).flatMap fun p =>
    if scope == .system then [setKey p false, setKey p true] else [setKey p false]

/-- The keys whose WCTs a FENCE.rel waits for: at device and system scope on the LSU path custody returns too (R154, R174). -/
def waitKeys (paths : Nat) (scope : Scope) : List Nat :=
  fenceKeys paths scope ++ if scopeRank scope ≥ 4 && bit paths 0 then [returnKey] else []

/-- A FENCE.rel starts: dirty stash bytes on their way home, custody lines asked back (R128, R154, R175). -/
def At.startFence (a : At) (s : State) (paths : Nat) (scope : Scope) : State :=
  let s := if bit paths 0 && scopeRank scope ≥ 2 then
      (match s.releaseSectors (s.gang a.gang).team with
       | [] => s
       | is => s.addAccess { a.access s .writeBack with reqs := is.map fun i => ⟨i, 0, 0, 0⟩ })
    else s
  if scopeRank scope ≥ 3 then
    s.setCtx fun c => { c with custody := c.custody.map fun y => if y.2.cluster = a.core / 8 then (y.1, { y.2 with ret := true }) else y }
  else s

/-- The waits of a FENCE are over (R174, R175). -/
def State.fenceReady (s : State) (gang before paths : Nat) (scope : Scope) (rel acq : Bool) : Bool :=
  let r := scopeRank scope
  !(s.fencePending gang before paths fun x =>
    (rel && ((x.kind.writes && (scope == .system || !s.accSystem x)) || (x.kind.loads && !x.kind.writes))) || (acq && x.kind.loads)) &&
  (!rel || r < 3 || (waitKeys paths scope).all fun k => decide ((Tbl.get .none (s.gang gang).stores k).wct ≤ s.now)) &&
  (!rel || r < 4 || !bit paths 0 || !s.ctx.custody.any fun y => y.2.users.contains (gang, s.gridOf gang))

/-- The earliest error that a FENCE.rel delivers: its store-set key and the error with its TINFO (R176). -/
def State.fenceError (s : State) (gang paths : Nat) (scope : Scope) : Option (Nat × Err) :=
  let sets := (fenceKeys paths scope).filterMap fun k =>
    let x := Tbl.get .none (s.gang gang).stores k
    x.err.map fun e => (k, x.seq, { e with info := e.info ||| iDEFERRED ||| k / 2 * 2 ^ 10 ||| (if x.logged then iLOGGED else 0) })
  match sets with
  | [] => none
  | y :: ys =>
    let z := ys.foldl (fun (a b : Nat × Nat × Err) => if b.2.1 < a.2.1 then b else a) y
    some (z.1, z.2.2)

/-- The delivered error leaves the store set; no other does. -/
def State.clearError (s : State) (gang key : Nat) : State :=
  s.modGang gang fun g => { g with stores := Tbl.set g.stores key { Tbl.get .none g.stores key with err := none, logged := false } }

def execFence (u : UGuard) (paths : BitVec 7) (scope : Scope) (rel acq : Bool) (s : State) : Host.Outcome State Fault Refusal :=
  issue (.fence u paths scope rel acq)
    (fun a s =>
      let s := if rel then a.startFence s paths.toNat scope else s
      .hold (a.holdLanes (s.addHold { kind := .fence paths.toNat scope rel acq, gang := a.gang, lanes := a.set, pc := a.pc, accs := [], err := none })
        s.ctx.nextId)) s

/-- The waits of a FENCE are over: the earliest error traps at the fence, or the lanes go on. A fence whose lanes a fault of an
earlier load took away is not executed (R177). -/
def State.fenceDone (s : State) (id : Nat) (h : Hold) (paths : Nat) (scope : Scope) (rel acq : Bool) : State :=
  if (s.gang h.gang).lanesWhere (fun _ l => l.hold == some id) == 0 then s.dropHold id
  else if !s.fenceReady h.gang id paths scope rel acq then s
  else match (if rel then s.fenceError h.gang paths scope else none) with
    | some (k, e) => (s.clearError h.gang k).holdTrap id h e
    | none => s.holdDone id h

/-- An instruction that first waits as a FENCE.rel blocks its lanes until the wait is over, and traps on an error found by it. -/
def At.afterFence (a : At) (s : State) (w : Wait) (paths : Nat) (scope : Scope) (next : State → Res) : Res :=
  let s := if a.again then s else a.startFence s paths scope
  if !s.fenceReady a.gang s.ctx.nextId paths scope true false then .hold (a.block w s)
  else match s.fenceError a.gang paths scope with
    | some (k, e) => .trap (s.clearError a.gang k) a.set e.cause e.addr e.info
    | none => next s

end Sys2Proof.Machine
end

