-- ==== Sys2Proof/Machine/Barrier.lean ====
section
/-! DEFINITION. The barrier instructions (R309 to R311). -/

namespace Sys2Proof.Machine

open Sys2Proof State

/-- Where a barrier object lies: at a stash offset of the team, or in a buffer. -/
inductive ObjAt where
  | stash (so : Nat)
  | buf (h off : Nat) (scope : Scope)
  deriving DecidableEq, Repr

def ObjAt.of (sc : BarScope) (a b : Nat) : ObjAt :=
  match sc with
  | .team => .stash (a + b)
  | .cluster => .buf a b .cluster
  | .device => .buf a b .device

/-- An object's address as one number. -/
def ObjAt.key : ObjAt → Nat
  | .stash so => so
  | .buf h off _ => 2 ^ 64 + bref h off

/-- The checks of R310, R84 in full for an object in a buffer, and the kind rule of R309. -/
def State.objPort (s : State) (gang : Nat) (o : ObjAt) (rights : Nat) (atomic : Bool) : Port Unit :=
  match o with
  | .stash so => match s.stashCheck (s.gang gang).team so 16 16 with
    | some e => .fail e
    | none => .ok ()
  | .buf h off _ => (s.checkPart (s.gridIdOf gang) h off 16 ⟨rights, 16, atomic, false⟩).bind fun _ =>
      if (s.entry (h % 4096)).kind ≠ 1 then .fail (errAt cHANDLE h off) else .ok ()

def State.objCheck (s : State) (gang : Nat) (o : ObjAt) (rights : Nat) (atomic : Bool) : Option Err :=
  match s.objPort gang o rights atomic with
  | .fail e => some e
  | _ => none

/-- A barrier instruction goes on once its object passes; a missing page is waited for before anything else (R384). -/
def At.objChecked (a : At) (s : State) (o : ObjAt) (rights : Nat) (atomic : Bool) (ok : Res) : Res :=
  match s.objPort a.gang o rights atomic with
  | .fail e => .trap s a.set e.cause e.addr e.info
  | .miss p b => .hold (a.pageHold s p b)
  | _ => ok

/-- What an indivisible operation on an object comes to. -/
inductive ObjRes where
  | ok (s : State) (old : BarObj)
  | wait (s : State)
  | fail (s : State) (e : Err)
  | miss (s : State) (page buf : Nat)
  | away (w : Away)

/-- The object as a 16-byte access of the uniform stream. -/
def At.objAccess (a : At) (s : State) (h off : Nat) (scope : Scope) : Access :=
  { a.access s .store with
    handle := h, wd := .q, scope := scope, pol := .nl, reqs := [⟨64, off, 0, 0⟩], ent := s.entryRaw (h % 4096) }

/-- An update of an object at its point, behind the gang's earlier uniform accesses to the same bytes. The write joins the gang's LSU
store set (R309, R169). -/
def At.updateObj (a : At) (s : State) (o : ObjAt) (f : BarObj → BarObj) : ObjRes :=
  match o with
  | .stash so =>
    let x := { a.access s .sts with wd := .q, reqs := [⟨64, so, 0, 0⟩] }
    if s.earlierOverlap s.ctx.nextId x ⟨64, so, 0, 0⟩ then .wait s
    else match s.stashReadOnly x.team so 16 with
      | some o => .fail s (stashErr cRIGHTS o)
      | none => match s.stashRead x.gridId a.slot x.team so 16 with
        | (t, .fail e) => .fail t { e with addr := (stashErr 0 so).addr }
        | (t, .miss p b) => .miss t p b
        | (_, .away w) => .away w
        | (t, .ok (bs, bad)) =>
          if bad.isSome then .fail t (stashErr cPOISON so)
          else .ok (t.stashWrite x.team so (f (.parse bs)).bytes) (.parse bs)
  | .buf h off scope =>
    let x := a.objAccess s h off scope
    if s.earlierOverlap s.ctx.nextId x ⟨64, off, 0, 0⟩ then .wait s
    else match s.atomicAt s.ctx.nextId x ⟨64, off, 0, 0⟩ fun old => ofBytes (f (.parse (toBytes 16 old))).bytes with
      | (t, .data bs, w) => .ok (t.noteStore a.gang x.grid x.gridId a.core false (setKey pLSU false) w) (.parse bs)
      | (t, .fault e, _) => .fail t e
      | (t, .miss p b, _) => .miss t p (b % 4096 + 4096)
      | (_, .away w, _) => .away w
      | (t, .wait, _) => .wait t
      | (t, .remote .., _) => .wait t

/-- A read of an object at its point with no lease (R311). -/
def At.readObj (a : At) (s : State) (o : ObjAt) : ObjRes :=
  match o with
  | .stash so =>
    let x := { a.access s .lds with wd := .q, reqs := [⟨64, so, 0, 0⟩] }
    if s.earlierOverlap s.ctx.nextId x ⟨64, so, 0, 0⟩ then .wait s
    else match s.stashRead x.gridId a.slot x.team so 16 with
      | (t, .fail e) => .fail t { e with addr := (stashErr 0 so).addr }
      | (t, .miss p b) => .miss t p b
      | (_, .away w) => .away w
      | (t, .ok (bs, bad)) => if bad.isSome then .fail t (stashErr cPOISON so) else .ok t (.parse bs)
  | .buf h off scope =>
    let x := { a.objAccess s h off scope with kind := .load }
    if s.earlierOverlap s.ctx.nextId x ⟨64, off, 0, 0⟩ then .wait s
    else match s.serveLoad s.ctx.nextId x ⟨64, off, 0, 0⟩ with
      | (t, .data bs) => .ok t (.parse bs)
      | (t, .fault e) => .fail t e
      | (t, .miss p b) => .miss t p b
      | (_, .away w) => .away w
      | (t, .wait) => .wait t
      | (t, .remote ..) => .wait t

/-- What follows from an operation on an object: faults are precise with nothing changed, a page holds the set (R384). -/
def At.onObj (a : At) (s : State) (r : ObjRes) (w : Option Wait) (ok : State → BarObj → Res) : Res :=
  let wait := fun (t : State) => match w with
    | some w => .hold (a.block w t)
    | none => .stall
  match r with
  | .ok t o => ok t o
  | .wait t => wait t
  | .fail _ e => .trap s a.set e.cause e.addr e.info
  | .miss _ p b => .hold (a.pageHold s p b)
  | .away .beat => wait s
  | .away w => .hold (a.remoteHold s (gangAsk a.gang) w)

def execBari (u : UGuard) (sa sb sc : SReg) (scope : BarScope) (s : State) : Host.Outcome State Fault Refusal :=
  issue (.bari u sa sb sc scope)
    (fun a s =>
      let g := s.gang a.gang
      let o := ObjAt.of scope (g.sreg sa).toNat (g.sreg sb).toNat
      let n := (g.sreg sc).toNat
      a.objChecked s o (rR ||| rW ||| rATOM) true
        (if n > 4095 then .trap s a.set cBOUNDS 0 0
        else a.onObj s (a.updateObj s o fun _ => .fresh n) none fun s _ => .done (a.step s))) s

/-- The scope of the fence that a barrier's arrival waits as. -/
def BarScope.fence : BarScope → Scope
  | .team => .team
  | .cluster => .cluster
  | .device => .device

/-- BARA waits as FENCE.rel, then arrives; the overrun trap follows its effect (R311). -/
def execBara (u : UGuard) (sd sa sb sc : SReg) (scope : BarScope) (n : Fin 4096) (s : State) : Host.Outcome State Fault Refusal :=
  issue (.bara u sd sa sb sc scope n)
    (fun a s =>
      let g := s.gang a.gang
      let o := ObjAt.of scope (g.sreg sa).toNat (g.sreg sb).toNat
      let n := if n.val = 0 then (g.sreg sc).toNat else n.val
      a.objChecked s o (rR ||| rW ||| rATOM) true
        (if n > 4095 then .trap s a.set cBOUNDS 0 0
        else a.afterFence s .bara 1 (BarScope.fence scope) fun s =>
          let upd := fun (x : BarObj) => if x.init then x.arrive a.core g.gangIdx n else x
          a.onObj s (a.updateObj s o upd) (some .bara) fun t x =>
            if !x.init then .trap s a.set cUNINIT (match o with
              | .stash so => (stashErr 0 so).addr
              | .buf h off _ => bref h off) 0
            else
              let t := (t.modGang a.gang fun g => g.setS sd (BitVec.ofNat 32 x.phase)).phaseSeen a.gang o.key x.phase
              if n > x.pending then .trap t a.set cOVERRUN (match o with
                | .stash so => (stashErr 0 so).addr
                | .buf h off _ => bref h off) 0
              else .done (a.step t))) s

/-- The bound that a BARW's lanes were given at its first issue, or a new one. -/
def At.barwBound (a : At) (s : State) (bexp : Nat) : Option Nat :=
  match a.exec.head?.map fun l => ((s.gang a.gang).lane l).wait with
  | some (.barw c) => c
  | _ => if bexp = 31 then none else some (s.dev.cycle + 2 ^ bexp)

/-- One read of BARW: it returns when the phase has passed or the bound is over, and otherwise goes on waiting. -/
def execBarw (u : UGuard) (sd sa sb sc : SReg) (scope : BarScope) (zo : ZReg) (bexp : Fin 32) (s : State) :
    Host.Outcome State Fault Refusal :=
  issue (.barw u sd sa sb sc scope zo bexp)
    (fun a s =>
      let g := s.gang a.gang
      let o := ObjAt.of scope (g.sreg sa).toNat (g.sreg sb).toNat
      let bound := a.barwBound s bexp
      a.objChecked s o rR false
        (a.onObj (a.block (.barw bound) s) (a.readObj s o) (some (.barw bound)) fun s x =>
          let moved := x.phase != (g.sreg sc).toNat % 16
          let late := match bound with
            | some c => decide (c ≤ s.dev.cycle)
            | none => false
          if moved || late then
            let s := if moved then (s.orderedNow a.gang).phaseSeen a.gang o.key x.phase else s
            .done ((a.step s).modGang a.gang fun g => (g.setS sd (BitVec.ofNat 32 x.word)).setZ zo moved)
          else .hold (a.block (.barw bound) s))) s

/-- BARW_TIMEOUT: a bounded BARW whose cycles have passed reads a last time and returns. -/
def execBarwTimeout (core gang : Nat) (s : State) : Host.Outcome State Fault Refusal :=
  s.again core gang (fun w => match w with
      | .barw (some c) => decide (c ≤ s.dev.cycle)
      | _ => false)
    fun i t => match i with
      | .barw u sd sa sb sc scope zo bexp => execBarw u sd sa sb sc scope zo bexp t
      | _ => .next s

end Sys2Proof.Machine
end

