-- ==== Sys2Proof/Machine/MillInstr.lean ====
section
/-! DEFINITION. MILLLD, MILLBIND and MILLSTAT (R111 to R117), and the abandonment of an idle tile context (R109). -/

namespace Sys2Proof.Machine

open Sys2Proof State

/-- A slot takes a new generation at one instant (R112). -/
def State.switchSlot (s : State) (slot gen : Nat) (img : List Byte) : State :=
  let ms := s.millSlot slot
  let old := match ms.gen with
    | some g => if s.genBusy slot g then some (g, ms.image) else none
    | none => none
  let s := s.setMillSlot slot { gen := some gen, image := img, draining := old, binds := [] }
  s.setCtx fun c => { c with mills := c.mills.map fun m =>
    if m.1 % 8 = slot then (m.1, { m.2 with stats := [0, 0, 0, 0], flags := 0, crc := [], bstat := [], beats := 0 }) else m }

/-- A MILL_RUNTIME that the Mill controller finds is counted in the slot, with its detail (R113, R116). It names no channel: the model
counts it with channel 0 (DESIGN CHOICE, assumption 76). -/
def State.bindFails (s : State) (slot : Nat) (e : Err) : State × Port Unit :=
  (if e.cause = cMILL then s.millError 0 slot e.info else s, .fail e)

/-- MILLLD_SWITCH: an image in its turn is read, checked and put in force (R115). -/
def State.millldStep (s : State) (id : Nat) : State :=
  s.attempt id fun w s => match w.job with
    | .millld h off slot gen =>
      let first := s.ctx.works.all fun x => x.1 ≥ id || (match x.2.job with
        | .millld _ _ k _ => k != slot
        | _ => true)
      let s := s.drainSlot slot
      if !first || (s.millSlot slot).draining.isSome then (s, .ok ())
      else andThen (s.memRead w.gridId h off 1280 needR) fun s img =>
        if !imageOk img then (s.millError 0 slot 1, .fail { errAt cMILL h off with info := 1 })
        else if (s.millSlot slot).gen = some gen then (s.finishWork id cSTALE 0 0, .ok ())
        else ((s.switchSlot slot gen img).finishWork id 0 0 0, .ok ())
    | _ => (s, .ok ())

/-- The address a failed check of a whole buffer names. -/
def bindErr (cause h : Nat) : Err := errAt cause h 0

/-- R111: every tile of the body lies in one granule. -/
def bodyWhole (e : Entry) (d : Desc) : Bool :=
  let g := (classShape e.cls).2
  let p := d.tileBytes
  e.base % g == 0 && (g % p == 0 || decide (d.tlines * d.tks ≤ g / p))

/-- Steps 1 to 5 of MILLBIND, on the slot and the entry alone. -/
def State.bindEntry (s : State) (h slot : Nat) (wr : Bool) : Option Err :=
  let e := s.entry (h % 4096)
  let ms := s.millSlot slot
  let img := ms.image
  let back := s.entry (e.data % 4096)
  let mode := imgMode img
  if ms.gen != some e.gen then some (bindErr cSTALE h)
  else if (if wr then e.millwr else e.millrd) ≠ slot then some (bindErr cSTALE h)
  else if imgWrite img != wr then some ⟨cMILL, bref h 0, 8⟩
  else if !e.grants (if wr then rMILLW else rMILLR) then some (bindErr cRIGHTS h)
  else if !(match mode with
      | 0 => (e.kind == 1 && imgRatio img == 1) || (e.kind == 3 && back.kind == 1)
      | 3 => e.kind == 1
      | _ => e.kind == 3 && back.kind == 2) then some (bindErr cHANDLE h)
  else none

/-- Steps 7 to 9. A plain buffer that a stream graph serves counts as its own backing in step 7 (DESIGN CHOICE, assumption 97). -/
def State.bindParts (s : State) (gridId h slot : Nat) (wr : Bool) (d : Option Desc) : Option Err :=
  let e := s.entry (h % 4096)
  let ms := s.millSlot slot
  let img := ms.image
  let b := e.data % 4096
  let need := if wr then rW else rR
  let one := fun (i : Nat) => (s.partCheck gridId i need).map fun c => bindErr c i
  let shape : Err := ⟨cMILL, bref h 0, 8⟩
  let parts := match d with
    | some d => [d.body, d.scale, d.outl, d.spill].findSome? one
    | none => if imgMode img = 3 then none else if e.kind = 3 then one b else one (h % 4096)
  let bound := match d with
    | some d => if e.length > 16384 * (d.tlines * d.tks * (if imgBf img then 2 else 4)) then some shape
        else if wr && !bodyWhole (s.entry d.body) d then some { shape with info := 6 } else none
    | none => if e.kind = 3 && e.length > imgRatio img * (s.entry b).length then some shape else none
  let room := if ms.binds.length ≥ 16 && !ms.binds.contains (h % 4096, wr) then some { shape with info := 7 } else none
  (parts.or bound).or room

/-- MILLBIND_COMPLETE (R115). A descriptor that cannot be read for a failed check counts as one that is not well formed
(DESIGN CHOICE, assumption 77). -/
def State.millbindStep (s : State) (id : Nat) : State :=
  s.attempt id fun w s => match w.job with
    | .millbind h slot wr unbind =>
      let ms := s.millSlot slot
      let key := (h % 4096, wr)
      let bind := fun (s : State) => (s.setMillSlot slot { ms with binds := if ms.binds.contains key then ms.binds else ms.binds ++ [key] }).finishWork id 0 0 0
      if unbind then ((s.setMillSlot slot { ms with binds := ms.binds.filter (· != key) }).finishWork id 0 0 0, .ok ())
      else match s.bindEntry h slot wr with
        | some e => s.bindFails slot e
        | none =>
          let mode := imgMode ms.image
          if mode = 1 || mode = 2 then
            andThen (match s.descOf w.gridId ((s.entry (h % 4096)).data % 4096) with
              | (s, .fail e) => (s, .fail { e with cause := if e.cause = cPAGEFATAL || e.cause = cPOISON then e.cause else cMALFORMED })
              | r => r) fun s d => match s.bindParts w.gridId h slot wr (some d) with
                | some e => s.bindFails slot e
                | none => (bind s, .ok ())
          else match s.bindParts w.gridId h slot wr none with
            | some e => s.bindFails slot e
            | none => (bind s, .ok ())
    | _ => (s, .ok ())

/-- Whether a statistics word is kept as a maximum by the live graph (R103, R116); one that both a MAXABS and another node keep counts as a
maximum (DESIGN CHOICE, assumption 78). -/
def statIsMax (img : List Byte) (m : Nat) : Bool :=
  (List.range 24).any fun i => let n := imgNode img i; n.op == 0x60 && n.mod % 4 == m && n.mod / 4 % 4 == 1

/-- The record of R116. -/
def State.millRecord (s : State) (slot : Nat) : List Byte :=
  let ms := s.millSlot slot
  let ps := (List.range 256).map fun ch => (ch, s.millPart ch slot)
  let sum := fun (f : MillPart → Nat) => ps.foldl (fun n p => n + f p.2) 0
  let errs := sum (·.errs)
  let last := ps.foldl (fun (b : Nat × MillPart) p => if b.2.lastErrAt < p.2.lastErrAt then p else b) (0, .zero)
  let stat := fun (m : Nat) =>
    if statIsMax ms.image m then ps.foldl (fun n p => max n (p.2.stats.getD m 0 % 2 ^ 32)) 0 else sum (fun p => p.stats.getD m 0) % 2 ^ 64
  let loaded := ms.gen.isSome
  toBytes 4 (ms.gen.getD 0 + boolNat loaded * 2 ^ 8 + boolNat ms.draining.isSome * 2 ^ 9 +
    (if loaded then imgMode ms.image * 2 ^ 10 + boolNat (imgWrite ms.image) * 2 ^ 13 else 0) + ms.binds.length * 2 ^ 16) ++
  toBytes 4 (ps.foldl (fun (f : BitVec 5) p => f ||| p.2.flags) 0).toNat ++ toBytes 8 (sum (·.beats)) ++
  toBytes 4 (min errs (2 ^ 32 - 1)) ++ toBytes 4 (if errs = 0 then 0 else last.1 + last.2.lastDetail * 2 ^ 8) ++
  toBytes 4 (min (sum (·.tiles)) (2 ^ 32 - 1)) ++ toBytes 4 (min (sum (·.abandoned)) (2 ^ 32 - 1)) ++
  (List.range 4).flatMap fun m => toBytes 8 (stat m)

/-- MILLSTAT_SAMPLE: every Mill sampled, and cleared with CLR, then the record written (R116). -/
def State.millstatStep (s : State) (id : Nat) : State :=
  s.attempt id fun w s => match w.job with
    | .millstat h off slot clr =>
      let rec' := s.millRecord slot
      let s := if clr then s.setCtx fun c => { c with mills := c.mills.map fun m =>
          if m.1 % 8 = slot then (m.1, { MillPart.zero with crc := m.2.crc, bstat := m.2.bstat, ctxs := m.2.ctxs }) else m } else s
      andThen (s.engWrite id w h [(off, rec')] 64) fun s _ => (s.finishWork id 0 0 0, .ok ())
    | _ => (s, .ok ())

def execMillld (u : UGuard) (sd sa sb : SReg) (slot : Fin 8) (gen : Byte) (s : State) : Host.Outcome State Fault Refusal :=
  issue (.millld u sd sa sb slot gen)
    (fun a s =>
      let g := s.gang a.gang
      let h := (g.sreg sa).toNat
      let off := (g.sreg sb).toNat
      asyncOp sd 0x045
        (fun a s => match s.check (s.gridIdOf a.gang) h off 1280 ⟨rR, 128, false, false⟩ with
          | .error c => some (errAt c h off)
          | .ok _ => none) (fun _ _ => false) (fun _ _ => .millld h off slot gen.toNat) a s) s

/-- The handle and owner checks of MILLBIND (R115). -/
def State.ownCheck (s : State) (gridId h : Nat) : Option Err :=
  match s.check gridId h 0 0 ⟨0, 1, false, false⟩ with
  | .error c => if c = cHANDLE || c = cOWNER then some (errAt c h 0) else none
  | .ok _ => none

def execMillbind (u : UGuard) (sd sa : SReg) (slot : Fin 8) (wr unbind : Bool) (s : State) : Host.Outcome State Fault Refusal :=
  issue (.millbind u sd sa slot wr unbind)
    (fun a s =>
      let h := ((s.gang a.gang).sreg sa).toNat
      asyncOp sd 0x046 (fun a s => s.ownCheck (s.gridIdOf a.gang) h) (fun _ _ => false) (fun _ _ => .millbind h slot wr unbind) a s) s

def execMillstat (u : UGuard) (sd sa sb : SReg) (slot : Fin 8) (clr : Bool) (s : State) : Host.Outcome State Fault Refusal :=
  issue (.millstat u sd sa sb slot clr)
    (fun a s =>
      let g := s.gang a.gang
      let h := (g.sreg sa).toNat
      let off := (g.sreg sb).toNat
      asyncOp sd 0x047
        (fun a s => match s.check (s.gridIdOf a.gang) h off 64 ⟨rW, 64, false, false⟩ with
          | .error c => some (errAt c h off)
          | .ok _ => none) (fun _ _ => false) (fun _ _ => .millstat h off slot clr) a s) s

def execMillldSwitch (work : Nat) (s : State) : Host.Outcome State Fault Refusal := .next (s.millldStep work)
def execMillbindComplete (work : Nat) (s : State) : Host.Outcome State Fault Refusal := .next (s.millbindStep work)
def execMillstatSample (work : Nat) (s : State) : Host.Outcome State Fault Refusal := .next (s.millstatStep work)

/-- An encode context idle for 64 us is abandoned: its beats complete with TILE_ABANDONED and nothing of the tile is written (R109). So may
be one that is full and whose close waits for a page before it has written anything (DESIGN CHOICE, assumption 79). -/
def State.abandonTile (s : State) (ch slot i : Nat) : State :=
  match (s.millPart ch slot).ctxs[i]? with
  | none => s
  | some c =>
    if s.now < c.last + 64000 || c.left.isSome then s
    else
      let s := s.millError ch slot 3
      let p := s.millPart ch slot
      let s := s.setMillPart ch slot { p with ctxs := p.ctxs.eraseIdx i, abandoned := min (p.abandoned + 1) (2 ^ 32 - 1) }
      (c.waiters.foldl (fun s (u : Nat × Nat) => match s.access? u.1 with
        | none => s
        | some x =>
          let w : StoreSet := ⟨0, some ⟨cMILL, bref x.handle u.2, 3⟩, false, 0⟩
          (s.noteAccess u.1 x w).keepAccess u.1 { noted w x with reqs := x.reqs.filter fun q => q.off != u.2 }) s).drainSlot slot

/-- TILE_ABANDONED. The tile is named by its place: 2 (8 channel + slot) + context. -/
def execTileAbandoned (tile : Nat) (s : State) : Host.Outcome State Fault Refusal :=
  .next { s.abandonTile (tile / 16) (tile / 2 % 8) (tile % 2) with eng := s.eng }

end Sys2Proof.Machine
end

