-- ==== Sys2Proof/Machine/Transfer.lean ====
section
/-! DEFINITION. PUT, GET and PUTRED without a circle (R253 to R256), signals (R257 to R260). -/

namespace Sys2Proof.Machine

open Sys2Proof State

/-! Checks at issue. -/

/-- A side of a transfer read from a register quad: its stash, or a buffer. -/
def sideOf (stash : Bool) (h off : Nat) : Side := if stash then ⟨true, 0, off⟩ else ⟨false, h, off⟩

/-- The source side (R254 step 1). -/
def State.srcCheck (s : State) (gridId team : Nat) (x : Side) (n : Nat) (get : Bool) : Option Err :=
  if x.stash then s.stashCheck team x.off n 4
  else match s.check gridId x.handle x.off n ⟨rR, 4, false, false⟩ with
    | .error c => some (errAt c x.handle x.off)
    | .ok e => if e.kind = 2 || e.kind = 6 || (e.kind = 5 && !get) then some (errAt cHANDLE x.handle x.off) else none

/-- The destination side of PUT and GET. -/
def State.dstCheck (s : State) (gridId team : Nat) (x : Side) (n : Nat) (get : Bool) : Option Err :=
  if x.stash then s.stashCheck team x.off n 4
  else match s.check gridId x.handle x.off n ⟨rW, 4, false, false⟩ with
    | .error c => some (errAt c x.handle x.off)
    | .ok e => if e.kind = 2 || e.kind = 6 || (e.kind = 5 && get) then some (errAt cHANDLE x.handle x.off) else none

/-- The destination of a PUTRED: R84 and R151, and with CIRC the MCST right and kind 1. -/
def State.redCheck (s : State) (gridId : Nat) (x : Side) (n align : Nat) (aop : Aop) (circ : Bool) : Option Err :=
  let need : Need := ⟨rR ||| rW ||| rATOM ||| (if circ then rMCST else 0), align, true, false⟩
  match s.check gridId x.handle x.off n need with
  | .error c => some (errAt c x.handle x.off)
  | .ok e => ((s.gates e x.handle x.off need).or (State.atomKind e x.handle x.off aop)).or
      (if circ && e.kind ≠ 1 then some (errAt cHANDLE x.handle x.off) else none)

/-- The operand of a signal add (R258). -/
def State.signalCheck (s : State) (gridId h off : Nat) : Option Err := s.redCheck gridId ⟨false, h, off⟩ 8 8 .add false

/-- The count (R254 step 3). (DEDUCED, assumption 40) -/
def countCheck (n elem : Nat) (circ : Bool) : Option Err :=
  if n % elem ≠ 0 then some ⟨cMISALIGNED, 0, 0⟩ else if circ && n > 4096 then some ⟨cBOUNDS, 0, 0⟩ else none

/-- Chunk size of CHUNK (R253). -/
def chunkBytes (c : Nat) : Nat := 4096 * 4 ^ c

/-- The starts of the chunks of n bytes. -/
def chunkList (n c : Nat) : List Nat := (List.range (ceilDiv n c)).map (c * ·)

/-! The engine. -/

/-- The scope a destination's reductions and signal adds are performed at (R255, R257). -/
def State.pointScope (s : State) (h : Nat) : Scope := if (s.entry (h % 4096)).kind = 1 then .device else .system

/-- The reductions of a chunk, 64 elements to an access. -/
def redAccesses (h off : Nat) (aop : Aop) (wd : Width) : Nat → List Byte → State → State
  | 0, _, s => s
  | fuel + 1, bs, s =>
    if bs.isEmpty then s
    else
      let now := bs.take (64 * wd.bytes)
      let reqs := (chunks wd.bytes (now.length / wd.bytes) now).zipIdx.map fun (b, i) => (⟨i, off + i * wd.bytes, ofBytes b, 0⟩ : Req)
      let q := s.queuedWrite h reqs none
      redAccesses h (off + now.length) aop wd fuel (bs.drop (64 * wd.bytes))
        (s.addAccess { q with kind := .red, wd := wd, aop := aop, scope := s.pointScope h })

/-- One chunk's bytes placed at its destination: what is left to wait for joins the job. A failure here is of the write, but for a
stash region mapped .ro. -/
def State.placeChunk (s : State) (id : Nat) (w : Work) (op : XferOp) (dst : Side) (q : Nat) (bs : List Byte) : State × Port Unit :=
  match op with
  | .red aop d =>
    let wd : Width := if d then .d else .w
    match s.redCheck w.gridId { dst with off := dst.off + q } bs.length wd.bytes aop false with
    | some e => (s.noteWork id dst.handle ⟨0, some e, false, 0⟩, .ok ())
    | none => (redAccesses dst.handle (dst.off + q) aop wd (bs.length / 4 + 1) bs s, .ok ())
  | _ =>
    if dst.stash then
      (match s.stashReadOnly w.team (dst.off + q) bs.length with
       | some o => (s, .fail (stashErr cRIGHTS o))
       | none => (s.stashWrite w.team (dst.off + q) bs, .ok ()))
    else s.engWrite id w dst.handle [(dst.off + q, bs)] 4

/-- The bytes of a chunk, read once at their points. -/
def State.readSide (s : State) (w : Work) (src : Side) (q m : Nat) : State × Port (List Byte) :=
  if src.stash then s.engStash w w.team (src.off + q) m else s.memRead w.gridId src.handle (src.off + q) m ⟨rR, 4, false, false⟩

/-- Bytes of a chunk that wait in a beat of a write graph, which may hold bytes of the next chunk as well (R105). -/
def State.inBeat (s : State) (id : Nat) (w : Work) (h off m : Nat) : Bool :=
  w.parts.any (fun p => p.1 == h && overlaps [(p.2.1, p.2.2.length)] [(off, m)]) ||
  s.ctx.accs.any fun a => a.2.work == some id && a.2.handle == h && s.beatAccess a.2 && a.2.reqs.any fun r => overlaps [(r.off, 64)] [(off, m)]

/-- Signal adds whose chunk is performed and whose WCT has passed are sent; a chunk with a failed write adds nothing (R255). (DEDUCED, assumption 41) -/
def State.releaseAdds (s : State) (id : Nat) (sig : Option (Nat × Nat)) (dst : Side) (chunk n : Nat) :
    List (List Nat × Nat × Nat) → State × List (List Nat × Nat × Nat)
  | [] => (s, [])
  | (ids, q, m) :: rest =>
    let (s, keep) := s.releaseAdds id sig dst chunk n rest
    match s.work? id, sig with
    | some w, some (h, off) =>
      let wct := w.stores.foldl (fun t x => max t x.2.wct) 0
      let lost := w.errs.any fun a => (bref dst.handle (dst.off + q) ≤ a && a < bref dst.handle (dst.off + q) + m) && !dst.stash
      if lost then (s, keep)
      else if (ids.any fun i => (s.access? i).isSome) || (!dst.stash && s.inBeat id w dst.handle (dst.off + q) m) || s.now < wct then (s, (ids, q, m) :: keep)
      else
        let a := s.queuedWrite h [⟨0, off, m, 0⟩] none
        ({ s with eng := some id }.addAccess { a with kind := .signal, wd := .d, scope := s.pointScope h }, keep)
    | _, _ => (s, keep)

/-- A transfer's token follows once every chunk and every signal add is done. -/
def State.xferEnd (s : State) (id : Nat) : State :=
  match s.work? id with
  | some w => match w.job with
    | .xfer op src dst n chunk sig left adds =>
      let (s, adds) := { (if left.isEmpty then s.flushBeats id else s) with eng := some id }.releaseAdds id sig dst chunk n adds
      let s := s.modWork id fun w => { w with job := .xfer op src dst n chunk sig left adds }
      if left.isEmpty && adds.isEmpty && w.fin.isNone then s.finishWork id w.cause 0 w.faultAt else s.settleWork id
    | _ => s
  | none => s

/-- One chunk of a transfer (R255): it is attempted whole. The first read-side fault keeps the chunks that have not started from starting, and
of the faults of those that have, the first in chunk order is the token's (R256). -/
def State.xferChunk (s : State) (id q : Nat) : State :=
  match s.work? id with
  | some w => match w.job with
    | .xfer op src dst n chunk sig left adds =>
      if !left.contains q || w.fin.isSome || s.awaits id then s
      else
        let m := min chunk (n - q)
        let first := s.ctx.nextId
        let starts := fun (s : State) => s.modWork id fun w => { w with begun := if w.begun.contains q then w.begun else w.begun ++ [q] }
        let r := andThen ({ s with eng := some id }.readSide w src q m) fun s bs => s.placeChunk id w op dst q bs
        (match r with
         | (t, .ok _) =>
           let ids := (List.range (t.ctx.nextId - first)).map (first + ·)
           t.modWork id fun w => { w with
             job := .xfer op src dst n chunk sig (left.erase q) (if sig.isSome then adds ++ [(ids, q, m)] else adds) }
         | (t, .fail e) => t.modWork id fun w =>
           let w := { w with job := .xfer op src dst n chunk sig ((left.erase q).filter w.begun.contains) adds }
           if w.cause = 0 || w.failed.any (q < ·) then { w with cause := e.cause, faultAt := e.addr, info := e.info, failed := some q } else w
         | (_, .miss p b) => starts ((s.postMiss p b false w.gridId).perfEvent w.core (w.gang % 64) 0x16 1)
         | (_, .away w) => starts (s.askRemote id w))
    | _ => s
  | none => s

/-- TRANSFER_CHUNK: one chunk, and the signal adds and the end that have become due. -/
def execTransferChunk (work chunk : Nat) (s : State) : Host.Outcome State Fault Refusal :=
  .next { (s.xferChunk work chunk).xferEnd work with eng := s.eng }

/-! The instructions. -/

/-- A transfer joins the fabric engine's work; one of no bytes is done at once. -/
def At.startXfer (a : At) (s : State) (tok op10 : Nat) (op : XferOp) (src dst : Side) (n chunk : Nat) (sig : Option (Nat × Nat)) : State :=
  let id := s.ctx.nextId
  let s := a.start s tok op10 (.xfer op src dst n (chunkBytes chunk) sig (chunkList n (chunkBytes chunk)) [])
  if n = 0 then s.finishWork id 0 0 0 else s

/-- The signal pair of SC, where SIG is set. -/
def sigPair (g : Gang) (sc : SReg) (sig : Bool) : Option (Nat × Nat) :=
  if sig then some ((g.sreg sc).toNat, (g.sreg (sc.val + 1)).toNat) else none

/-- Checks made in turn; the first failure traps. -/
def At.guarded (a : At) (s : State) (check : Option Err) (ok : Res) : Res :=
  match check with
  | some e => .trap s a.set e.cause e.addr e.info
  | none => ok

def execPut (u : UGuard) (sd sa sb sc : SReg) (sstash sig : Bool) (chunk : Fin 4) (s : State) : Host.Outcome State Fault Refusal :=
  issue (.put u sd sa sb sc sstash sig chunk)
    (fun a s =>
      let g := s.gang a.gang
      let r := fun (i : Nat) => (g.sreg (sa.val + i)).toNat
      let n := (g.sreg sb).toNat
      let src := sideOf sstash (r 0) (r 1)
      let dst := sideOf false (r 2) (r 3)
      let gid := s.gridIdOf a.gang
      let sp := sigPair g sc sig
      a.guarded s ((((s.srcCheck gid g.team src n false).or (s.dstCheck gid g.team dst n false)).or (countCheck n 4 false)).or
        (sp.bind fun x => s.signalCheck gid x.1 x.2)) (.done (a.startXfer s sd 0x060 .put src dst n chunk sp))) s

def execGet (u : UGuard) (sd sa sb sc : SReg) (dstash sig : Bool) (chunk : Fin 4) (s : State) : Host.Outcome State Fault Refusal :=
  issue (.get u sd sa sb sc dstash sig chunk)
    (fun a s =>
      let g := s.gang a.gang
      let r := fun (i : Nat) => (g.sreg (sa.val + i)).toNat
      let n := (g.sreg sb).toNat
      let src := sideOf false (r 0) (r 1)
      let dst := sideOf dstash (r 2) (r 3)
      let gid := s.gridIdOf a.gang
      let sp := sigPair g sc sig
      a.guarded s ((((s.srcCheck gid g.team src n true).or (s.dstCheck gid g.team dst n true)).or (countCheck n 4 false)).or
        (sp.bind fun x => s.signalCheck gid x.1 x.2)) (.done (a.startXfer s sd 0x061 .get src dst n chunk sp))) s

/-! Signals. -/

/-- A signal add of the gang goes out (R259). -/
def At.signalAccess (a : At) (s : State) (h off v : Nat) : Access :=
  { a.access s .signal with
    path := pFABRIC, handle := h, wd := .d, scope := s.pointScope h, reqs := [⟨64, off, v, 0⟩], ent := s.entryRaw (h % 4096) }

def execSigadd (u : UGuard) (sa sb sc : SReg) (d rel : Bool) (paths : BitVec 7) (s : State) : Host.Outcome State Fault Refusal :=
  issue (.sigadd u sa sb sc d rel paths)
    (fun a s =>
      let g := s.gang a.gang
      let h := (g.sreg sa).toNat
      let off := (g.sreg sb).toNat
      let v := if d then g.spair sc else (g.sreg sc).toNat
      let sc := s.pointScope h
      match s.signalCheck (s.gridIdOf a.gang) h off with
      | some e => .trap s a.set e.cause e.addr e.info
      | none =>
        if rel then
          let s := a.startFence s paths.toNat sc
          .hold (a.holdLanes (s.addHold { kind := .sigadd paths.toNat sc h off v, gang := a.gang, lanes := a.set, pc := a.pc, accs := [], err := none })
            s.ctx.nextId)
        else .done ((a.step s).addAccess (a.signalAccess s h off v))) s

/-- The add that follows the fence of a SIGADD.rel. -/
def State.sigaddDone (s : State) (id : Nat) (h : Hold) (paths : Nat) (scope : Scope) (buf off v : Nat) : State :=
  if (s.gang h.gang).lanesWhere (fun _ l => l.hold == some id) == 0 then s.dropHold id
  else if !s.fenceReady h.gang id paths scope true false then s
  else match s.fenceError h.gang paths scope with
    | some (k, e) => (s.clearError h.gang k).holdTrap id h e
    | none =>
      let a : At := ⟨h.gang / 64, h.gang % 64, h.lanes, [], h.pc, 0, false⟩
      (s.addAccess (a.signalAccess s buf off v)).holdDone id h

/-- FENCE_COMPLETE, of a FENCE or of the fence inside a SIGADD.rel. -/
def execFenceComplete (hold : Nat) (s : State) : Host.Outcome State Fault Refusal :=
  .next (match Tbl.find? s.ctx.holds hold with
    | some h => (match h.kind with
      | .fence paths scope rel acq => s.fenceDone hold h paths scope rel acq
      | .sigadd paths scope buf off v => s.sigaddDone hold h paths scope buf off v
      | _ => s)
    | none => s)

/-- The deadline a SIGWAIT's lanes were given at its first issue, or a new one. -/
def At.sigDeadline (a : At) (s : State) (bexp : Nat) : Nat :=
  match a.exec.head?.map fun l => ((s.gang a.gang).lane l).wait with
  | some (.sigwait d) => d
  | _ => s.now + 2 ^ bexp

/-- A load that an instruction makes as it issues: its faults are precise, a page or another device is waited for at the instruction, and where the
load must wait otherwise, so does the instruction. -/
def At.loading (a : At) (s : State) (f : State → State × Served) (waits : Res) (ok : State → List Byte → Res) : Res :=
  match f { s with eng := some (gangAsk a.gang) } with
  | (t, .data bs) => ok ({ t with eng := none }.setCtx fun c => { c with replies := Tbl.erase c.replies (gangAsk a.gang) }) bs
  | (_, .fault e) => .trap s a.set e.cause e.addr e.info
  | (_, .miss p b) => .hold (a.pageHold s p b)
  | (_, .away .beat) | (_, .wait) => waits
  | (_, .away w) => .hold (a.remoteHold s (gangAsk a.gang) w)
  | (_, .remote ..) => waits

/-- What a read of the signal tells SIGWAIT; one that has found its target orders what the gang issues after it (R260). -/
def At.sigSeen (a : At) (s : State) (sd : SReg) (zo : ZReg) (deadline target v : Nat) : Res :=
  if v ≥ target || s.now ≥ deadline then
    let s := if v ≥ target then (s.orderedNow a.gang).stashOrdered a.gang else s
    .done ((a.step s).modGang a.gang fun g => (g.setSpair sd v).setZ zo (decide (v ≥ target)))
  else .hold (a.block (.sigwait deadline) s)

def execSigwait (u : UGuard) (sd sa sb sc : SReg) (zo : ZReg) (bexp : Fin 32) (s : State) : Host.Outcome State Fault Refusal :=
  issue (.sigwait u sd sa sb sc zo bexp)
    (fun a s =>
      let g := s.gang a.gang
      let h := (g.sreg sa).toNat
      let off := (g.sreg sb).toNat
      let target := g.spair sc
      let dl := a.sigDeadline s bexp
      match s.check (s.gridIdOf a.gang) h off 8 ⟨rR, 8, false, false⟩ with
      | .error c => .trap s a.set c (bref h off) 0
      | .ok e =>
        let blocked := a.block (.sigwait dl) s
        if e.kind = 5 then
          a.reading blocked (fun s => s.memRead (s.gridIdOf a.gang) h off 8 ⟨rR, 8, false, false⟩) fun s bs =>
            a.sigSeen s sd zo dl target (ofBytes bs)
        else
          let x := { a.access s .load with handle := h, wd := .d, pol := .nl, reqs := [⟨64, off, 0, 0⟩] }
          if s.earlierOverlap s.ctx.nextId x ⟨64, off, 0, 0⟩ then .hold blocked
          else a.loading blocked (fun s => s.serveLoad s.ctx.nextId x ⟨64, off, 0, 0⟩) (.hold blocked) fun s bs =>
            a.sigSeen s sd zo dl target (ofBytes bs)) s

/-- SIGWAIT_DEADLINE: a SIGWAIT whose deadline has passed reads a last time and returns. -/
def execSigwaitDeadline (core gang : Nat) (s : State) : Host.Outcome State Fault Refusal :=
  s.again core gang (fun w => match w with
      | .sigwait d => decide (d ≤ s.now)
      | _ => false)
    fun i t => match i with
      | .sigwait u sd sa sb sc zo bexp => execSigwait u sd sa sb sc zo bexp t
      | _ => .next s

/-- NAP_EXPIRE: the lanes of a NAP go on (R287). -/
def execNapExpire (core gang : Nat) (s : State) : Host.Outcome State Fault Refusal :=
  .next (s.modGang (gangKey core gang) fun g => g.wakeNaps s.now)

end Sys2Proof.Machine
end

