-- ==== Sys2Proof/Machine/OrderCircle.lean ====
section
/-! DEFINITION. Order circles (R261 to R266): CIRCCTL, stamping by the Crier, the apply unit, gaps and breaks; MCST, PUTRED and
CIRCRD. -/

namespace Sys2Proof.Machine

open Sys2Proof State

/-- Where a message for a circle's Crier goes. (DESIGN CHOICE, assumption 13) -/
def circleDest (circle : Nat) : Nat := 2 ^ 16 + circle

/-- The words in which a record travels. -/
def recWords (c : Nat) (r : CircleRec) (seq : Nat) : List Nat :=
  [c, r.incarn.toNat, r.source, r.tag, seq, r.target.toNat, match r.red with
    | none => 0
    | some (a, d) => 1 + 2 * a.code + 32 * boolNat d]

/-- An access made by no gang and no engine: an apply, or another device's request. (DEDUCED, assumption 37) -/
def bareAccess (h off : Nat) (wd : Width) (aop : Aop) : Access :=
  { kind := .red, path := pFABRIC, gang := 2 ^ 40, core := 2 ^ 20, team := 2 ^ 40, grid := 2 ^ 40, gridId := anyGrid, handle := h, wd := wd,
    pol := .none, aop := aop, scope := .system, reg := 0, pc := 0, la := 0, reqs := [⟨0, off, 0, 0⟩], faults := [], stall := [],
    sent := none, work := none, notBefore := 0, ent := [], orphan := true, erred := false, wrote := [], reply := none, gate := [],
    since := 0, after := [], out := [] }

namespace State

/-- The Crier's device sends to every other member of its list (R261). -/
def sendMembers (s : State) (c : Nat) (words : List Nat) (bytes : List Byte) : State :=
  (s.circle c).members.foldl (fun s m => if m.1 = (s.circle c).index then s else s.sendRemote m.2 words bytes) s

/-- The gap timer (R265): it runs while a sequence above the next one is held, the next one is not, and no apply is in progress. (DEDUCED, assumption 38) -/
def timeGap (s : State) (c : Nat) : State :=
  let x := s.circle c
  let open? := x.state == .active && !x.doing && !Tbl.mem x.window x.applied && x.window.any fun r => decide (r.1 > x.applied)
  s.setCircle c { x with gapSince := if open? then some (x.gapSince.getD s.now) else none }

/-- Pending jobs of this device in a circle. -/
def circleJobs (s : State) (c : Nat) : List (Nat × Work) :=
  s.ctx.works.filter fun w => match w.2.job with
    | .circle _ k _ _ _ _ => k == c && w.2.fin.isNone
    | _ => false

/-- The sequence a job was stamped with. -/
def jobSeq (w : Work) : Option Nat :=
  match w.job with
  | .circle _ _ _ _ _ q => q
  | _ => none

/-- A circle breaks on this device (R265): the applied count is frozen, held records are discarded, and pending tokens end. -/
def breakCircle (s : State) (c : Nat) : State :=
  let x := s.circle c
  let s := s.setCircle c { x with state := .broken, brokenAt := x.applied, bvalid := true, waits := false, window := [], gapSince := none,
                                    queue := x.queue.filter fun r => r.incarn.toNat != x.incarn }
  let s := if x.crier then s.sendMembers c [34, c, x.incarn] [] else s.sendRemote (circleDest c) [35, c, x.incarn, x.applied] []
  (s.circleJobs c).foldl (fun s w => match jobSeq w.2 with
    | some q => s.finishWork w.1 cGAP (q % 2 ^ 24) 0
    | none => s.finishWork w.1 cBROKEN 0 0) s

/-- The apply in progress is counted once DTIME has reached its WCT (R179): the member's report, and the token where the record is
this device's. -/
def countApply (s : State) (c : Nat) : State :=
  let x := s.circle c
  if !x.doing || s.now < x.lastWct then s
  else
    let n := x.applied
    let me := x.index
    let s := s.setCircle c { x with applied := n + 1, doing := false, gapSince := none, counts := Tbl.set x.counts me (n + 1) }
    let s := s.sendRemote (circleDest c) [33, c, x.incarn, me, n + 1] []
    let s := match (s.circleJobs c).find? fun w => jobSeq w.2 == some n with
      | some w => s.finishWork w.1 0 (n % 2 ^ 24) 0
      | none => s
    s.timeGap c

/-- A record that is applied only in part or not at all (R263): counted and logged, and its sequence still counts. -/
def applyFailed (s : State) (c : Nat) (e : Err) : State :=
  let x := s.circle c
  (s.setCircle c { x with applyErr := min (x.applyErr + 1) (2 ^ 32 - 1) }).logEntry
    { cause := e.cause, detail := e.info % 16, source := 1, gridId := 0xFFFF, core := 0xFF, gangIdx := 0xF, addr := e.addr,
      time := s.now % 2 ^ 64, index := 0 }

/-- The stores of an MCST record, part by part; the first data fault stops them. An entry with a write graph takes them as beats
(`applyBeats`, R105). -/
def applyStores (h : Nat) : List (Nat × Nat) → List Byte → State → State × Nat × Option Err
  | [], _, s => (s, 0, none)
  | (off, n) :: rest, bs, s =>
    match s.place (s.entry h) h off n with
    | .ok p =>
      let (s, w) := s.writePieces none 0 h off [p] (bs.take n)
      (match w.err with
       | some e => (s, w.wct, some e)
       | none =>
         let (s, t, e) := applyStores h rest (bs.drop n) s
         (s, max t w.wct, e))
    | .fail e => (s, 0, some e)
    | _ => (s, 0, none)

/-- The stores of an MCST record through a write graph (R105); none is made that must wait. -/
def applyBeats (s : State) (e : Entry) (h off : Nat) (bs : List Byte) : Option (State × Nat × Option Err) :=
  match s.streamWrite e h off bs with
  | (t, .ok w) => some (t, w.wct, w.err)
  | (t, .fail x) => some (t, 0, some x)
  | _ => none

/-- The reductions of a circle PUTRED, element by element; none is started that must wait for custody. -/
def applyReds (h : Nat) (aop : Aop) (wd : Width) : List (Nat × Nat) → State → Option (State × Nat × Option Err)
  | [], s => some (s, 0, none)
  | (off, v) :: rest, s =>
    match s.atomicAt (2 ^ 64) (bareAccess h off wd aop) ⟨0, off, v, 0⟩ fun old => aopApply aop wd.bytes old v 0 with
    | (t, .data _, w) =>
      (match w.err with
       | some e => some (t, w.wct, some e)
       | none => (applyReds h aop wd rest t).map fun x => (x.1, max x.2.1 w.wct, x.2.2))
    | (t, .fault e, _) => some (t, 0, some e)
    | _ => none

/-- CIRCLE_APPLY: the apply in progress is counted, or the next record in sequence is performed. -/
def applyNext (s : State) (c : Nat) : State :=
  let s := s.countApply c
  let x := s.circle c
  if x.state != .active || x.doing then s
  else match Tbl.find? x.window x.applied with
  | none => s
  | some r =>
    let h := r.target.toNat / 2 ^ 52
    let off := r.target.toNat % 2 ^ 52
    let n := r.payload.length
    let done := fun (s : State) (wct : Nat) (e : Option Err) =>
      let s := match e with
        | some e => s.applyFailed c e
        | none => s
      let x := s.circle c
      (s.setCircle c { x with window := Tbl.erase x.window x.applied, doing := true, waits := false, lastWct := wct, gapSince := none }).countApply c
    let q : Need := match r.red with
      | none => ⟨rW ||| rMCST, 4, false, false⟩
      | some (_, d) => ⟨rW ||| rATOM ||| rMCST, if d then 8 else 4, true, false⟩
    match s.check anyGrid h off n q with
    | .error cause => done s 0 (some (errAt cause h off))
    | .ok e =>
      if e.kind ≠ 1 then done s 0 (some (errAt cHANDLE h off))
      else match s.rangePieces e h off n with
        | .miss p b => (s.postMiss p b true 0xFFFF).setCircle c { x with gapSince := none, waits := true }
        | .away _ => s
        | _ => match s.gates e h off q with
        | some x => done s 0 (some x)
        | none => match r.red with
          | none =>
            (match (if e.milled true then s.applyBeats e h off r.payload else some (applyStores h (cutParts e (n / 256 + 2) off n) r.payload s)) with
             | some (s, wct, er) => done s wct er
             | none => s)
          | some (aop, d) =>
            if let some x := State.atomKind e h off aop then done s 0 (some x) else
            let wd : Width := if d then .d else .w
            let els := (chunks wd.bytes (n / wd.bytes) r.payload).zipIdx.map fun (b, i) => (off + i * wd.bytes, ofBytes b)
            (match applyReds h aop wd els s with
             | some (s, wct, er) => done s wct er
             | none => s)

/-! The Crier. -/

/-- This device's job whose record has been stamped takes its sequence number (R262). -/
def stampOwn (s : State) (c seq tag : Nat) : State :=
  let mine := (s.circleJobs c).find? fun w => match w.2.job with
    | .circle r _ _ _ sent q => sent && q.isNone && r.tag == tag
    | _ => false
  match mine with
  | some (id, w) =>
    let s := s.setCircle c { s.circle c with issued := (s.circle c).issued + 1 }
    (match w.job with
     | .circle r k src n sent _ => s.setWork id { w with job := .circle r k src n sent (some seq) }
     | _ => s)
  | none => s

/-- A stamped record is held in the window until its turn; one of another incarnation is discarded (R262). -/
def holdRecord (s : State) (c seq : Nat) (r : CircleRec) : State :=
  let x := s.circle c
  if x.state != .active || r.incarn.toNat ≠ x.incarn || seq < x.applied || (x.doing && seq = x.applied) then s
  else (s.setCircle c { x with window := Tbl.set x.window seq r }).timeGap c

/-- CRIER_STAMP: the oldest record that has reached the Crier takes the next number and goes to every member, once every member is
ACTIVE and has applied enough (R261, R262). -/
def stampNext (s : State) (c : Nat) : State :=
  let x := s.circle c
  let members := List.range (x.last + 1)
  let room := members.all fun m => Tbl.find? x.ready m == some x.incarn && decide (x.nextSeq < 256 + Tbl.get 0 x.counts m)
  match x.queue.find? fun r => r.incarn.toNat == x.incarn with
  | none => s
  | some r =>
    if !x.crier || x.state != .active || !room then s
    else
      let q := x.nextSeq
      let s := s.setCircle c { x with queue := x.queue.erase r, nextSeq := q + 1 }
      let s := s.sendMembers c (32 :: recWords c r q) r.payload
      let s := if r.source = s.dev.host.devnum then s.stampOwn c q r.tag else s
      s.holdRecord c q r

/-- A record reaches this device's Crier. One of the incarnation that is over goes; one of another waits until its slot is ACTIVE under that. -/
def reachCrier (s : State) (c : Nat) (r : CircleRec) : State :=
  let x := s.circle c
  if x.state != .active && r.incarn.toNat = x.incarn then s else s.setCircle c { x with queue := x.queue ++ [r] }

/-- CIRCLE_RECORD_SEND: the payload is read once and the record goes to the Crier, a gang's records in issue order (R262, R264). -/
def sendRecord (s : State) (id : Nat) : State :=
  match s.work? id with
  | some w => match w.job with
    | .circle r c src n sent _ =>
      let earlier := (s.circleJobs c).any fun x => x.1 < id && x.2.gang == w.gang && (match x.2.job with
        | .circle _ _ _ _ sent _ => !sent
        | _ => false)
      if sent || earlier || s.workHeld id w || (src.stash && s.stashWritesPending w.gang id) then s
      else s.attempt id fun w s =>
        andThen (s.readSide w src 0 n) fun s bs =>
          if (s.circle c).state != .active then (s.finishWork id cBROKEN 0 0, .ok ())
          else
            let r := { r with payload := bs, incarn := BitVec.ofNat 16 (s.circle c).incarn, source := s.dev.host.devnum, tag := id }
            let s := s.modWork id fun w => { w with job := .circle r c src n true none }
            (if (s.circle c).crier then s.reachCrier c r else s.sendRemote (circleDest c) (36 :: recWords c r 0) bs, .ok ())
    | _ => s
  | none => s

/-- An apply is in progress: performed and not yet counted, or waiting for a page (R265 step 3). -/
def applyHeld (s : State) (c : Nat) : Bool := (s.circle c).doing || (s.circle c).waits

/-! CIRCCTL (R261). -/

def refuseCircle (s : State) (c : Nat) : State := s.setCircle c { s.circle c with err := true }

/-- A write of CIRCCTL that names BROKEN is always accepted and changes STATE alone. -/
def writeBroken (s : State) (c : Nat) (v : Nat) : State :=
  let s := if bit v 3 then s.setCircle c { s.circle c with err := false } else s
  s.breakCircle c

/-- Any other write of CIRCCTL: ACTIVE under a new incarnation forms the circle anew; STATE 3, and every other write to an ACTIVE
circle, is refused. (DEDUCED, assumption 39) -/
def writeActive (s : State) (c : Nat) (v : Nat) : State :=
  let s := if bit v 3 then s.setCircle c { s.circle c with err := false } else s
  let x := s.circle c
  let st := v % 4
  let inc := bits v 32 16
  if x.state == .active || st = 3 || bits v 48 16 = 0 || (st = 1 && inc = x.incarn) then s.refuseCircle c
  else
    let y := { x with crier := bit v 2, index := bits v 8 10, last := bits v 18 10, incarn := inc, gapus := bits v 48 16 }
    if st = 1 then
      let s := s.setCircle c { y with
        state := .active, applied := 0, issued := 0, window := [], brokenAt := 0, bvalid := false, gapSince := none, doing := false,
        waits := false, lastWct := 0, queue := x.queue.filter fun r => r.incarn.toNat == inc, nextSeq := 0, counts := [],
        ready := (if y.crier then fun t => Tbl.set t y.index inc else id) (x.ready.filter fun m => m.2 != x.incarn) }
      if y.crier then s else s.sendRemote (circleDest c) [37, c, inc, y.index] []
    else s.setCircle c { y with state := .free }

end State

/-! Instructions. -/

/-- A circle record's instruction at issue: with the circle not ACTIVE the token is written at once (R264). -/
def At.startCircle (a : At) (s : State) (tok op10 c : Nat) (src : Side) (n h off : Nat) (red : Option (Aop × Bool)) : State :=
  let id := s.ctx.nextId
  let r : CircleRec := ⟨BitVec.ofNat 64 (bref h off), [], red, 0, s.dev.host.devnum, 0⟩
  let active := (s.circle c).state == .active
  let s := a.start s tok op10 (.circle r c src n false none)
  if active then s else s.finishWork id cBROKEN 0 0

def execMcst (u : UGuard) (sd sa sb : SReg) (circle : Fin 64) (s : State) : Host.Outcome State Fault Refusal :=
  issue (.mcst u sd sa sb circle)
    (fun a s =>
      let g := s.gang a.gang
      let h := (g.sreg sa).toNat
      let off := (g.sreg (sa.val + 1)).toNat
      let so := (g.sreg sb).toNat
      let n := (g.sreg (sb.val + 1)).toNat
      let target := match s.check (s.gridIdOf a.gang) h off n ⟨rW ||| rMCST, 4, false, false⟩ with
        | .error c => some (errAt c h off)
        | .ok e => if e.kind ≠ 1 then some (errAt cHANDLE h off) else none
      let count := if n % 4 ≠ 0 || n < 4 || n > 4096 then some ⟨cBOUNDS, 0, 0⟩ else none
      a.guarded s ((target.or (s.stashCheck g.team so n 4)).or count)
        (.done (a.startCircle s sd 0x063 circle ⟨true, 0, so⟩ n h off none))) s

def execPutred (u : UGuard) (sd sa sb sc : SReg) (aop : Aop) (d sig : Bool) (chunk : Fin 4) (sstash circ : Bool) (circle : Fin 64)
    (s : State) : Host.Outcome State Fault Refusal :=
  issue (.putred u sd sa sb sc aop d sig chunk sstash circ circle)
    (fun a s =>
      let g := s.gang a.gang
      let r := fun (i : Nat) => (g.sreg (sa.val + i)).toNat
      let n := (g.sreg sb).toNat
      let src := sideOf sstash (r 0) (r 1)
      let dst := sideOf false (r 2) (r 3)
      let gid := s.gridIdOf a.gang
      let sp := sigPair g sc sig
      let elem := if d then 8 else 4
      a.guarded s ((((s.srcCheck gid g.team src n false).or (s.redCheck gid dst n elem aop circ)).or (countCheck n elem circ)).or
        (sp.bind fun x => s.signalCheck gid x.1 x.2))
        (.done (if circ then a.startCircle s sd 0x062 circle src n dst.handle dst.off (some (aop, d))
          else a.startXfer s sd 0x062 (.red aop d) src dst n chunk sp))) s

/-- CIRCRD samples one word of the circle's record (R266). -/
def execCircrd (u : UGuard) (sd : SReg) (circle : Fin 64) (word : Fin 8) (s : State) : Host.Outcome State Fault Refusal :=
  issue (.circrd u sd circle word)
    (fun a s => gangOp (fun g => g.setSpair sd (circleWord (s.circle circle) word)) a s) s

/-! Events. -/

def execCircleRecordSend (work : Nat) (s : State) : Host.Outcome State Fault Refusal := .next (s.sendRecord work)
def execCrierStamp (circle : Fin 64) (s : State) : Host.Outcome State Fault Refusal := .next (s.stampNext circle)
def execCircleApply (circle : Fin 64) (s : State) : Host.Outcome State Fault Refusal := .next (s.applyNext circle)

/-- CIRCLE_GAP_TIMEOUT: a gap that has lasted GAPUS breaks the circle on this member (R265). -/
def execCircleGapTimeout (circle : Fin 64) (s : State) : Host.Outcome State Fault Refusal :=
  .next (
    let x := s.circle circle
    match x.gapSince with
    | some t => if x.state == .active && s.now ≥ t + 1000 * x.gapus then s.breakCircle circle else s
    | none => s)

/-- CIRCLE_BROKEN_RECEIVE: the member completes the apply in progress, then breaks (R265). -/
def execCircleBrokenReceive (circle : Fin 64) (s : State) : Host.Outcome State Fault Refusal :=
  .next (
    let s := s.countApply circle
    let x := s.circle circle
    if s.applyHeld circle then { s with inputs := s.inputs ++ [.circleBrokenReceive circle] }
    else if x.state == .active then s.breakCircle circle else s)

/-- A write of CIRCCTL by its STATE. A break waits for the apply in progress (R265 step 3). -/
def State.writeCircctl (s : State) (c : Fin 64) (value : DWord) : State :=
  if s.dev.sec.bootstat ≠ 1 then s
  else if value.toNat % 4 = 2 then
    let s := s.countApply c
    if s.applyHeld c then { s with inputs := s.inputs ++ [.circctlBroken c value] } else s.writeBroken c value.toNat
  else s.writeActive c value.toNat

def execCircctlActive (circle : Fin 64) (value : DWord) (s : State) : Host.Outcome State Fault Refusal :=
  .next (s.writeCircctl circle value)
def execCircctlBroken (circle : Fin 64) (value : DWord) (s : State) : Host.Outcome State Fault Refusal :=
  .next (s.writeCircctl circle value)

end Sys2Proof.Machine
end

