-- ==== Sys2Proof/Machine/Launch.lean ====
section
/-! DEFINITION. Launch records and the places they take (R289 to R295), the launch window (R292, R293), SPAWN, TIMEAT and IQFILL
(R301 to R304), the timer wheel (R303) and grid completion (R305 to R308). -/

namespace Sys2Proof.Machine

open Sys2Proof State

/-- A list in the order of a test, equal elements in their old order. -/
def insertBy {α : Type} (lt : α → α → Bool) (x : α) : List α → List α
  | [] => [x]
  | y :: ys => if lt x y then x :: y :: ys else y :: insertBy lt x ys
def sortBy {α : Type} (lt : α → α → Bool) (xs : List α) : List α := xs.foldl (fun t x => insertBy lt x t) []

/-! The record's checks (R291). -/

/-- The budget rule of one role. -/
def budgetOk (regs gangs : Nat) : Bool :=
  if gangs = 0 then regs == 0 else regs % 8 == 0 && decide (8 ≤ regs ∧ regs ≤ 128)

/-- A well-formed record; the rule on DEPTH is of host records alone. -/
def Rec.wellFormed (r : List Byte) (host : Bool) : Bool :=
  bits (Rec.word10 r) 41 7 == 0 && bits (Rec.word10 r) 53 11 == 0 && numAt r 0x1E 2 == 0 && numAt r 0x36 2 == 0 &&
  decide (1 ≤ Rec.ngangs r ∧ Rec.ngangs r ≤ 16) && budgetOk (Rec.regsp r) (Rec.pgangs r) && budgetOk (Rec.regsc r) (Rec.cgangs r) &&
  decide (Rec.acct r ≤ 32 ∧ 4 ≤ Rec.savek r) && Rec.hoff r % 4 == 0 && Rec.gridId r != 0xFFFF && (!host || Rec.depth r == 0) &&
  (Rec.csig r || Rec.cref r == 0)

/-- n of R124: how many teams of the record a core holds. -/
def Rec.fitCount (r : List Byte) : Nat :=
  let f := Rec.freg r + Rec.fstash r + Rec.fsave r
  (List.range 17).foldl (fun best n =>
    if n * Rec.ngangs r ≤ 64 && n * f ≤ 1572864 - 65536 && n * Rec.acct r ≤ 32 then n else best) 0

/-- The completion pair's checks by a requester: 16 bytes with R, W and ATOM, and the signal rules (R291 step 2, R258). The requester is the gang
that issued the SPAWN or TIMEAT, or armed the trigger (R3, R84); of a host record it is the record's own GRIDID, here and in the writes of
R308 (DESIGN CHOICE, assumption 93). -/
def State.crefCheck (s : State) (gridId : Nat) (r : List Byte) : Option Err :=
  if Rec.csig r then s.redCheck gridId ⟨false, Rec.cref r / 2 ^ 52, Rec.cref r % 2 ^ 52⟩ 16 8 .add false else none

/-- R291: the first failure of a record. CODE is checked with the record's GRIDID, and CREF with the requester's grid id. -/
def State.recordCheck (s : State) (gridId : Nat) (r : List Byte) (host : Bool) : Option Err :=
  if !Rec.wellFormed r host then some ⟨cRESERVED, 0, 0⟩
  else match s.check (Rec.gridId r) (Rec.codeBuf r) (Rec.codeOff r) 4 ⟨rX, 4, false, false⟩ with
    | .error c => some (errAt c (Rec.codeBuf r) (Rec.codeOff r))
    | .ok _ => (s.crefCheck gridId r).or (if Rec.fitCount r = 0 then some ⟨cFOOTPRINT, 0, 0⟩ else none)

/-! The grid table and the timer wheel. -/

/-- A record takes a grid-table entry (R294). A launch from the host or a trigger is ordered after the host's writes so far (R180). -/
def State.takeEntry (s : State) (r : List Byte) (spawnCore : Option Nat) (gridId : Nat) : Option State :=
  (Tbl.freeKey s.ctx.grids 256).map fun k =>
    let s := s.setGrid k { Grid.absent with
      record := r, unended := Rec.teams r, thandler := Rec.hoff r, spawnCore := spawnCore, crefId := gridId, seq := s.ctx.seq + 1,
      start := if spawnCore.isNone then s.dev.hostWct else 0 }
    s.setCtx fun c => { c with seq := c.seq + 1 }

/-- The entries of the grid table that are free and not owed to grids of the wheel whose time has come (R303). -/
def State.openEntries (s : State) : Nat :=
  256 - (s.ctx.grids.filter fun g => g.1 < 256).length - (s.ctx.wheel.filter fun w => w.release ≤ s.now).length

/-- A record enters the place it needs, where there is room (R294, R303). -/
def State.enterRecord (s : State) (r : List Byte) (spawnCore : Option Nat) (gridId : Nat) : Option State :=
  if Rec.release r ≤ s.now then (if s.openEntries = 0 then none else s.takeEntry r spawnCore gridId)
  else if s.ctx.wheel.length ≥ 4096 then none
  else some (s.setCtx fun c => { c with wheel := c.wheel ++ [⟨r, Rec.release r, c.seq, spawnCore, gridId⟩], seq := c.seq + 1 })

/-- TIMER_WHEEL_SLOT: the grids whose time has come enter the table in ascending T, as far as it has room (R303). -/
def State.wheelSlot (s : State) (slot : Nat) : State :=
  let due := s.ctx.wheel.filter fun w => w.release ≤ s.now
  if !(due.any fun w => w.release / 1000 % 1024 == slot) then s
  else
    let order := sortBy (fun a b => a.release < b.release || (a.release == b.release && a.seq < b.seq)) due
    order.foldl (fun s w => match s.takeEntry w.record w.spawnCore w.crefId with
      | some t => t.setCtx fun c => { c with wheel := c.wheel.filter (· != w) }
      | none => s) s

/-! The completion pair (R307, R308). -/

def statusWord (cause gridId nerr : Nat) : Nat := cause % 128 + gridId % 2 ^ 16 * 2 ^ 16 + nerr % 2 ^ 32 * 2 ^ 32

/-- The status word stored at CREF + 8. -/
def State.storeStatus (s : State) (gridId : Nat) (r : List Byte) (value : Nat) : State × Port StoreSet :=
  s.rawWrite gridId (Rec.cref r / 2 ^ 52) (Rec.cref r % 2 ^ 52 + 8) (toBytes 8 value) ⟨rW, 8, false, false⟩

/-- CADD is added to the signal (R308). -/
def State.completionAdd (s : State) (gridId : Nat) (r : List Byte) : State :=
  let h := Rec.cref r / 2 ^ 52
  let q := { s with eng := none }.queuedWrite h [⟨0, Rec.cref r % 2 ^ 52, Rec.cadd r, 0⟩] none
  s.addAccess { q with kind := .signal, path := pFABRIC, wd := .d, scope := s.pointScope h, gridId := gridId }

/-- Whether work of a grid is still under way: accesses, engines, custody lines (R306). -/
def State.gridBusy (s : State) (k : Nat) : Bool :=
  (s.ctx.accs.any fun a => a.2.grid == k) || (s.ctx.works.any fun w => w.2.grid == k) ||
  s.ctx.custody.any fun c => c.2.users.any fun u => u.2 == k

/-- A grid-table entry is freed. -/
def State.freeGrid (s : State) (k : Nat) : State := s.setCtx fun c => { c with grids := Tbl.erase c.grids k }

/-- GRID_COMPLETE (R306, R308). A completion write that faults is logged, and the entry is freed all the same. (DEDUCED, assumption 45) -/
def State.completeGrid (s : State) (k : Nat) : State :=
  match Tbl.find? s.ctx.grids k with
  | none => s
  | some g =>
    if g.unended ≠ 0 || g.signalDue.isSome || s.now < g.wct || s.gridBusy k then s
    else if !Rec.csig g.record then s.freeGrid k
    else
      let first := s.ctx.nextId
      match s.storeStatus g.crefId g.record (statusWord g.cause (Rec.gridId g.record) g.nerr) with
      | (_, .miss p b) => s.postMiss p b true (Rec.gridId g.record)
      | (_, .away ..) => s
      | (s, .fail e) => (s.logError k (Rec.gridId g.record) 5 0xFF 0xF e 0).freeGrid k
      | (s, .ok w) => match w.err with
        | some e => (s.logError k (Rec.gridId g.record) 5 0xFF 0xF e 0).freeGrid k
        | none =>
          let s := s.setCtx fun c => { c with accs := c.accs.map fun a => if first ≤ a.1 then (a.1, { a.2 with grid := k }) else a }
          s.setGrid k { g with signalDue := some w.wct, wct := max g.wct w.wct }

/-- COMPLETION_SIGNAL_ADD: with the status word past its WCT, CADD is sent to the signal, where CREF passes its checks still, and the entry
is free (R308, R258). -/
def State.completeSignal (s : State) (k : Nat) : State :=
  match Tbl.find? s.ctx.grids k with
  | none => s
  | some g => match g.signalDue with
    | none => s
    | some t =>
      if s.now < max t g.wct || s.gridBusy k then s
      else match s.crefCheck g.crefId g.record with
        | some e => (s.logError k (Rec.gridId g.record) 5 0xFF 0xF e 0).freeGrid k
        | none => (s.completionAdd g.crefId g.record).freeGrid k

/-! The launch window. -/

namespace State

def setLaunch (s : State) (f : Launch → Launch) : State := s.setDev fun d => { d with launch := f d.launch }
def slotLoad (s : State) (k : Nat) : SlotLoad := Tbl.get .empty s.dev.launch.slots k
def setSlotLoad (s : State) (k : Nat) (x : SlotLoad) : State :=
  s.setLaunch fun l => { l with slots := if x = .empty then Tbl.erase l.slots k else Tbl.set l.slots k x }

/-- A context becomes resident (R382). -/
def residentNow (s : State) : State := s.setDev fun d => { d with pre := { d.pre with resident := true, done := false } }

/-- A completion pair that is owed for a rejected record: a grid of no teams, under a key beyond the grid table. -/
def owePair (s : State) (g : Grid) : State :=
  match (List.range (s.ctx.grids.length + 1)).find? fun i => !Tbl.mem s.ctx.grids (2 ^ 20 + i) with
  | some i => s.setGrid (2 ^ 20 + i) g
  | none => s

/-- R293: a record that fails is recorded, and its completion pair is written as for a grid of no teams. (DEDUCED, assumption 45) -/
def rejectRecord (s : State) (slot : Nat) (r : List Byte) (e : Err) : State :=
  let s := (s.setSlotLoad slot .empty).setLaunch fun l => { l with
    rejCause := e.cause, rejSlot := slot, rejCount := min (l.rejCount + 1) 255 }
  let s := (s.logError (2 ^ 40) (Rec.gridId r) 5 0xFF 0xF e 0).msix 5
  if !Rec.csig r || (s.crefCheck (Rec.gridId r) r).isSome then s
  else s.owePair { Grid.absent with record := r, next := Rec.teams r, cause := e.cause, nerr := 1, crefId := Rec.gridId r }

/-- A full slot's record is checked and entered, or held while its place is full (R292). -/
def takeRecord (s : State) (slot : Nat) (r : List Byte) : State :=
  match s.recordCheck (Rec.gridId r) r true with
  | some e => s.rejectRecord slot r e
  | none => match s.enterRecord r none (Rec.gridId r) with
    | some t => (t.setSlotLoad slot .empty).residentNow
    | none => s.setSlotLoad slot (.held r)

/-- LAUNCH_SLOT_WRITE: bytes that the host writes into a slot of window B (R292). -/
def slotWrite (s : State) (slot off : Nat) (bs : List Byte) : State :=
  if s.dev.sec.bootstat ≠ 1 then s
  else match s.slotLoad slot with
  | .held _ => s.setLaunch fun l => { l with rejDrop := min (l.rejDrop + 1) 255 }
  | x =>
    let old := match x with
      | .filling t => t
      | _ => []
    let t := (bs.zipIdx).foldl (fun (t : Tbl Byte) (b, i) => if off + i < 64 then Tbl.set t (off + i) b else t) old
    if t.length = 64 then s.takeRecord slot (Tbl.vals t)
    else if t.isEmpty then s else s.setSlotLoad slot (.filling t)

/-- HELD_SLOT_ENTER: a held record enters once there is room (R292). -/
def heldEnter (s : State) (slot : Nat) : State :=
  match s.slotLoad slot with
  | .held r => (match s.enterRecord r none (Rec.gridId r) with
    | some t => (t.setSlotLoad slot .empty).residentNow
    | none => s)
  | _ => s

end State

/-! SPAWN and TIMEAT (R301, R302). -/

/-- A record with its DEPTH field replaced. -/
def Rec.withDepth (r : List Byte) (d : Nat) : List Byte :=
  patch r 0x10 (toBytes 8 (Rec.word10 r - Rec.depth r * 2 ^ 50 + d * 2 ^ 50))

/-- A child record is checked and its gang blocked until the fence wait is over and its place has room. -/
def At.spawn (a : At) (s : State) (w : Wait) (r : List Byte) : Res :=
  let d := Rec.depth (s.recordOf a.gang)
  if d = 7 then .trap s a.set cDEPTH 0 0
  else
    let r := Rec.withDepth r (d + 1)
    match s.recordCheck (s.gridIdOf a.gang) r false with
    | some e => .trap s a.set e.cause e.addr e.info
    | none =>
      let s := a.startFence s 1 .device
      let h := s.ctx.nextId
      let s := a.holdLanes (s.addHold { kind := .spawn r, gang := a.gang, lanes := a.set, pc := a.pc, accs := [], err := none }) h
      .hold (a.block w s)

def execSpawn (u : UGuard) (sa : SReg) (s : State) : Host.Outcome State Fault Refusal :=
  issue (.spawn u sa)
    (fun a s => a.spawn s .spawn ((List.range 16).flatMap fun m => toBytes 4 ((s.gang a.gang).sreg (sa.val + m)).toNat)) s

/-- A launch record read as a 64-byte LSU load with R and alignment 8 (R302): from the core's copies, from its home, or from another device. -/
def At.loadRecord (a : At) (s : State) (h off : Nat) (ok : State → List Byte → Res) : Res :=
  let x := { a.access s .sld with handle := h, pol := .none, reqs := [⟨64, off, 0, 0⟩] }
  let e := s.entry (h % 4096)
  if h < 4096 && e.kind == 5 && (s.remoteCopy a.core 0 e.data off 64).isNone then
    a.reading s (fun s => s.memRead (s.gridIdOf a.gang) h off 64 ⟨rR, 8, false, false⟩) ok
  else a.loading s (fun s => s.serveRange s.ctx.nextId x ⟨64, off, 0, 0⟩ 64 8) .stall ok

def execTimeat (u : UGuard) (sa sb : SReg) (s : State) : Host.Outcome State Fault Refusal :=
  issue (.timeat u sa sb)
    (fun a s =>
      let g := s.gang a.gang
      let ref := g.spair sa
      if s.passesOwn a (ref / 2 ^ 52) (ref % 2 ^ 52) 64 then .stall
      else a.loadRecord s (ref / 2 ^ 52) (ref % 2 ^ 52) fun s r => a.spawn s .timeat (patch r 0x38 (toBytes 8 (g.spair sb)))) s

/-- SPAWN_ENTER: the fence wait is over and the record takes its place, or the gang goes on waiting. -/
def State.spawnPlace (s : State) (id : Nat) (h : Hold) (r : List Byte) : State :=
  if (s.gang h.gang).lanesWhere (fun _ l => l.hold == some id) == 0 then s.dropHold id
  else if !s.fenceReady h.gang id 1 .device true false then s
  else match s.fenceError h.gang 1 .device with
    | some (k, e) => (s.clearError h.gang k).holdTrap id h e
    | none => match s.enterRecord r (some (h.gang / 64)) (s.gridIdOf h.gang) with
      | some t => t.holdDone id h
      | none => s

def execSpawnEnter (hold : Nat) (s : State) : Host.Outcome State Fault Refusal :=
  .next (match Tbl.find? s.ctx.holds hold with
    | some h => (match h.kind with
      | .spawn r => s.spawnPlace hold h r
      | _ => s)
    | none => s)

/-! IQFILL (R304). -/

/-- Items appended to the core's queue, and how many were taken. -/
def At.appendItems (a : At) (s : State) (sd : SReg) (xs : List Word) : State :=
  ((a.step s).modCore a.core fun c => { c with items := c.items ++ xs }).modGang a.gang fun g => g.setS sd (BitVec.ofNat 32 xs.length)

def execIqfill (u : UGuard) (sd sa sb : SReg) (seq : Bool) (s : State) : Host.Outcome State Fault Refusal :=
  issue (.iqfill u sd sa sb seq)
    (fun a s =>
      let g := s.gang a.gang
      let first := (g.sreg sa).toNat
      let n := (g.sreg sb).toNat
      let m := min n (1024 - (s.core a.core).items.length)
      if seq then .done (a.appendItems s sd ((List.range m).map fun i => BitVec.ofNat 32 (first + i)))
      else match s.stashCheck g.team first (4 * n) 4 with
        | some e => .trap s a.set e.cause e.addr e.info
        | none =>
          if s.stashWritesPending a.gang s.ctx.nextId then .stall
          else a.reading s (fun s =>
              let x := s.stashRead (s.gridIdOf a.gang) a.slot g.team first (4 * m)
              andThen (x.1, x.2.at' (stashErr 0 first).addr) fun s y =>
                (s, if y.2.isSome then .fail (stashErr cPOISON first) else .ok (s.stashMixed a.gang pLSU g.team first y.1)))
            fun s bs => .done (a.appendItems s sd ((chunks 4 m bs).map fun b => BitVec.ofNat 32 (ofBytes b)))) s

/-! Events. -/

def execLaunchSlotWrite (slot : Fin 64) (off : Nat) (bytes : List Byte) (s : State) : Host.Outcome State Fault Refusal :=
  .next (s.slotWrite slot off bytes)
def execHeldSlotEnter (slot : Fin 64) (s : State) : Host.Outcome State Fault Refusal := .next (s.heldEnter slot)
def execTimerWheelSlot (slot : Nat) (s : State) : Host.Outcome State Fault Refusal := .next (s.wheelSlot slot)
def execGridComplete (grid : Nat) (s : State) : Host.Outcome State Fault Refusal := .next (s.completeGrid grid)
def execCompletionSignalAdd (grid : Nat) (s : State) : Host.Outcome State Fault Refusal := .next (s.completeSignal grid)

end Sys2Proof.Machine
end

