-- ==== Sys2Proof/Machine/Queue.lean ====
section
/-! DEFINITION. Queues of teams (R296 to R298), placement (R51, R124, R289, R299) and the end of a team (R305). -/

namespace Sys2Proof.Machine

open Sys2Proof State

/-- Queue order: priority, highest first, then the order of entry at this level (R296). -/
def queueOrder (q : List QEntry) : List QEntry := sortBy (fun a b => a.prio > b.prio || (a.prio == b.prio && a.seq < b.seq)) q

namespace State

def coreQueue (s : State) (c : Nat) : List QEntry := (s.core c).queue
def setCoreQueue (s : State) (c : Nat) (q : List QEntry) : State := s.modCore c fun x => { x with queue := q }
def clusterQueue (s : State) (k : Nat) : List QEntry := Tbl.get [] s.ctx.clusterQ k
def setClusterQueue (s : State) (k : Nat) (q : List QEntry) : State := s.setCtx fun c => { c with clusterQ := Tbl.set c.clusterQ k q }
def dieQueue (s : State) (d : Nat) : List QEntry := Tbl.get [] s.ctx.dieQ d
def setDieQueue (s : State) (d : Nat) (q : List QEntry) : State := s.setCtx fun c => { c with dieQ := Tbl.set c.dieQ d q }

/-- A queue with the fewest entries among a list of numbers; ties go to the lowest. -/
def fewest (len : Nat → Nat) : List Nat → Option Nat
  | [] => none
  | i :: is => some (is.foldl (fun b j => if len j < len b then j else b) i)

/-- Entries stamped as they enter a level. -/
def stamp (s : State) (es : List QEntry) : State × List QEntry :=
  (s.setCtx fun c => { c with seq := c.seq + es.length },
   es.zipIdx.map fun (e, i) => { e with at' := s.now, seq := s.ctx.seq + i, bypassed := 0 })

/-- A batch leaves a list of entries. -/
def without (q es : List QEntry) : List QEntry := q.filter fun e => !es.contains e

/-- The 8 oldest entries by entry instant (R297). -/
def oldest (q : List QEntry) : List QEntry := (sortBy (fun a b => a.seq < b.seq) q).take 8

/-- Up from a core: past its high mark, to its cluster, if there is room. -/
def upCore (s : State) (c : Nat) : State :=
  let q := s.coreQueue c
  let k := c / 8
  if q.length ≤ 24 || (s.clusterQueue k).length + 8 > 256 then s
  else
    let es := oldest q
    let (s, xs) := s.stamp es
    (s.setCoreQueue c (without q es)).setClusterQueue k (s.clusterQueue k ++ xs)

/-- Up from a cluster, to its die. -/
def upCluster (s : State) (k : Nat) : State :=
  let q := s.clusterQueue k
  let d := k / 6
  if q.length ≤ 192 || (s.dieQueue d).length + 8 > 2048 then s
  else
    let es := oldest q
    let (s, xs) := s.stamp es
    (s.setClusterQueue k (without q es)).setDieQueue d (s.dieQueue d ++ xs)

/-- Down from a cluster: some core of it is below its low mark; the core with the fewest entries gets the 8 at the head. -/
def downCluster (s : State) (k : Nat) : State :=
  let q := s.clusterQueue k
  match fewest (fun c => (s.coreQueue c).length) ((List.range 8).map (8 * k + ·)) with
  | some c =>
    if q.isEmpty || (s.coreQueue c).length ≥ 8 then s
    else
      let es := (queueOrder q).take 8
      let (s, xs) := s.stamp es
      (s.setClusterQueue k (without q es)).setCoreQueue c (s.coreQueue c ++ xs)
  | none => s

/-- Down from a die, to its clusters. -/
def downDie (s : State) (d : Nat) : State :=
  let q := s.dieQueue d
  match fewest (fun k => (s.clusterQueue k).length) ((List.range 6).map (6 * d + ·)) with
  | some k =>
    if q.isEmpty || (s.clusterQueue k).length ≥ 64 then s
    else
      let es := (queueOrder q).take 8
      let (s, xs) := s.stamp es
      (s.setDieQueue d (without q es)).setClusterQueue k (s.clusterQueue k ++ xs)
  | none => s

/-- Every move that is due now (R297), over the queues that hold entries. -/
def movePass (s : State) : State :=
  let s := (Tbl.keys s.ctx.cores).foldl upCore s
  let s := (Tbl.keys s.ctx.clusterQ).foldl upCluster s
  let s := (Tbl.keys s.ctx.dieQ).foldl downDie s
  (Tbl.keys s.ctx.clusterQ).foldl downCluster s

/-- Moves are made until none is due; each takes a batch. (DEDUCED, assumption 47) -/
def settleQueues (s : State) : State := (List.range 32).foldl (fun s _ => s.movePass) s

/-! Feeding (R294, R296). -/

/-- Where a grid's next batch goes: the spawning core's queue while it holds fewer than 24 entries, else the die queue with the
fewest entries, if that has room for 8. -/
def feedTo (s : State) (g : Grid) : Option (Nat ⊕ Nat) :=
  let die := match fewest (fun d => (s.dieQueue d).length) [0, 1, 2, 3] with
    | some d => if (s.dieQueue d).length + 8 ≤ 2048 then some (Sum.inr d) else none
    | none => none
  match g.spawnCore with
  | some c => if (s.coreQueue c).length < 24 then some (.inl c) else die
  | none => die

/-- Grids that have teams left to feed and a queue to take them, in feeding order. A grid's teams wait for the host writes before its
launch (R180). -/
def feedOrder (s : State) : List (Nat × Grid) :=
  sortBy (fun (a b : Nat × Grid) => Rec.prio a.2.record > Rec.prio b.2.record ||
      (Rec.prio a.2.record == Rec.prio b.2.record && a.2.seq < b.2.seq))
    (s.ctx.grids.filter fun x => decide (x.2.next < Rec.teams x.2.record ∧ x.2.start ≤ s.now) && (s.feedTo x.2).isSome)

/-- GRID_FEED: a batch of 8 teams of the grid that is first in order. -/
def feed (s : State) (k : Nat) : State :=
  match s.feedOrder with
  | [] => s
  | (j, g) :: _ =>
    if j ≠ k then s
    else
      let n := min 8 (Rec.teams g.record - g.next)
      let es := (List.range n).map fun i => (⟨k, g.next + i, Rec.prio g.record, 0, 0, 0⟩ : QEntry)
      let s := s.setGrid k { g with next := g.next + n }
      let (s, xs) := s.stamp es
      match s.feedTo g with
      | some (.inl c) => (s.setCoreQueue c (s.coreQueue c ++ xs)).settleQueues
      | some (.inr d) => (s.setDieQueue d (s.dieQueue d ++ xs)).settleQueues
      | none => s

/-- QUEUE_AGEING: entries that have stayed 100 µs in a core queue move to the cluster's, as far as it has room (R297). -/
def age (s : State) (c : Nat) : State :=
  let q := s.coreQueue c
  let k := c / 8
  let es := (oldest q).filter fun e => e.at' + 100000 ≤ s.now
  let es := es.take (256 - (s.clusterQueue k).length)
  if es.isEmpty then s
  else
    let (s, xs) := s.stamp es
    ((s.setCoreQueue c (without q es)).setClusterQueue k (s.clusterQueue k ++ xs)).settleQueues

/-! Placement. -/

/-- The lowest run of n bytes in [lo, hi) that meets none of the runs taken; an empty run takes nothing. -/
def lowestRun (lo hi n : Nat) (runs : List (Nat × Nat)) : Option Nat :=
  let taken := runs.filter fun t => t.2 != 0
  let ok := fun c => decide (lo ≤ c ∧ c + n ≤ hi) && taken.all fun t => decide (t.1 + t.2 ≤ c ∨ c + n ≤ t.1)
  ((lo :: taken.map fun t => t.1 + t.2).filter ok).foldl (fun b c => match b with
    | some x => some (min x c)
    | none => some c) none

/-- What a team gets on a core: runs of the three regions, tiles, gang slots and a team slot. -/
structure Place where
  reg : Nat
  stash : Nat
  save : Nat
  tiles : List Nat
  gangs : List Nat
  slot : Nat
  deriving DecidableEq, Repr

/-- Teams of a core that have ended and whose engines are still at work: they keep their stash and tile ranges, under keys beyond the team
slots (R305). -/
def ghostsOn (s : State) (c : Nat) : List Team :=
  (s.ctx.teams.filter fun t => 3072 ≤ t.1 && teamCore t.1 == c && s.ctx.works.any fun w => w.2.team == t.1).map (·.2)

/-- The place of a team of a record on a core as it stands (R124, R299). -/
def placeFor (s : State) (c : Nat) (r : List Byte) : Option Place :=
  let ts := (s.teamsOn c).map s.team
  let gone := s.ghostsOn c
  let x := s.core c
  let kept := gone.map fun t => (t.stashRun, Rec.fstash (s.grid t.grid).record)
  let runs := fun (f : Team → Nat) (n : List Byte → Nat) => (ts.map fun t => (f t, n (s.grid t.grid).record)) ++ kept
  let tiles := ((List.range 32).filter fun i => (ts ++ gone).all fun t => !t.tiles.contains i).take (Rec.acct r)
  let gangs := ((List.range 64).filter fun i => !(s.gang (gangKey c i)).live).take (Rec.ngangs r)
  match lowestRun 0 x.b1 (Rec.freg r) (runs (·.regRun) Rec.freg), lowestRun x.b1 x.b2 (Rec.fstash r) (runs (·.stashRun) Rec.fstash),
      lowestRun x.b3 1572864 (Rec.fsave r) (runs (·.saveRun) Rec.fsave),
      (List.range 16).find? fun i => !(s.team (teamKey c i)).live with
  | some a, some b, some v, some k =>
    if tiles.length = Rec.acct r ∧ gangs.length = Rec.ngangs r then some ⟨a, b, v, tiles, gangs, k⟩ else none
  | _, _, _, _ => none

/-- The boundaries that the first team of an empty core sets (R124). -/
def boundsFor (s : State) (c : Nat) (r : List Byte) : State :=
  let n := Rec.fitCount r
  s.modCore c fun x => { x with b1 := n * Rec.freg r, b2 := n * Rec.freg r + n * Rec.fstash r, b3 := 1572864 - n * Rec.fsave r, cache := [] }

/-- A gang as it starts (R51, R289). -/
def startGang (r : List Byte) (team i cycle : Nat) : Gang :=
  { Gang.absent with
    live := true, team := team, gangIdx := i, lastIssue := cycle,
    s := Tbl.set (Tbl.set [] 0 (BitVec.ofNat 32 (Rec.args r))) 1 (BitVec.ofNat 32 (Rec.args r / 2 ^ 32)),
    lanes := (List.range 64).map fun l => (l, Lane.start (Rec.codeOff r % 2 ^ 32)) }

/-- A team placed whole: every gang at one instant. -/
def install (s : State) (c : Nat) (e : QEntry) (p : Place) : State :=
  let r := (s.grid e.grid).record
  let t := teamKey c p.slot
  let s := s.setTeam t { Team.absent with
    live := true, grid := e.grid, teamIdx := e.teamIdx, regRun := p.reg, stashRun := p.stash, saveRun := p.save, tiles := p.tiles,
    gangSlots := p.gangs }
  p.gangs.zipIdx.foldl (fun s (k, i) => (s.setGang (gangKey c k) (startGang r t i s.dev.cycle)).setOrder (gangKey c k) (.start s.ticks)) s

/-- The first entry in queue order that fits, and those it passes; an entry passed 16 times lets none pass (R298). -/
def chooseEntry (s : State) (c : Nat) (empty : Bool) : List QEntry → List QEntry → Option (QEntry × State × Place × List QEntry)
  | [], _ => none
  | e :: es, passed =>
    let r := (s.grid e.grid).record
    let t := if empty then s.boundsFor c r else s
    match t.placeFor c r with
    | some p => some (e, t, p, passed)
    | none => if e.bypassed ≥ 16 then none else s.chooseEntry c empty es (passed ++ [e])

/-- TEAM_PLACE: a core places the first team of its queue that fits (R298). None is placed while pre-emption is asked for (R324). -/
def placeTeam (s : State) (c : Nat) : State :=
  if s.dev.pre.req || s.ctx.halt.isSome then s
  else match s.chooseEntry c (s.teamsOn c).isEmpty (queueOrder (s.coreQueue c)) [] with
    | none => s
    | some (e, t, p, passed) =>
      let q := (without (s.coreQueue c) [e]).map fun x => if passed.contains x then { x with bypassed := x.bypassed + 1 } else x
      ((t.setCoreQueue c q).install c e p).settleQueues

/-! The end of a team (R305). -/

/-- What a team that ends leaves to its engines still at work, and to accesses of it still in flight: its record under a key of its own,
which they name from then on (R305). -/
def leaveGhost (s : State) (t : Nat) : State :=
  if !(s.ctx.works.any fun w => w.2.team == t) && !(s.ctx.accs.any fun a => a.2.team == t) then s
  else
    let keep := s.ctx.teams.filter fun x => x.1 < 3072 || (s.ctx.works.any fun w => w.2.team == x.1) || s.ctx.accs.any fun a => a.2.team == x.1
    match (List.range (keep.length + 1)).find? fun i => !Tbl.mem keep (t + 3072 * (i + 1)) with
    | none => s
    | some i =>
      let k := t + 3072 * (i + 1)
      let key := fun (x : Nat) => if x = t then k else x
      let s := s.setCtx fun c => { c with
        teams := Tbl.set keep k { s.team t with live := false },
        accs := c.accs.map fun a => (a.1, { a.2 with team := key a.2.team }),
        works := c.works.map fun w => (w.1, { w.2 with team := key w.2.team, job := w.2.job.mapTeams key }) }
      s.modCore (teamCore t) fun c => { c with
        slots := c.slots.map fun x => (x.1, { x.2 with owner := key x.2.owner, reserved := x.2.reserved.map key }) }

/-- TEAM_END: its last gang has exited and its write-backs have reached their WCTs. Its engines may be at work still. (DEDUCED, assumption 47) -/
def endTeam (s : State) (t : Nat) : State :=
  let x := s.team t
  let busy := s.ctx.accs.any fun a => a.2.team == t && (a.2.kind == .writeBack || a.2.kind == .lds || a.2.kind == .sts || a.2.kind == .atoms)
  if !x.live || !x.exited || s.now < x.wct || busy then s
  else
    let s := s.freeSlots t
    let s := (s.modGrid x.grid fun g => { g with unended := g.unended - 1 }).leaveGhost t
    s.setCtx fun c => { c with teams := Tbl.erase c.teams t }

end State

def execGridFeed (grid : Nat) (s : State) : Host.Outcome State Fault Refusal := .next (s.feed grid)
def execQueueAgeing (core : Nat) (s : State) : Host.Outcome State Fault Refusal := .next (s.age core)
def execTeamPlace (core : Nat) (s : State) : Host.Outcome State Fault Refusal := .next (s.placeTeam core)
def execTeamEnd (core team : Nat) (s : State) : Host.Outcome State Fault Refusal := .next (s.endTeam (teamKey core team))

end Sys2Proof.Machine
end

