-- ==== Sys2Proof/Machine/Health.lean ====
section
/-! DEFINITION. The health of the device: DRAM channels (R88 to R94), the time unit (R162, R163), counters and sampling (R342 to R345),
telemetry, sensors and power (R346 to R348). -/

namespace Sys2Proof.Machine

open Sys2Proof State

namespace State

/-! Channels. -/

def modChannel (s : State) (c : Nat) (f : Channel → Channel) : State :=
  s.setDev fun d => { d with channels := Tbl.set d.channels c (f (d.channel c)) }

/-- The REFDEBT record (R89). -/
def refDebt (s : State) (c : Nat) : Nat :=
  let x := s.dev.channel c
  wrap 5 x.debt + x.peak % 16 * 2 ^ 8 + x.forced % 2 ^ 16 * 2 ^ 16

/-- A memory record of the telemetry ring: what happened, the channel, a number, and the channel's REFDEBT (R89, R346). The payload's layout
is the model's (DESIGN CHOICE, assumption 52). -/
def memoryRecord (s : State) (what channel n : Nat) : State :=
  s.telemetry 5 (toBytes 4 what ++ toBytes 4 channel ++ toBytes 8 n ++ toBytes 4 (s.refDebt channel))

/-- The row of a 64-byte sector of a channel and the bank of a row: the manual gives neither (DESIGN CHOICE, assumption 51). -/
def rowOf (sector : Nat) : Nat := sector / 16
def bankOf (row : Nat) : Nat := row / 2 ^ 15

/-- A channel goes into CHANNEL_LOST: the context halts (R94, R319). With no context resident none does, nor one that becomes resident
later (DESIGN CHOICE, assumption 96). -/
def loseChannel (s : State) (c : Nat) : State :=
  let s := s.modChannel c fun x => { x with lost := true }
  if s.dev.pre.resident then s.escalate none ⟨cLOST, 0, 0, 0, 0, 0, 0⟩ false else s

/-- Where a channel's sectors lie; 256 stands for the far port and 257 for the host port, which deliver poison of their own (R95, R96). -/
def channelBase (c : Nat) : Nat := if c < 256 then c * 2 ^ 31 else if c = 256 then farBase else hostBase

/-- A sector with an uncorrectable error is marked in memory (R90, R95, R96); a copy of it in L2 is not touched (R121). -/
def markSector (s : State) (c sector : Nat) : State := s.setDev fun d => d.setPoison (channelBase c / 64 + sector) true

/-- A row with four corrected errors moves to a spare row of its bank, where one is left (R92). -/
def remapRow (s : State) (c row : Nat) : State :=
  let x := s.dev.channel c
  let used := Tbl.get 0 x.sparesUsed (bankOf row)
  if Tbl.get 0 x.rowErrs row < 4 then s
  else if used < 16 then
    (s.modChannel c fun x => { x with
      remaps := Tbl.set x.remaps row used, sparesUsed := Tbl.set x.sparesUsed (bankOf row) (used + 1),
      rowErrs := Tbl.erase x.rowErrs row }).memoryRecord 1 c row
  else s.memoryRecord 2 c row

/-- An uncorrectable soft error in a core's pool, accumulator memory or staging: the sector stays bad, and the context halts (R319, R330).
(DESIGN CHOICE, assumption 10) -/
def softError (s : State) (core sector : Nat) : State :=
  if s.dev.pre.resident then
    (s.modCore core fun c => { c with bad := if c.bad.contains sector then c.bad else c.bad ++ [sector] }).escalate none
      ⟨Config.haltCause % 128, 0, 0, 0, 0, 0, 0⟩ false
  else s

/-- One ECC result (R90, R93). The far and host ports report poison only; 512 and above stand for the memories of the cores, by the places of R325. -/
def eccResult (s : State) (c sector : Nat) (r : EccResult) : State :=
  match r with
  | .clean => s
  | .corrected => if 256 ≤ c then s else
    let row := rowOf sector
    let s := s.modChannel c fun x => { x with rowErrs := Tbl.set x.rowErrs row (Tbl.get 0 x.rowErrs row + 1) }
    (s.memoryRecord 0 c sector).remapRow c row
  | .uncorrectable => if 512 ≤ c then s.softError (c - 512) sector else s.markSector c sector
  | .lost => if 256 ≤ c then s else s.loseChannel c

/-- SCRUB_ROW: what the scrub of a row found; the row's count starts anew (R92). -/
def scrub (s : State) (c row : Nat) (found : List (Nat × EccResult)) : State :=
  (found.foldl (fun s f => s.eccResult c f.1 f.2) s).modChannel c fun x => { x with rowErrs := Tbl.erase x.rowErrs row }

/-- REFRESH_TICK: the debt grows by 1 at each tREFI (R88). -/
def refreshTick (s : State) (c : Nat) : State :=
  let x := s.dev.channel c
  if s.now < x.nextTick || x.debt ≥ 8 then s
  else s.modChannel c fun x => { x with
    debt := x.debt + 1, peak := max x.peak (x.debt + 1).toNat, nextTick := x.nextTick + (if x.hot then 1950 else 3900) }

/-- REFRESH_ISSUE: one refresh; at D = 8 it is forced, and telemetry tells it (R88, R89). -/
def refreshIssue (s : State) (c : Nat) : State :=
  let x := s.dev.channel c
  if x.debt ≤ -8 then s
  else
    let t := s.modChannel c fun x => { x with
      debt := x.debt - 1, forced := if x.debt = 8 then min (x.forced + 1) 0xFFFF else x.forced }
    if x.debt = 8 then t.memoryRecord 4 c 0 else t

/-! The time unit. -/

def setTime (s : State) (f : TimeUnit → TimeUnit) : State := s.setDev fun d => { d with time := f d.time }

/-- Entry into TIMEFREE or exit from it, with the offset measured (R163). -/
def timeRecord (s : State) (enter : Bool) : State :=
  (s.telemetry 4 (toBytes 8 (boolNat enter) ++ toBytes 8 (wrap 64 s.dev.time.offset))).msix 6

/-- Every copy of a line homed on another device is dropped (R163). -/
def dropRemote (s : State) : State :=
  s.setCtx fun x => { x with cores := x.cores.map fun c => (c.1, { c.2 with cache := c.2.cache.filter fun l => l.1 < 2 ^ 90 }) }

def enterTimefree (s : State) : State :=
  if s.dev.time.free then s else ((s.setTime fun t => { t with free := true, goodSince := none }).dropRemote).timeRecord true

/-- A synchronisation message: the offset it measures, in nanoseconds. -/
def ptpMessage (s : State) (offset : Int) : State :=
  let good := decide (-30 ≤ offset ∧ offset ≤ 30)
  let s := s.setTime fun t => { t with
    lastSync := s.now, offset := offset, goodSince := if good then some (t.goodSince.getD s.now) else none }
  if good then s else s.enterTimefree

/-- No message for 1 ms. -/
def timefreeLate (s : State) : State := if s.now ≥ s.dev.time.lastSync + 1000000 then s.enterTimefree else s

/-- 10 ms within 30 ns of the grandmaster. -/
def timefreeExit (s : State) : State :=
  match s.dev.time.goodSince with
  | some t => if s.dev.time.free && s.now ≥ t + 10000000 then (s.setTime fun t => { t with free := false }).timeRecord false else s
  | none => s

/-- DTIME_LOAD: only while no context is resident (R162). (DEDUCED, assumption 11) -/
def dtimeLoad (s : State) (v : Nat) : State :=
  if s.dev.pre.resident then s else s.setDev fun d => { d with dtime := v, time := { d.time with lastSync := v, goodSince := none } }

/-! Counters and sampling. -/

/-- The largest ageing count of a gang's groups of running lanes (R273). -/
def gangAge (g : Gang) : Nat := g.lanes.foldl (fun a l => if l.2.cond == .running then max a l.2.age else a) 0

/-- The gang of a core that classifies a slot in which nothing issues (R343): of those with a running lane, the one with the largest ageing
count (R273); of several, the one that has not issued for longest. (DESIGN CHOICE, assumption 52) -/
def classifier (s : State) (core : Nat) : Option Nat :=
  let gs := ((List.range 64).map (gangKey core ·)).filter fun k =>
    (s.gang k).live && (s.gang k).lanes.any fun l => l.2.cond == .running
  let before := fun (a b : Nat) => decide (gangAge (s.gang b) < gangAge (s.gang a)) ||
    (gangAge (s.gang a) == gangAge (s.gang b) && decide ((s.gang a).lastIssue < (s.gang b).lastIssue))
  match gs with
  | [] => none
  | k :: ks => some ((ks.foldl (fun b j => if before j b then j else b) k) % 64)

/-- The reason for which a gang did not issue in the last cycle, as a code of R342. -/
def whyNot (s : State) (core slot : Nat) : Nat := Tbl.get 0x09 (s.coreDev core).why slot

/-- The reason of the group of a running lane (R343, R345). -/
def whyLane (s : State) (core slot lane : Nat) : Nat := Tbl.get 0x09 (s.coreDev core).why (64 + 64 * slot + lane)

/-- The record of one sample (R345) and its gang slot. -/
def sampleRecord (s : State) (core : Nat) (now : Option Issue) : List Byte × Nat :=
  let slot := match now with
    | some i => i.slot
    | none => (s.classifier core).getD 0
  let k := gangKey core slot
  let g := s.gang k
  let inside := fun (l : Nat) => match now with
    | some i => i.lanes.getLsbD l
    | none => false
  let blocked := (List.range 64).find? fun l => (g.lane l).cond == .running && !inside l
  let (pc, first, count) : Nat × Nat × Nat := match now with
    | some i => (i.pc, (laneList i.lanes).headD 0, (laneList i.lanes).length)
    | none => (0, 0, 0)
  let why := match blocked with
    | some l => s.whyLane core slot l
    | none => 0
  (toBytes 8 (s.now % 2 ^ 64) ++
   toBytes 4 (core + slot * 2 ^ 8 + boolNat now.isSome * 2 ^ 14 + boolNat blocked.isSome * 2 ^ 15 + s.gridIdOf k * 2 ^ 16) ++
   toBytes 4 pc ++ toBytes 4 (first + count * 2 ^ 8 + blocked.getD 0 * 2 ^ 16 + why * 2 ^ 24) ++
   toBytes 4 ((blocked.map fun l => (g.lane l).pc).getD 0) ++ toBytes 8 0, slot)

/-- An interval of a core's sampler has ended with a core cycle that is over. -/
def sampleDue (s : State) (c : CoreDev) : Bool := bit c.sampleCtl 0 && decide (c.sampleAt < s.dev.cycle)

/-- SAMPLE_INTERVAL: the interval's last cycle is over, its record goes to the ring, and the LFSR steps for the next. -/
def sample (s : State) (core : Nat) : State :=
  let c := s.coreDev core
  if !s.sampleDue c then s
  else
    let (bytes, slot) := s.sampleRecord core (if c.lastCycle = c.sampleAt then c.lastIssue else none)
    let l := lfsrStep c.lfsr
    let s := s.setCoreDev core { c with lfsr := l, sampleAt := c.sampleAt + sampleInterval c.sampleCtl l }
    let r := s.dev.smp
    if r.size = 0 || (r.head + 1) % r.size = r.tail % r.size then
      (s.setDev fun d => { d with smp := { r with drop := r.drop + 1 } }).msix 4
    else
      let s := s.setDev fun d => { d with
        mem := d.mem.writeBytes (hostBase + r.base + 32 * (r.head % r.size)) bytes, smp := { r with head := (r.head + 1) % r.size } }
      s.perfEvent core slot 0x18 1

/-! Sensors and power. -/

/-- A firmware trace record, only with FWTRACE open (R339, R346): what the firmware has done. What it traces and how is the model's. (DESIGN
CHOICE, assumption 52) -/
def fwTrace (s : State) (what : Nat) : State := if bit s.dev.sec.debug 2 then s.telemetry 8 (toBytes 4 what) else s

def setPower (s : State) (f : Power → Power) : State := s.setDev fun d => { d with power := f d.power }

/-- A change of the clock step is told (R346); a cap event is told with bit 32 set. -/
def setStep (s : State) (k : Nat) : State :=
  if s.dev.power.step = k then s else (s.setPower fun p => { p with step := k }).telemetry 6 (toBytes 8 k)

/-- Pre-emption is asked for, by the host or by the controller: issue stops, and lines in custody are asked home (R159, R324, R347). -/
def requestPreempt (s : State) : State :=
  if !s.dev.pre.resident || s.ctx.halt.isSome then s
  else (s.setCtx fun c => { c with custody := c.custody.map fun x => (x.1, { x.2 with ret := true }) }).setDev fun d =>
    { d with pre := { d.pre with req := true, done := false } }

/-- A trip: at the first reading, and at every later one that finds a context that is not being pre-empted (R347). -/
def trip (s : State) : State :=
  let ask := s.dev.pre.resident && !s.dev.pre.req && s.ctx.halt.isNone
  if s.dev.power.tripped && !ask then s
  else ((s.setPower fun p => { p with tripped := true, preemptAt := if ask then some s.now else p.preemptAt }).msix 7).requestPreempt

/-- SENSOR_POLL: readings in eighths of a degree, 12 of each C-die, 4 of the base and 2 of each stack (R347). (DESIGN CHOICE, assumption 52) -/
def sensors (s : State) (core base stack : List Nat) : State :=
  let all := core ++ base ++ stack
  if core.length ≠ 48 || base.length ≠ 4 || stack.length ≠ 16 then s
  else
    let s := s.setPower fun p => { p with temps := all }
    let hot := fun (c : Nat) => decide (8 * 85 < stack.getD (c / 32 * 2) 0) || decide (8 * 85 < stack.getD (c / 32 * 2 + 1) 0)
    let s := (List.range 256).foldl (fun s c =>
      if (s.dev.channel c).hot = hot c then s else s.modChannel c fun x => { x with hot := hot c }) s
    let s := if core.any (8 * 105 < ·) then (s.setPower fun p => { p with overheated := true }).setStep 5
      else if all.all (· < 8 * 100) then s.setPower fun p => { p with overheated := false }
      else s
    if all.any (8 * 115 ≤ ·) || stack.any (8 * 100 ≤ ·) then s.trip
    else if (core ++ base).all (· ≤ 8 * 95) && stack.all (· ≤ 8 * 80) then s.setPower fun p => { p with tripped := false }
    else s

/-- POWER_AVERAGE: the average of the last millisecond against the cap (R348). The lowest step that heat has set stays. -/
def powerAverage (s : State) (watts : Nat) : State :=
  let p := s.dev.power
  let up := fun (s : State) => if p.overheated then s else s.setStep (p.step - 1)
  if !p.enabled then up (s.setPower fun p => { p with belowSince := none })
  else if watts > p.cap then
    ((s.setPower fun p => { p with belowSince := none }).telemetry 6 (toBytes 8 (2 ^ 32 + watts % 2 ^ 32))).setStep (min (p.step + 1) 5)
  else if 100 * watts < 95 * p.cap then
    let t := p.belowSince.getD s.now
    if s.now ≥ t + 10000000 then up (s.setPower fun p => { p with belowSince := some s.now })
    else s.setPower fun p => { p with belowSince := some t }
  else s.setPower fun p => { p with belowSince := none }

/-- The hottest of the last readings of each C-die, of each stack and of the base, two bytes each (R346). -/
def hottest (s : State) : List Byte :=
  let top := fun (first n : Nat) => toBytes 2 ((slice' s.dev.power.temps first n).foldl max 0)
  (List.range 4).flatMap (fun k => top (12 * k) 12) ++ (List.range 8).flatMap (fun k => top (52 + 2 * k) 2) ++ top 48 4
where
  /-- Part of a list of readings. -/
  slice' (l : List Nat) (first n : Nat) : List Nat := (l.drop first).take n

/-- TELEMETRY_MONITOR, every 100 ms: the hottest sensors, then the rail voltages and the process-monitor counts as they are read (R346).
(DESIGN CHOICE, assumption 52) -/
def monitor (s : State) (payload : List Byte) : State :=
  if s.now < s.dev.power.nextMonitor then s
  else (s.setPower fun p => { p with nextMonitor := p.nextMonitor + 100000000 }).telemetry 3 (s.hottest ++ payload)

end State

def execChannelAccess (channel sector : Nat) (ecc : EccResult) (s : State) : Host.Outcome State Fault Refusal :=
  .next (s.eccResult channel sector ecc)
def execRefreshTick (channel : Nat) (s : State) : Host.Outcome State Fault Refusal := .next (s.refreshTick channel)
def execRefreshIssue (channel : Nat) (s : State) : Host.Outcome State Fault Refusal := .next (s.refreshIssue channel)
def execScrubRow (channel row : Nat) (found : List (Nat × EccResult)) (s : State) : Host.Outcome State Fault Refusal :=
  .next (if channel < 256 then s.scrub channel row found else s)
def execPtpSyncMessage (offset : Int) (s : State) : Host.Outcome State Fault Refusal := .next (s.ptpMessage offset)
def execTimefreeTimeout (s : State) : Host.Outcome State Fault Refusal := .next s.timefreeLate
def execTimefreeExit (s : State) : Host.Outcome State Fault Refusal := .next s.timefreeExit
def execDtimeLoad (value : DWord) (s : State) : Host.Outcome State Fault Refusal := .next (s.whenReady fun s => s.dtimeLoad value.toNat)
def execSensorPoll (core base stack : List Nat) (s : State) : Host.Outcome State Fault Refusal := .next (s.sensors core base stack)
def execPowerAverage (watts : Nat) (s : State) : Host.Outcome State Fault Refusal := .next (s.powerAverage watts)
def execTelemetryMonitor (payload : List Byte) (s : State) : Host.Outcome State Fault Refusal := .next (s.monitor payload)
def execSampleInterval (core : Nat) (s : State) : Host.Outcome State Fault Refusal := .next (s.sample core)

end Sys2Proof.Machine
end

