-- ==== Sys2Proof/Machine/Trigger.lean ====
section
/-! DEFINITION. Trigger entries (R267 to R270): TRIGSET, TRIGCLR, the firing of an entry and its re-arming. -/

namespace Sys2Proof.Machine

open Sys2Proof State

/-! The image (R267). -/

namespace Img

def sigref (b : List Byte) : Nat := numAt b 0x00 8
def thresh (b : List Byte) : Nat := numAt b 0x08 8
def src (b : List Byte) : Nat := numAt b 0x10 8
def dst (b : List Byte) : Nat := numAt b 0x18 8
def len (b : List Byte) : Nat := numAt b 0x20 4
def word (b : List Byte) : Nat := numAt b 0x24 4
def action (b : List Byte) : Nat := bits (word b) 0 2
def aop (b : List Byte) : Nat := bits (word b) 2 4
def dbl (b : List Byte) : Bool := bit (word b) 6
def chunk (b : List Byte) : Nat := bits (word b) 7 2
def circ (b : List Byte) : Bool := bit (word b) 9
def circle (b : List Byte) : Nat := bits (word b) 10 6
def done (b : List Byte) : Bool := bit (word b) 16
def doneref (b : List Byte) : Nat := numAt b 0x28 8
def stride (b : List Byte) : Int := signExt (numAt b 0x30 4) 32
def inc (b : List Byte) : Nat := numAt b 0x34 4
def rearm (b : List Byte) : Nat := numAt b 0x38 2

/-- The element size of the action's bytes. -/
def elem (b : List Byte) : Nat := if action b = 1 && dbl b then 8 else 4

/-- R267: an image that breaks the table, a rule of R253 for the fields it shares with PUTRED, or DONE with CIRC. -/
def malformed (b : List Byte) : Bool :=
  action b == 3 || bits (word b) 17 15 != 0 || numAt b 0x3A 2 != 0 || numAt b 0x3C 4 != 0 ||
  len b % elem b != 0 || (action b == 2 && (dst b != 0 || len b != 0)) ||
  (action b != 1 && (aop b != 0 || circ b)) || (!done b && doneref b != 0) || (done b && circ b) ||
  (action b == 1 && ([8, 9, 14, 15].contains (aop b) || (dbl b && decide (10 ≤ aop b ∧ aop b ≤ 13)))) ||
  (circ b && chunk b != 0) || (!circ b && circle b != 0)

/-- The operation of a PUTRED image. -/
def redOp (b : List Byte) : Aop := (Aop.ofCode (aop b)).getD .add

end Img

/-- TRIGCLR's state word (R268). -/
def Trigger.word (t : Trigger) : Nat :=
  min t.fires 65535 + t.cause % 128 * 2 ^ 16 +
  (match t.state with | .idle => 0 | .armed => 1 | .spent => 2 | .faulted => 3) * 2 ^ 24

namespace State

/-- The watched word, read at its point. -/
def readSignal (s : State) (ref : Nat) : Port (Nat × Nat) :=
  let h := ref / 2 ^ 52
  let off := ref % 2 ^ 52
  (s.place (s.entry h) h off 8).bind fun p => match s.readPieces h [p] off true with
    | .ok (_, some o) => .fail (errAt cPOISON h o)
    | .ok (bs, none) => .ok (p.loc, ofBytes bs)
    | .error e => .fail e

/-- The latest WCT that a write so far performed in a line may have (R120). -/
def lineWct (s : State) (loc : Nat) : Nat :=
  let x := Tbl.get L2Line.fresh s.dev.l2 (loc / 128)
  max x.lexp s.now + (if x.xdev then 40 else 2)

/-- An armed entry evaluates its signal as it stands, once its page is there (R269). -/
def evalEntry (s : State) (k : Nat) : State :=
  let t := s.trigger k
  if t.state != .armed then s
  else match s.readSignal (Img.sigref t.image) with
    | .ok (loc, v) => s.setTrigger k { t with look := false, due := if v ≥ Img.thresh t.image then some (s.lineWct loc) else t.due }
    | .miss p b => (s.postMiss p b false t.gridId).setTrigger k { t with look := true }
    | _ => s.setTrigger k { t with look := false }

/-- The action's data: a transfer or a circle record of the requester, or the failure of its checks (R254, R269). -/
def triggerJob (s : State) (t : Trigger) : Except Err (Nat × Job) :=
  let b := t.image
  let side := fun (r : Nat) => (⟨false, r / 2 ^ 52, r % 2 ^ 52⟩ : Side)
  let src := side (Img.src b)
  let dst := side (Img.dst b)
  let n := Img.len b
  let red := Img.action b == 1
  let sp := if Img.done b then some (Img.doneref b / 2 ^ 52, Img.doneref b % 2 ^ 52) else none
  let c := chunkBytes (Img.chunk b)
  let bad := (((s.srcCheck t.gridId 0 src n false).or
      (if red then s.redCheck t.gridId dst n (Img.elem b) (Img.redOp b) (Img.circ b) else s.dstCheck t.gridId 0 dst n false)).or
      (countCheck n (Img.elem b) (Img.circ b))).or (sp.bind fun x => s.signalCheck t.gridId x.1 x.2)
  match bad with
  | some e => .error e
  | none =>
    if Img.circ b then
      let r : CircleRec := ⟨BitVec.ofNat 64 (Img.dst b), [], some (Img.redOp b, Img.dbl b), 0, s.dev.host.devnum, 0⟩
      .ok (0x062, .circle r (Img.circle b) src n false none)
    else .ok (if red then 0x062 else 0x060, .xfer (if red then .red (Img.redOp b) (Img.dbl b) else .put) src dst n c sp (chunkList n c) [])

/-- The action starts as engine work without a gang, in the requester's name. (DEDUCED, assumption 42) -/
def startAction (s : State) (k : Nat) (t : Trigger) (op10 : Nat) (job : Job) : State :=
  let nobody := 2 ^ 40
  let id := s.ctx.nextId
  let s := s.addWork { job := job, op10 := op10, gang := nobody, core := 0xFF, team := nobody,
                       grid := if (s.grid t.grid).seq = t.gridSeq then t.grid else nobody, gridId := t.gridId, tok := 0, cause := 0,
                       faultAt := 0, stores := [], errs := [], stall := none, sent := none, fin := none, due := none,
                       trigger := some (k, t.stamp, t.gridSeq), orphan := true, info := 0, parts := [], since := s.now, born := s.ticks,
                       begun := [], failed := none }
  match job with
  | .circle _ c .. => if (s.circle c).state == .active then s else s.finishWork id cBROKEN 0 0
  | .xfer _ _ _ n .. => if n = 0 then s.finishWork id 0 0 0 else s
  | _ => s

/-- What follows a fire (R269): counted; then spent, or re-armed with its offsets moved and evaluated again. -/
def rearm (s : State) (k : Nat) : State :=
  let t := s.trigger k
  let t := { t with fires := min (t.fires + 1) 65535, due := none }
  let b := t.image
  let s := s.setTrigger k t
  if t.state != .armed then s
  else if Img.rearm b = 0 then s.setTrigger k { t with state := .spent }
  else
    let move := fun (r : Nat) => ((r % 2 ^ 52 : Nat) : Int) + Img.stride b
    let out := fun (x : Int) => decide (x < 0 ∨ x ≥ ((2 ^ 52 : Nat) : Int))
    if out (move (Img.src b)) then s.faultTrigger k cBOUNDS (Img.src b)
    else if out (move (Img.dst b)) then s.faultTrigger k cBOUNDS (Img.dst b)
    else
      let at' := fun (r : Nat) => r / 2 ^ 52 * 2 ^ 52 + (move r).toNat
      let b := patch b 0x08 (toBytes 8 ((Img.thresh b + Img.inc b) % 2 ^ 64))
      let b := patch b 0x10 (toBytes 8 (at' (Img.src t.image)))
      let b := patch b 0x18 (toBytes 8 (at' (Img.dst t.image)))
      let b := if Img.rearm b = 0xFFFF then b else patch b 0x38 (toBytes 2 (Img.rearm b - 1))
      (s.setTrigger k { t with image := b }).evalEntry k

/-- A fired action that fails its checks: the fire counts, and the entry is FAULTED. (DEDUCED, assumption 42) -/
def fireFailed (s : State) (k : Nat) (e : Err) : State :=
  (s.setTrigger k { s.trigger k with fires := min ((s.trigger k).fires + 1) 65535 }).faultTrigger k e.cause e.addr

/-- A DISPATCH: the record at SRC is taken as a host launch record; it waits while its place is full. (DEDUCED, assumption 42) -/
def dispatch (s : State) (k : Nat) (t : Trigger) : State :=
  let h := Img.src t.image / 2 ^ 52
  let off := Img.src t.image % 2 ^ 52
  match { s with eng := some (triggerAsk k) }.rawRead t.gridId h off 64 ⟨rR, 8, false, false⟩ with
  | (_, .miss p b) => s.postMiss p b false t.gridId
  | (_, .away w) => s.askRemote (triggerAsk k) w
  | (_, .fail e) => s.fireFailed k e
  | (_, .ok r) =>
    match s.recordCheck t.gridId r true with
    | some e => s.fireFailed k e
    | none => match s.enterRecord r none t.gridId with
      | some t => (t.setCtx fun c => { c with replies := Tbl.erase c.replies (triggerAsk k) }).rearm k
      | none => s

/-- TRIGGER_FIRE: the action of a due entry starts once device time has reached the WCT; of entries that one write made due, the
lowest first (R269). (DEDUCED, assumption 42) -/
def fire (s : State) (k : Nat) : State :=
  let t := s.trigger k
  let lower := s.ctx.triggers.any fun x => decide (x.1 < k) && x.2.state == .armed && x.2.due == t.due
  match t.due with
  | none => if t.look then s.evalEntry k else s
  | some d =>
    if t.state != .armed || s.now < d || lower then s
    else if Img.action t.image = 2 then s.dispatch k t
    else match s.triggerJob t with
      | .error e => s.fireFailed k e
      | .ok (op10, job) => (s.startAction k t op10 job).rearm k

end State

/-! Instructions. -/

/-- TRIGSET once its image is read: the rest of its checks, and the entry armed (R268). -/
def At.armTrigger (a : At) (s : State) (k : Nat) (img : List Byte) : Res :=
  if Img.malformed img then .trap s a.set cTRIGGER 0 0
  else
    let ref := Img.sigref img
    let h : Nat := ref / 2 ^ 52
    let off : Nat := ref % 2 ^ 52
    match s.check (s.gridIdOf a.gang) h off 8 ⟨rR, 8, false, false⟩ with
    | .error c => .trap s a.set c (bref h off) 0
    | .ok e =>
      if e.kind ≠ 1 then .trap s a.set cHANDLE (bref h off) 0
      else a.reading s (fun s => (s, s.readSignal ref)) fun s v =>
        let gk := s.gridOf a.gang
        let t : Trigger :=
          { image := img, state := .armed, fires := 0, cause := 0, gridId := s.gridIdOf a.gang, grid := gk, gridSeq := (s.grid gk).seq,
            stamp := s.ticks, due := if v.2 ≥ Img.thresh img then some (s.lineWct v.1) else none, look := false }
        .done ((a.step s).setTrigger k t)

def execTrigset (u : UGuard) (sa sb sc : SReg) (s : State) : Host.Outcome State Fault Refusal :=
  issue (.trigset u sa sb sc)
    (fun a s =>
      let g := s.gang a.gang
      let h := (g.sreg sa).toNat
      let off := (g.sreg sb).toNat
      let k := (g.sreg sc).toNat
      match s.check (s.gridIdOf a.gang) h off 64 ⟨rR, 64, false, false⟩ with
      | .error c => .trap s a.set c (bref h off) 0
      | .ok _ =>
        if k ≥ 1024 then .trap s a.set cBOUNDS 0 0
        else if s.passesOwn a h off 64 then .stall
        else a.reading s (fun s => s.memRead (s.gridIdOf a.gang) h off 64 ⟨rR, 64, false, false⟩) fun s img => a.armTrigger s k img) s

def execTrigclr (u : UGuard) (sd sa : SReg) (peek : Bool) (s : State) : Host.Outcome State Fault Refusal :=
  issue (.trigclr u sd sa peek)
    (fun a s =>
      let k := ((s.gang a.gang).sreg sa).toNat
      if k ≥ 1024 then .trap s a.set cBOUNDS 0 0
      else
        let t := s.trigger k
        let s' := (a.step s).modGang a.gang fun g => g.setS sd (BitVec.ofNat 32 t.word)
        .done (if peek then s' else s'.setTrigger k { t with state := .idle, due := none, look := false })) s

def execTriggerFire (entry : Fin 1024) (s : State) : Host.Outcome State Fault Refusal := .next (s.fire entry)

end Sys2Proof.Machine
end

