-- ==== Sys2Proof/Machine/Fabric.lean ====
section
/-! DEFINITION. What arrives from other devices (R249 to R252, R262, R265), and ports that fail or are late (R97, R252). -/

namespace Sys2Proof.Machine

open Sys2Proof State

/-- Whether an access returns a value to registers. -/
def Access.returns (x : Access) : Bool :=
  match x.kind with
  | .load | .sld | .atom | .prefetch => true
  | _ => false

/-- A lane of an access has been answered; the access waits on while other lanes of its message have not (R144). -/
def Access.laneIn (x : Access) (q : Req) : Access :=
  let out := x.out.filter (· != q.lane)
  { x with out := out, sent := if out.isEmpty then none else x.sent, stall := Tbl.erase x.stall q.lane }

namespace State

/-! Completion of requests put to another device or to a port. -/

/-- One lane of an access is answered with a value. -/
def laneData (s : State) (id : Nat) (x : Access) (q : Req) (v wct : Nat) : State :=
  let x := x.laneIn q
  let rest := { x with reqs := if x.kind == .sld then [] else x.reqs.filter fun r => r.lane != q.lane }
  let s := if x.kind == .atom then
      s.noteStore x.gang x.grid x.gridId x.core x.orphan (setKey pLSU (s.accClass x)) ⟨wct, none, false, id⟩
    else s
  (s.deliver id x q v).finishLoad id rest

/-- One lane of a write is answered. -/
def laneWritten (s : State) (id : Nat) (x : Access) (q : Req) (w : StoreSet) : State :=
  let rest := { (noted w x).laneIn q with reqs := x.reqs.filter fun r => r.lane != q.lane }
  let s := s.noteAccess id x w
  let s := if rest.reqs.isEmpty then s.setCtx fun c => { c with redHold := c.redHold.filter (· != id) } else s
  s.keepAccess id rest

/-- One lane of an access fails: no register is written, or the error goes to the write's response (R97). A prefetch just ends (R147). -/
def laneFailed (s : State) (id : Nat) (x : Access) (q : Req) (e : Err) : State :=
  if x.returns then
    let rest : List Req := if x.kind == AccKind.sld then x.reqs else x.reqs.filter fun r => r.lane != q.lane
    s.finishLoad id { x.laneIn q with reqs := rest, faults := if x.kind == .prefetch then x.faults else x.faults ++ [(q.lane, e)] }
  else s.laneWritten id x q ⟨0, some e, false, 0⟩

/-- The first request of an access or engine that waits for an answer is answered. -/
def fillReply (s : State) (key : Nat) (bs : List Byte) (cause info wct : Nat) (bad : Option Nat) : State :=
  let rec fill : List Reply → List Reply
    | [] => []
    | r :: rs => if r.done then r :: fill rs else { r with done := true, bytes := bs, cause := cause, info := info, wct := wct, bad := bad.getD r.off } :: rs
  let s := s.setCtx fun c => { c with replies := Tbl.set c.replies key (fill (Tbl.get [] c.replies key)) }
  if key < 2 ^ 64 then s else s.releaseRemote

/-- Lines that another device has granted join a core's cache under its leases, except in TIMEFREE (R120, R163). -/
def keepRemote (s : State) (core data : Nat) (leases : List LeasedLine) : State :=
  if s.dev.time.free then s
  else leases.foldl (fun s l =>
    s.modCore core fun c => c.keepCopy (s.pickFor 4 l.line 8) (remoteLine data (128 * l.line)) ⟨l.expiry, l.bytes, l.poison⟩) s

/-- What an answered request does to the core's copies of the owner's lines: a read without a lease brings them up to date (R166); what a
store or atomic has stored goes in, and the copies keep their leases (R122), but under an effective policy of 1 or 2 a store drops them (R140). -/
def answered (s : State) (x : Access) (q : Req) (attr : Nat) (bs : List Byte) : State :=
  let data := (s.entryOf x).data
  let n := x.wd.bytes
  match x.kind with
  | .load | .sld => s.remoteStored x.core data q.off n (some bs)
  | .store | .sst => s.remoteStored x.core data q.off n (if max (Policy.rank x.pol) attr = 0 then some (toBytes n q.data) else none)
  | .atom => s.remoteStored x.core data q.off n (some (toBytes n (aopApply x.aop n (ofBytes bs) q.data q.expect)))
  | .red | .signal => s.remoteStored x.core data q.off n (if bs.length = n then some bs else none)
  | _ => s

/-- Answers to what an issuing instruction, a fetch, an engine or a port has asked. Leased lines that a fetch of code has asked for stay with its
core (R122). -/
def engineReply (s : State) (key : Nat) (r : RemoteReply) : State :=
  match r with
  | .data bs wct ls =>
    let ask := (Tbl.get [] s.ctx.replies key).find? fun y => !y.done
    let s := match ask with
      | some y => if 2 ^ 65 ≤ key && key < 2 ^ 66 then s.keepRemote (key % 2 ^ 64 / 64) (y.dev + y.buf * 2 ^ 16) ls else s
      | none => s
    s.fillReply key bs 0 0 wct none
  | .written .. => s
  | .failed c d o => s.fillReply key [] c.toNat d.toNat 0 (some o)

/-- A reply to one of this device's requests (R251). The port adds 38 ns to a WCT (R167); a fault found on the owner is marked remote, and names the
first byte of the part that failed there (R81). (DEDUCED, assumption 49) -/
def remoteReply (s : State) (id : Nat) (r : RemoteReply) : State :=
  let key := id / 2 ^ 32
  let lane := id % 2 ^ 32
  if lane = engineLane then s.engineReply key r
  else match s.access? key with
    | none => s
    | some x => match (if x.sent.isSome then x.reqs.find? fun q => q.lane == lane && x.out.contains lane else none) with
      | none => s
      | some q => match r with
        | .data bs wct ls =>
          if x.returns then ((s.answered x q 0 bs).keepRemote x.core (s.entryOf x).data ls).laneData key x q (ofBytes bs) (if x.kind == .atom then wct + 38 else 0)
          else s
        | .written wct attr bs => if x.returns then s else (s.answered x q attr bs).laneWritten key x q ⟨wct + 38, none, false, 0⟩
        | .failed c d o =>
          let at' := if q.off ≤ o && o < q.off + x.wd.bytes then o else q.off
          s.laneFailed key x q { errAt c.toNat x.handle at' with info := iREMOTE ||| d.toNat }

/-- FABRIC_TIMEOUT: a request that has outlasted the fabric timeout (R252). -/
def fabricLate (s : State) (id : Nat) : State :=
  let key := id / 2 ^ 32
  let lane := id % 2 ^ 32
  let late := fun (t : Nat) => decide (t + s.dev.host.fabricTimeout ≤ s.now)
  if lane = engineLane then
    match (Tbl.get [] s.ctx.replies key).find? fun r => !r.done with
    | some r => if late r.sent then s.fillReply key [] cTIMEOUT 0 0 none else s
    | none => s
  else match s.access? key with
    | none => s
    | some x => match x.sent, x.reqs.find? (fun q => q.lane == lane && x.out.contains lane) with
      | some t, some q => if late t then s.laneFailed key x q (errAt cTIMEOUT x.handle q.off) else s
      | _, _ => s

/-! Requests of other devices (R251). -/

/-- The owner's checks of a range: R84, with kinds other than 1 and 3 refused. (DEDUCED, assumption 37) -/
def ownerCheck (s : State) (buf off n : Nat) (q : Need) : Except Nat Entry :=
  let e := s.entry (buf % 4096)
  if e.kind ≠ 1 && e.kind ≠ 3 then .error cHANDLE else s.check anyGrid buf off n q

/-- The owner's checks of one lane's access, part by part (R81). -/
def ownerParts (s : State) (buf off n : Nat) (q : Need) : Port (Entry × List Piece) :=
  let e := s.entry (buf % 4096)
  if e.kind ≠ 1 && e.kind ≠ 3 then .fail (errAt cHANDLE buf off) else s.checkParts anyGrid buf off n q

/-- A request that must wait stays at the port. -/
def requeue (s : State) (m : FabricMsg) : State := { s with inputs := s.inputs ++ [.remoteRequest m] }

/-- The lines of a plain range are granted to another device, except in TIMEFREE and where a page forbids it (R120, R140, R163): each with its
expiry and marks, as the answer carries them. -/
def grantLines (s : State) (e : Entry) (buf off n : Nat) : State × List Byte :=
  if s.dev.time.free || e.kind ≠ 1 || e.millrd ≠ noGraph then (s, [])
  else match s.rangePieces e buf off n with
    | .ok ps => ps.foldl (fun (sb : State × List Byte) p => if p.attr ≠ 0 then sb else (lineCuts (p.n / 128 + 2) p.loc p.n).foldl (fun (sb : State × List Byte) c =>
        let s := sb.1
        let line := c.1 / 128
        let (d, x) := s.dev.grant (s.pickFor 15 line 16) line true
        ({ s with dev := d }, sb.2 ++ toBytes 8 x ++ d.mem.readBytes (128 * line) 128 ++
          [BitVec.ofNat 8 (boolNat (d.poisoned (2 * line)) + 2 * boolNat (d.poisoned (2 * line + 1)))])) sb) (s, [])
    | _ => (s, [])

/-- A request waits for a page, for a line in custody (R154), for a beat before it, or for what a Mill of this device must first read on another:
that is asked for under a key of its own. -/
def mustWait {α : Type} (s : State) (m : FabricMsg) (key : Nat) (wr : Bool) : Port α → State
  | .miss p b => (s.postMiss p b wr 0xFFFF).requeue m
  | .away w => (s.askRemote key w).requeue m
  | _ => s

/-- The request in hand is done: what it has asked of other devices is used up. -/
def portEnd (s : State) (key : Nat) (eng : Option Nat) : State :=
  { s with eng := eng }.setCtx fun c => { c with replies := Tbl.erase c.replies key }

def remoteRead' (s : State) (m : FabricMsg) (dev buf off n : Nat) (lease : Bool) : State :=
  let key := portAsk dev buf off
  match s.ownerCheck buf off n ⟨rR, 1, false, false⟩ with
  | .error c => s.refuse dev buf off (errAt c buf off)
  | .ok e => match { s with eng := some key }.memRead anyGrid buf off n ⟨rR, 1, false, false⟩ with
    | (t, .ok bs) =>
      let (t, ls) := if lease then (t.portEnd key s.eng).grantLines e buf off n else (t.portEnd key s.eng, [])
      t.answer dev 40 buf off n (bs ++ ls)
    | (t, .fail x) => (t.portEnd key s.eng).refuse dev buf off x
    | (_, y) => s.mustWait m key false y

/-- A write to a Mill write graph enters it as beats, and is answered when they are all done (R105, R109, R251). -/
def remoteBeats (s : State) (m : FabricMsg) (dev buf off : Nat) (ws : List (Nat × List Byte)) (need : Need) : State :=
  match memWriteAll anyGrid buf ws need s with
  | (_, .ok _) => s.addAccess { s.queuedWrite buf (beatReqs ws) none with reply := some (dev, .none) }
  | (t, .fail x) => t.refuse dev buf off x
  | (_, y) => s.mustWait m (portAsk dev buf off) true y

def remoteWrite' (s : State) (m : FabricMsg) (dev buf off : Nat) (bs : List Byte) : State :=
  let key := portAsk dev buf off
  match s.ownerCheck buf off bs.length ⟨rW, 1, false, false⟩ with
  | .error c => s.refuse dev buf off (errAt c buf off)
  | .ok _ =>
    if s.milled buf true then s.remoteBeats m dev buf off [(off, bs)] ⟨rW, 1, false, false⟩
    else match { s with eng := some key }.rawWrite anyGrid buf off bs ⟨rW, 1, false, false⟩ with
    | (t, .ok w) => (match w.err with
      | some x => (t.portEnd key s.eng).refuse dev buf off x
      | none => (t.portEnd key s.eng).answer dev 41 buf off w.wct [])
    | (t, .fail x) => (t.portEnd key s.eng).refuse dev buf off x
    | (_, y) => s.mustWait m key true y

/-- One atomic of another device at its point here (R151, R152): the old value and the set of the write. -/
def atomicHere (s : State) (buf off : Nat) (wd : Width) (aop : Aop) (f : Nat → Nat) : State × Port (Nat × StoreSet) :=
  let n := wd.bytes
  match s.ownerParts buf off n ⟨rR ||| rW ||| rATOM, n, true, false⟩ with
  | .fail x => (s, .fail x)
  | .miss p b => (s, .miss p b)
  | .away w => (s, .away w)
  | .ok (e, _) => match State.atomKind e buf off aop with
    | some x => (s, .fail x)
    | none => match s.atomicAt (2 ^ 64) (bareAccess buf off wd aop) ⟨0, off, 0, 0⟩ f with
      | (t, .data bs, w) => (t, match w.err with
        | some x => .fail x
        | none => .ok (ofBytes bs, w))
      | (t, .fault x, _) => (t, .fail x)
      | (t, .miss p b, _) => (t, .miss p b)
      | (t, .away w, _) => (t, .away w)
      | (t, _, _) => (t, .away .beat)

/-- Another device's atomic or signal add (R151, R152, R257). -/
def remoteAtomic (s : State) (m : FabricMsg) (dev buf off : Nat) (wd : Width) (aop : Aop) (f : Nat → Nat) : State :=
  match s.atomicHere buf off wd aop f with
  | (t, .ok (old, w)) => t.answer dev 40 buf off w.wct (toBytes wd.bytes old)
  | (t, .fail x) => t.refuse dev buf off x
  | (t, y) => t.mustWait m (portAsk dev buf off) true y

/-! The lanes of another device's access (R144). -/

/-- What became of one lane at its home: the bytes it returns or has stored, its WCT and its page's attribute, or its fault; and the sectors it
has written. -/
structure LaneDone where
  lane : Nat
  off : Nat
  bytes : List Byte
  wct : Nat
  attr : Nat
  err : Option Err
  pieces : List Piece
  deriving DecidableEq, Repr

/-- One lane's load: through a graph whole, otherwise part by part, so that a fault names the first byte of its part (R81). -/
def laneLoad (s : State) (buf off n align : Nat) : State × Port (List Byte × List Piece) :=
  match s.ownerParts buf off n ⟨rR, align, false, false⟩ with
  | .fail x => (s, .fail x)
  | .miss p b => (s, .miss p b)
  | .away w => (s, .away w)
  | .ok (e, ps) =>
    let cuts := cutParts e 4 off n
    if e.milled false then
      match s.memRead anyGrid buf off n ⟨rR, 1, false, false⟩ with
      | (t, .fail x) => (t, .fail { x with addr := bref buf ((cuts.find? fun c => decide (x.addr % 2 ^ 52 < c.1 + c.2)).getD (off, n)).1 })
      | (t, y) => (t, y.map (·, []))
    else cuts.foldl (fun (sx : State × Port (List Byte × List Piece)) c => andThen sx fun s x =>
      let y := s.memRead anyGrid buf c.1 c.2 ⟨rR, 1, false, false⟩
      (y.1, (y.2.at' (bref buf c.1)).map fun bs => (x.1 ++ bs, x.2))) (s, .ok ([], ps))

/-- One lane's store. -/
def laneStore (s : State) (buf off align : Nat) (bs : List Byte) : State × Port (StoreSet × List Piece) :=
  match s.ownerParts buf off bs.length ⟨rW, align, false, false⟩ with
  | .fail x => (s, .fail x)
  | .miss p b => (s, .miss p b)
  | .away w => (s, .away w)
  | .ok (_, ps) => andThen (s.rawWrite anyGrid buf off bs ⟨rW, 1, false, false⟩) fun s w => (s, .ok (w, ps))

/-- One lane of an access at its home. -/
def laneHere (s : State) (buf : Nat) (op : LaneOp) (wd : Width) (a : LaneAsk) : State × Port LaneDone :=
  let n := wd.bytes
  let attr := fun (ps : List Piece) => ps.foldl (fun m p => max m p.attr) 0
  let done := fun (r : State × Port LaneDone) => match r with
    | (t, .fail x) => (t, Port.ok (⟨a.lane, a.off, [], 0, 0, some x, []⟩ : LaneDone))
    | r => r
  let new := fun (old : Nat) => match op with
    | .atomic aop => aopApply aop n old a.data.toNat a.expect.toNat
    | _ => min (old + a.data.toNat) (2 ^ 64 - 1)
  match op with
  | .load => done (andThen (s.laneLoad buf a.off n (Width.align wd)) fun s x => (s, .ok ⟨a.lane, a.off, x.1, 0, attr x.2, none, []⟩))
  | .store => done (andThen (s.laneStore buf a.off (Width.align wd) (toBytes n a.data.toNat)) fun s x =>
      (s, .ok ⟨a.lane, a.off, [], x.1.wct, attr x.2, x.1.err, x.2⟩))
  | .atomic aop => done (andThen (s.atomicHere buf a.off wd aop new) fun s x => (s, .ok ⟨a.lane, a.off, toBytes n x.1 ++ toBytes n (new x.1), x.2.wct, 0, none, []⟩))
  | .signal => done (andThen (s.atomicHere buf a.off wd .add new) fun s x => (s, .ok ⟨a.lane, a.off, toBytes n x.1 ++ toBytes n (new x.1), x.2.wct, 0, none, []⟩))

/-- The lanes one after another, in ascending order, as one sequence; none is performed where one must wait. -/
def lanesHere (buf : Nat) (op : LaneOp) (wd : Width) : List LaneAsk → State → State × Port (List LaneDone)
  | [], s => (s, .ok [])
  | a :: as, s => andThen (s.laneHere buf op wd a) fun s d => andThen (lanesHere buf op wd as s) fun s ds => (s, .ok (d :: ds))

/-- An answer to the lanes: for each its number, its offset, a cause with its detail, the byte that failed, WCT and attribute, and its bytes; then
the lines granted. -/
def laneBytes (d : LaneDone) : List Byte :=
  let e := d.err.getD ⟨0, 0, 0⟩
  toBytes 8 d.lane ++ toBytes 8 d.off ++ toBytes 8 (e.cause + e.info % 16 * 2 ^ 8) ++ toBytes 8 (e.addr % 2 ^ 52) ++ toBytes 8 d.wct ++ toBytes 8 d.attr ++ d.bytes

/-- The lanes of an access of another device (R144, R91): marks go from sectors that its stores together have written whole. -/
def remoteLanes (s : State) (m : FabricMsg) (dev buf : Nat) (op : LaneOp) (wd : Width) (lease : Bool) (asks : List LaneAsk) : State :=
  let off := (asks.head?.map (·.off)).getD 0
  let key := portAsk dev buf off
  let e := s.entry (buf % 4096)
  if op == .store && e.milled true && (e.kind == 1 || e.kind == 3) then
    s.remoteBeats m dev buf off (asks.map fun a => (a.off, toBytes wd.bytes a.data.toNat)) ⟨rW, Width.align wd, false, false⟩
  else match lanesHere buf op wd asks { s with eng := some key } with
    | (t, .ok ds) =>
      let wrote := ds.foldl (fun w d => if d.err.isNone then wroteMore w d.pieces else w) []
      let t := ((Tbl.keys wrote).filter fun i => Tbl.get 0 wrote i == BitVec.allOnes 64).foldl (fun t i => t.setDev (Dev.setMark · i false)) (t.portEnd key s.eng)
      let (t, ls) := if lease && op == .load then
          ds.foldl (fun (tb : State × List Byte) d => if d.err.isSome then tb else
            let (t, b) := tb.1.grantLines e buf d.off wd.bytes
            (t, tb.2 ++ b)) (t, [])
        else (t, [])
      t.answer dev 43 buf ds.length wd.bytes (ds.flatMap laneBytes ++ ls)
    | (t, .fail x) => (t.portEnd key s.eng).refuse dev buf off x
    | (_, y) => s.mustWait m key (op != .load) y

/-- The sender's own record has been stamped: the job that sent it takes the number and the record is held (R262). -/
def ownStamped (s : State) (c tag seq : Nat) : State :=
  let mine := (s.circleJobs c).findSome? fun w => match w.2.job with
    | .circle r _ _ _ sent q => if sent && q.isNone && r.tag == tag then some r else none
    | _ => none
  match mine with
  | some r => (s.stampOwn c seq tag).holdRecord c seq r
  | none => s

/-- A member has reported to this device's Crier: its device joins the member list (assumption 13). -/
def reported (s : State) (c : Nat) (sender : Sender) (k : Nat) : State :=
  match sender with
  | .q6 d => s.setCircle c { s.circle c with members := Tbl.set (s.circle c).members k d }
  | _ => s

/-- Yunait, from a Q6 or a Lomerod (R249). A member's report counts for the incarnation it names. -/
def receiveYunait (s : State) (m : FabricMsg) (sender : Sender) : Yunait → State
  | .signal dev buf off v => s.remoteAtomic m dev buf off .d .add fun old => min (old + v.toNat) (2 ^ 64 - 1)
  | .reserve dev buf off n limit => s.remoteAtomic m dev buf off .d .add fun old => if old + n ≤ limit then old + n else old
  | .circleRecord c r => s.reachCrier c r
  | .circleStamped c r q => (if r.source = s.dev.host.devnum then s.stampOwn c q.toNat r.tag else s).holdRecord c q.toNat r
  | .circleStampOwn c tag q => s.ownStamped c tag q.toNat
  | .circleApplied c k inc n =>
    let x := s.circle c
    if k ≤ x.last && inc.toNat = x.incarn then s.setCircle c { x with counts := Tbl.set x.counts k (max n (Tbl.get 0 x.counts k)) } else s
  | .circleActive c k inc =>
    let s := s.reported c sender k
    s.setCircle c { s.circle c with ready := Tbl.set (s.circle c).ready k inc.toNat }

/-- What a request that has waited too long is answered (R252): the circles' traffic does not age. (DESIGN CHOICE, assumption 101) -/
def askedTooLong (s : State) (m : FabricMsg) : Option State :=
  let gone := fun (dev buf off : Nat) => some (s.refuse dev buf off (errAt cTIMEOUT buf off))
  match m with
  | .read dev buf off .. | .write dev buf off _ | .atomic dev buf off .. | .yunait _ (.signal dev buf off _) | .yunait _ (.reserve dev buf off ..) => gone dev buf off
  | .lanes dev buf _ _ _ asks => gone dev buf ((asks.head?.map (·.off)).getD 0)
  | _ => none

/-- A message that this device takes up; `w` is what stays at the port where it must wait. -/
def takeMessage (s : State) (w m : FabricMsg) : State :=
  match m with
  | .read dev buf off n lease => s.remoteRead' w dev buf off n lease
  | .write dev buf off bs => s.remoteWrite' w dev buf off bs
  | .atomic dev buf off aop wd a x => s.remoteAtomic w dev buf off wd aop fun old => aopApply aop wd.bytes old a.toNat x.toNat
  | .lanes dev buf op wd lease asks => s.remoteLanes w dev buf op wd lease asks
  | .reply id r => s.remoteReply id r
  | .yunait sender y => if sender = .other then s else s.receiveYunait w sender y
  | .held .. => s

/-- A message at this device's fabric ports. A request waits while no context is resident, and where it must; one that has waited for as long as
the fabric timeout ends with FABRIC_TIMEOUT (R252). -/
def receive (s : State) (m : FabricMsg) : State :=
  let (since, x) := match m with
    | .held t x => (t, x)
    | x => (s.now, x)
  match (if since + s.dev.host.fabricTimeout ≤ s.now then s.askedTooLong x else none) with
  | some t => t
  | none => if !s.dev.pre.resident then s.requeue (.held since x) else s.takeMessage (.held since x) x

/-! The host port and the far port (R97). -/

/-- The buffer kind that a port carries, and the TINFO bit that tells the ports apart. -/
def portKind : Sys2Proof.Port → Nat
  | .far => 4
  | .host => 7
  | .fabric _ => 5
def portInfo : Sys2Proof.Port → Nat
  | .host => iHOSTPORT
  | _ => 0

def setPort (s : State) (p : Sys2Proof.Port) (up : Bool) : State :=
  match p with
  | .far => s.setDev fun d => { d with farUp := up }
  | .host => s.setDev fun d => { d with hostUp := up }
  | .fabric k => s.setDev fun d => { d with ports := if up then d.ports ||| 1#18 <<< k.val else d.ports &&& ~~~ (1#18 <<< k.val) }

def portIsUp (s : State) (p : Sys2Proof.Port) : Bool :=
  match p with
  | .far => s.dev.farUp
  | .host => s.dev.hostUp
  | .fabric k => s.dev.ports.getLsbD k

/-- Whether a buffer's accesses go through a port. -/
def portBuffer (s : State) (p : Sys2Proof.Port) (h : Nat) : Bool := (s.entry (h % 4096)).kind == portKind p

/-- The mapped regions, behind a port, whose line a stash access must fetch or a write-back goes to (R127, R128). -/
def portRegion (s : State) (p : Sys2Proof.Port) (x : Access) (q : Req) : Option Region :=
  let t := s.team x.team
  let so := if x.kind == .writeBack then some (64 * q.lane) else (s.stashFetches x.team q.off x.wd.bytes).head?.map (128 * ·)
  (so.bind t.regionAt).filter fun r => s.portBuffer p r.handle

/-- Whether a request of an access is outstanding to a port (R97). -/
def usesPort (s : State) (p : Sys2Proof.Port) (x : Access) (q : Req) : Bool :=
  match x.kind with
  | .div | .sts => false
  | .lds | .atoms | .writeBack => (s.portRegion p x q).isSome
  | _ => (s.entryOf x).kind == portKind p

/-- A request outstanding to a port completes with FAR_MEMORY (R97): a fetch fails the stash access that made it, and a write-back its
fence or exit (R129). -/
def portFails (s : State) (p : Sys2Proof.Port) (id : Nat) (x : Access) (q : Req) : State :=
  match x.kind with
  | .lds | .atoms =>
    s.finishLoad id { x with reqs := x.reqs.filter fun r => r.lane != q.lane, stall := Tbl.erase x.stall q.lane,
                             faults := x.faults ++ [(q.lane, { stashErr cFAR q.off with info := portInfo p })] }
  | .writeBack => (match s.portRegion p x q with
    | none => s
    | some r =>
      let e : Err := { errAt cFAR r.handle (r.off + (64 * q.lane - r.so)) with info := portInfo p }
      let rest := { x with reqs := x.reqs.filter fun r => r.lane != q.lane, stall := Tbl.erase x.stall q.lane, erred := true }
      (s.noteStore x.gang x.grid x.gridId x.core x.orphan (setKey pLSU false) ⟨0, if x.erred && x.orphan then none else some e, false, id⟩).keepAccess id rest)
  | _ => s.laneFailed id x q { errAt cFAR x.handle q.off with info := portInfo p }

/-- Every request of an access that is outstanding to a port fails. -/
def failAccess (s : State) (p : Sys2Proof.Port) (id : Nat) : State :=
  match s.access? id with
  | none => s
  | some x => (x.reqs.filter (s.usesPort p x)).foldl (fun s q => match s.access? id with
    | some x => s.portFails p id x q
    | none => s) s

/-- An engine's job takes its next step. -/
def engineStep (s : State) (id : Nat) : State :=
  match s.work? id with
  | none => s
  | some w => match w.job with
    | .carter _ _ hand .. => (match hand with
      | [] => (s.tileStart id).walkEnd id
      | h :: _ => s.tileEnd id h.i3)
    | .gath .. => s.gathStep id
    | .scat .. => s.scatStep id
    | .sinter .. => s.sinterStep id
    | .mdec .. => s.mdecStep id
    | .millld .. => s.millldStep id
    | .millbind .. => s.millbindStep id
    | .millstat .. => s.millstatStep id
    | .qscale .. => s.qscaleStep id
    | .qsplit .. => s.qsplitStep id
    | .qdeq .. => s.qdeqStep id
    | .mmb .. => s.mmbStep id
    | .mout .. => s.moutStep id
    | .mjoin .. => s.joinStep id
    | .mloop .. => s.loopStep id
    | .cld .. => s.cldStep id
    | .cst .. => s.cstStep id
    | .xfer _ _ _ _ _ _ left _ => (match left with
      | [] => s.xferEnd id
      | q :: _ => (s.xferChunk id q).xferEnd id)
    | .circle .. => s.sendRecord id
    | .stflush .. => s.stflushStep id

/-- The completion timeout of a port (R97); of the fabric's, each request has its own (R252). -/
def portTimeout (s : State) (p : Sys2Proof.Port) : Nat :=
  match p with
  | .far => s.dev.host.farTimeout
  | .host => s.dev.host.hostTimeout
  | .fabric _ => s.dev.host.fabricTimeout

/-- The link of a port goes down: every request outstanding to it fails, and so does every new one until the host reports it up again. Of the
fabric's ports, the others carry the traffic (R250, R252). -/
def portDown (s : State) (p : Sys2Proof.Port) : State :=
  match p with
  | .fabric _ => s.setPort p false
  | _ => s.ctx.accs.foldl (fun s a => s.failAccess p a.1) (s.setPort p false)

/-- A request has outlasted its port's completion timeout: the port counts as down from now on (R97). An engine then meets it so. (DEDUCED, assumption 49) -/
def portLate (s : State) (p : Sys2Proof.Port) (id : Nat) : State :=
  let late := fun (since : Nat) => decide (since + s.portTimeout p ≤ s.now)
  match p, s.access? id, s.work? id with
  | .fabric _, _, _ => s
  | _, some x, _ => if late x.since && x.reqs.any (s.usesPort p x) then s.portDown p else s
  | _, none, some w => if late w.since then { (s.portDown p).engineStep id with eng := none } else s
  | _, none, none => s

end State

def execRemoteRequest (m : FabricMsg) (s : State) : Host.Outcome State Fault Refusal := .next (s.receive m)
def execFabricTimeout (id : Nat) (s : State) : Host.Outcome State Fault Refusal := .next (s.fabricLate id)
def execCompletionTimeout (port : Sys2Proof.Port) (id : Nat) (s : State) : Host.Outcome State Fault Refusal := .next (s.portLate port id)
def execLinkDown (port : Sys2Proof.Port) (s : State) : Host.Outcome State Fault Refusal := .next (s.portDown port)
def execLinkUpReport (port : Sys2Proof.Port) (s : State) : Host.Outcome State Fault Refusal := .next (s.setPort port true)

/-- FABRIC_PORT_DOWN (R250, R252). -/
def execFabricPortDown (port : Fin 18) (s : State) : Host.Outcome State Fault Refusal :=
  .next (s.portDown (.fabric port))

end Sys2Proof.Machine
end

