-- ==== Sys2Proof/Machine/Paging.lean ====
section
/-! DEFINITION. Service of page faults (R322, R384, R158): a completed fault record, the misses that walk again, and the accesses that
are made again or fail. -/

namespace Sys2Proof.Machine

open Sys2Proof State

namespace State

/-- Lanes held at an instruction for a page are let go; the instruction is made again from its start (R384). -/
def releasePage (s : State) (p : Nat) : State :=
  s.ctx.holds.foldl (fun s h => match h.2.kind with
    | .page q =>
      if q = p then
        (s.dropHold h.1).modGang h.2.gang fun g => g.modLanes (laneList h.2.lanes) fun _ l =>
          if l.hold = some h.1 then { l with hold := none } else l
      else s
    | _ => s) s

/-- An access in flight is served or performed, by its kind. -/
def serveAccess (s : State) (id : Nat) : State :=
  match s.access? id with
  | none => s
  | some x =>
    if s.beatAccess x then s.performMill id x
    else match x.kind with
      | .red | .signal => s.performReds id x
      | .store | .sts | .sst | .writeBack => s.performStores id x
      | _ => s.serveLanes id x

/-- Every request of an access. -/
def serveAll (s : State) (id : Nat) : State :=
  match s.access? id with
  | none => s
  | some x => x.reqs.foldl (fun s _ => { ({ s with eng := some id } : State).serveAccess id with eng := none }) s

/-- A page is mapped: its entry goes, and held reductions are replayed in queue order (R158). -/
def wakePage (s : State) (p : Nat) : State :=
  let s := (s.setCtx fun c => { c with misses := Tbl.erase c.misses p }).releasePage p
  (s.ctx.redHold.filter fun id => (s.access? id).any fun x => x.stall.any fun w => w.2 == p).foldl serveAll s

/-- Words that hold their lanes for a page, made again at once. -/
def remake (i : Instr) (s : State) : Host.Outcome State Fault Refusal :=
  match i with
  | .bari u a b c sc => execBari u a b c sc s
  | .bara u d a b c sc n => execBara u d a b c sc n s
  | .barw u d a b c sc zo n => execBarw u d a b c sc zo n s
  | .sigwait u d a b c zo n => execSigwait u d a b c zo n s
  | .trigset u a b c => execTrigset u a b c s
  | .timeat u a b => execTimeat u a b s
  | .iqfill u d a b q => execIqfill u d a b q s
  | .mdec u d a b c n any => execMdec u d a b c n any s
  | _ => .next { s with cur := none }

/-- The lanes held at an instruction for a page whose service failed: PAGE_FATAL is delivered at the instruction (R384). -/
def failHold (s : State) (id : Nat) (h : Hold) : State :=
  let g := s.gang h.gang
  let m := g.lanesWhere fun _ l => l.hold == some id
  let s := (s.dropHold id).modGang h.gang fun g => g.modLanes (laneList m) fun _ l => { l with hold := none }
  if m == 0 then s
  else match s.fetch h.gang h.pc with
    | (s, .bad e n _) => s.raise h.gang ⟨e.cause, h.pc, (h.pc + n) % 2 ^ 32, e.addr, m, e.info, id⟩
    | (t, .instr i) => (match remake i { t with cur := some ⟨h.gang / 64, h.gang % 64, m, h.pc, false⟩ } with
      | .next u => u
      | _ => s)
    | _ => s

/-- Everything that may be attached to a page goes on while the page counts as fatal: accesses, engines, tile contexts, other devices'
requests, circle applies, completion writes and held lanes. -/
def failAttached (s : State) (p : Nat) : State :=
  let s := ((s.ctx.accs.filter fun a => a.2.stall.any fun w => w.2 == p).map (·.1)).foldl serveAll s
  let s := s.ctx.works.foldl (fun s w => match w.2.job with
    | .xfer _ _ _ _ _ _ left _ => left.foldl (fun s q => { (s.xferChunk w.1 q).xferEnd w.1 with eng := none }) s
    | .carter _ _ hand .. =>
      let s := (hand.filter fun t => t.stall = some p).foldl (fun s t => { s.tileMoves w.1 t.i3 true with eng := none }) s
      if w.2.stall = some p then { (s.tileStart w.1).walkEnd w.1 with eng := none } else s
    | _ => if w.2.stall = some p then { s.engineStep w.1 with eng := none } else s) s
  let s := (List.range 8).foldl (fun s k => if s.ctx.mills.isEmpty then s else s.closeTiles k) s
  let waiting := s.inputs.filterMap fun i => match i with
    | .remoteRequest m => some m
    | _ => none
  let s := waiting.foldl receive { s with inputs := s.inputs.filter fun i => match i with
    | .remoteRequest _ => false
    | _ => true }
  let s := (Tbl.keys s.ctx.circles).foldl applyNext s
  let s := (Tbl.keys s.ctx.triggers).foldl fire s
  let s := (Tbl.keys s.ctx.grids).foldl completeGrid s
  s.ctx.holds.foldl (fun s h => match h.2.kind with
    | .page q => if q = p then s.failHold h.1 h.2 else s
    | _ => s) s

/-- A page whose service failed: every access that waits for it fails with PAGE_FATAL, each in its own class (R322). -/
def failPage (s : State) (p : Nat) : State :=
  let s := s.setCtx fun c => { c with misses := Tbl.erase c.misses p }
  let s := s.setDev fun d => { d with tlb := Tbl.set d.tlb p [1] }
  (s.failAttached p).setDev fun d => { d with tlb := Tbl.erase d.tlb p }

/-- A miss entry walks again after a service (R322 step 4). `mine` says that the serviced record was its own. -/
def walkAgain (s : State) (p : Nat) (m : Miss) (mine fatal : Bool) : State :=
  if mine && fatal then s.failPage p
  else match s.dev.walk (p * 2 ^ 16) with
    | .leaf _ => s.wakePage p
    | .fatal => s.failPage p
    | .miss =>
      if mine || m.rec'.isNone then
        (s.setCtx fun c => { c with misses := Tbl.erase c.misses p }).postMiss p m.buf m.wr m.gridId
      else s

/-- A write of FQDONE: the record frees, and every waiting miss entry walks again, once each. One that names no open record, or an
outcome other than 1 and 2, is refused. (DEDUCED, assumption 48) -/
def fqDone (s : State) (index outcome : Nat) : State :=
  if (outcome ≠ 1 && outcome ≠ 2) || !Tbl.mem s.ctx.fq index then s.setHost fun h => { h with hosterr := h.hosterr ||| 4 }
  else
    let s := s.setCtx fun c => { c with fq := Tbl.erase c.fq index }
    s.ctx.misses.foldl (fun s x => match Tbl.find? s.ctx.misses x.1 with
      | some m => s.walkAgain x.1 m (x.2.rec' == some index) (outcome == 2)
      | none => s) s

end State

def execFqdoneMapped (index : Nat) (s : State) : Host.Outcome State Fault Refusal := .next (s.whenReady fun s => s.fqDone index 1)
def execFqdoneFatal (index : Nat) (s : State) : Host.Outcome State Fault Refusal := .next (s.whenReady fun s => s.fqDone index 2)

end Sys2Proof.Machine
end

