-- ==== Sys2Proof/Machine/Image.lean ====
section
/-! DEFINITION. State as bytes, for the context area, the dump and readback (R316, R325, R340, R385, R386). Where the manual names what
a block holds and not where in it, the places are the model's (DESIGN CHOICE). -/

namespace Sys2Proof.Machine

open Sys2Proof State

def Cond.code : Cond → Nat
  | .running => 0 | .blocked => 1 | .exited => 2

/-- The WAIT field of R385. -/
def Wait.code : Wait → Nat
  | .none => 0 | .waitm .. => 1 | .reconv => 2 | .nap _ => 3 | .twait _ => 4 | .sigwait _ => 5 | .bara => 6 | .barw _ => 7
  | .spawn => 8 | .timeat => 9 | .debug => 10

/-- The wait operand of R385, at core cycle `cycle`. -/
def Wait.operand (cycle : Nat) : Wait → Nat
  | .waitm m _ => m
  | .nap d => d
  | .sigwait d => d
  | .twait r => r
  | .barw (some c) => c - cycle
  | _ => 0

def L2Sector.flags (x : L2Sector) : Nat := boolNat x.valid + boolNat x.dirty * 2 + boolNat x.poison * 4

namespace State

/-- Lane registers of a lane that wait for a result. -/
def pendingRegs (s : State) (l : Lane) : Nat :=
  (l.wins.flatMap fun w => match s.access? w.acc with
    | some x => if x.kind == AccKind.sld then [] else span x.reg x.wd.regs
    | none => []).foldl (fun m r => m ||| 2 ^ r) 0

/-- A lane record (R385). -/
def laneRecordOf (s : State) (l : Lane) : List Byte :=
  let blocked := l.cond == .blocked
  let w : Wait := if blocked then l.wait else .none
  let n := l.stack.length
  let st := l.cond.code + w.code * 2 ^ 2 + (l.g.toNat % 128) * 2 ^ 6 + min n 8 * 2 ^ 13 + (n - 8) % 2 ^ 15 * 2 ^ 17
  toBytes 4 l.pc ++ toBytes 4 st ++ toBytes 8 (w.operand s.dev.cycle) ++ toBytes 16 (s.pendingRegs l) ++
  (List.range 8).flatMap fun i => toBytes 4 (l.stack.reverse.getD i 0)
def laneRecord (s : State) (gang lane : Nat) : List Byte := s.laneRecordOf ((s.gang gang).lane lane)

/-- A gang record (R325): 1 KiB. -/
def gangRecordOf (g : Gang) : List Byte :=
  let body := (List.range 64).flatMap (fun i => toBytes 4 (g.sreg i).toNat) ++
    (List.range 12).flatMap (fun i => toBytes 8 (g.mask i).toNat)
  let traps := toBytes 2 g.z.toNat ++ toBytes 2 g.fflags.toNat ++ toBytes 4 (boolNat g.hmode) ++ toBytes 8 g.hset.toNat ++
    toBytes 4 g.t.cause ++ toBytes 4 g.t.tpc ++ toBytes 4 g.t.tresume ++ toBytes 4 g.t.info ++ toBytes 8 g.t.addr ++ toBytes 8 g.t.lanes.toNat
  let x := patch (patch body 0x180 traps) 0x1F8 (toBytes 8 ((Tbl.keys g.tokens).foldl (fun m r => m ||| 2 ^ r) 0))
  slice (patch x 0x200 ((List.range 64).flatMap fun r => toBytes 8 (Tbl.get 0 g.engFault r))) 0 1024
def gangRecord (s : State) (gang : Nat) : List Byte := gangRecordOf (s.gang gang)

/-- A team record: permit counters, map table, pool runs, accumulator tile list (R325): 1 KiB. -/
def teamRecord (s : State) (team : Nat) : List Byte :=
  let t := s.team team
  let x := (List.range 16).flatMap (fun k => toBytes 2 (Tbl.get 0 t.permits k)) ++
    toBytes 4 t.regRun ++ toBytes 4 t.stashRun ++ toBytes 4 t.saveRun ++ toBytes 4 t.teamIdx ++ t.tiles.map (BitVec.ofNat 8)
  slice (patch x 0x80 (t.maps.flatMap fun r => toBytes 4 r.so ++ toBytes 4 r.n ++ toBytes 4 r.handle ++
    toBytes 4 (match r.mode with | .rw => 0 | .ro => 1 | .wo => 2) ++ toBytes 8 r.off)) 0 1024

/-- The gangs of a team, in ascending GANGIDX, with those that have retired as they ended (R386). -/
def gangsOf (s : State) (team : Nat) : List Gang :=
  sortBy (fun a b => decide (a.gangIdx < b.gangIdx))
    (((((List.range 64).map (gangKey (teamCore team) ·)).filter fun k => (s.gang k).live && (s.gang k).team == team).map s.gang) ++
      (s.team team).gone)

/-- A team's register region: its gangs in order, each register by register, each register lane by lane. -/
def regRegion (s : State) (team : Nat) : List Byte :=
  let r := (s.grid (s.team team).grid).record
  slice ((s.gangsOf team).flatMap fun g =>
    (List.range (if g.gangIdx < Rec.pgangs r then Rec.regsp r else Rec.regsc r)).flatMap fun n =>
      (List.range 64).flatMap fun l => toBytes 4 ((g.lane l).reg n).toNat) 0 (Rec.freg r)

/-- A tile: element (i, j) at 256 i + 4 j (R386). -/
def tileBytes (t : Tile) : List Byte := (List.range 4096).flatMap fun i => toBytes 4 (Tbl.get 0 t.el i).toNat

/-- The pool of a core with the register regions and the spilled call-stack entries in their places. -/
def poolImage (s : State) (core : Nat) : List Byte :=
  (s.teamsOn core).foldl (fun b t => patch b (s.team t).regRun (s.regRegion t)) ((s.core core).pool.readBytes 0 1572864)

def SlotState.code : SlotState → Nat
  | .free => 0 | .opened => 1 | .joining => 2

/-- A staging-slot record: its header, then 98 304 bytes whose form the manual does not fix (R386). -/
def slotRecord (s : State) (core k : Nat) : List Byte :=
  let x := Tbl.get Slot.free (s.core core).slots k
  let cause := fun (e : Option Err) => match e with
    | some e => e.cause % 128
    | none => 0
  let w := SlotState.code x.state + k * 4 + boolNat x.mmbIssued * 2 ^ 4 + boolNat x.moutIssued * 2 ^ 5 + boolNat x.mmbDone * 2 ^ 6 +
    boolNat x.moutDone * 2 ^ 7 + cause x.mmbErr * 2 ^ 8 + cause x.moutErr * 2 ^ 16 + x.owner % 16 * 2 ^ 24
  let hd := toBytes 4 w ++ toBytes 4 (s.team x.owner).teamIdx ++ slice (x.step.block.flatMap fun w => toBytes 4 w.toNat) 0 32 ++
    slice ((x.step.table.getD []).flatMap fun w => toBytes 4 w.toNat) 0 16 ++ toBytes 8 0
  hd ++ (List.range 98304).map (Config.implByte (core * 4 + k))

/-- A trigger record (R386): 128 bytes. -/
def triggerRecord (s : State) (k : Nat) : List Byte :=
  let t := s.trigger k
  slice (slice t.image 0 64 ++ toBytes 4 t.word ++ toBytes 4 k ++ toBytes 4 (t.gridId % 2 ^ 16)) 0 128

/-- A circle record (R386): the words of R266, with the circle number in word 6. -/
def circleRecord (s : State) (k : Nat) : List Byte := patch (circleBytes (s.circle k)) 48 (toBytes 8 k)

/-- A walk record (R386): 128 bytes; a walk without PERMIT takes no permits (R190). The Carter that runs a walk is not named by the manual; the
model has the one of the core's cluster. (DESIGN CHOICE, assumption 53) -/
def walkRecord (s : State) (w : Work) : Option (List Byte) :=
  match w.job with
  | .carter d next hand _ _ => some (slice (slice (d.flatMap fun x => toBytes 4 x.toNat) 0 64 ++
      toBytes 4 next ++ toBytes 4 (w.core / 8 % 32 + w.core % 256 * 2 ^ 8 + (s.gang w.gang).gangIdx * 2 ^ 16 + w.tok % 64 * 2 ^ 20) ++
      toBytes 4 (if bit (d.getD 0 0).toNat 5 then hand.length else 0) ++ toBytes 4 (w.gridId % 2 ^ 16) ++ toBytes 4 (s.team w.team).teamIdx ++ toBytes 4 (w.cause % 128)) 0 128)
  | _ => none

/-- A token-table entry (R386) for an engine whose token took HALTED. -/
def tokenEntry (s : State) (w : Work) : List Byte :=
  toBytes 4 (w.core % 256 + w.gang % 64 * 2 ^ 8 + w.tok % 64 * 2 ^ 14) ++ toBytes 4 (tokenValue cHALTED 0) ++
  toBytes 8 (Tbl.get 0 (s.gang w.gang).engFault w.tok) ++ toBytes 4 (w.gridId % 2 ^ 16 + w.op10 % 2 ^ 10 * 2 ^ 16) ++
  toBytes 4 (s.team w.team).teamIdx ++ toBytes 8 0

/-- Numbers, 8 bytes each, and how many there are. -/
def natsBytes (ns : List Nat) : List Byte := toBytes 8 ns.length ++ ns.flatMap (toBytes 8)

/-- What an engine keeps of a job besides what its token says: its operands and its progress (R193, R198, R245, R271). -/
def jobNumbers : Job → List Nat
  | .carter d next hand first stopped => next :: first :: boolNat stopped :: (d.map BitVec.toNat ++ hand.flatMap fun t =>
      t.i3 :: t.teams.length :: (t.teams ++ t.left.flatMap fun r => [r.pos, r.src, r.dst, r.n]))
  | .gath h base idx n data wd i cnt => [h, base, idx, n, data, wd.bytes, i, cnt]
  | .scat h base idx n data wd op i cnt => [h, base, idx, n, data, wd.bytes, op.code, i, cnt]
  | .sinter h bound out cap offA lenA offB lenB emit a b cnt => [h, bound, out, cap, offA, lenA, offB, lenB, boolNat emit, a, b, cnt]
  | .mdec h off auOff auLen decoder _ row => [h, off, auOff, auLen, decoder, row]
  | .millld h off slot gen => [h, off, slot, gen]
  | .millbind h slot wr unbind => [h, slot, boolNat wr, boolNat unbind]
  | .millstat h off slot clr => [h, off, slot, boolNat clr]
  | .qscale h t so pitch dst bf => [h, t, so, pitch, dst, boolNat bf]
  | .qsplit h t so pitch bf lines => h :: t :: so :: pitch :: boolNat bf :: lines.flatMap fun l => l.length :: l
  | .qdeq h t so pitch pq bf => [h, t, so, pitch, pq, boolNat bf]
  | .mmb step slot hold => slot :: boolNat hold :: stepNumbers step
  | .mout step slot => slot :: stepNumbers step
  | .mjoin slot ct => [slot, ct]
  | .mloop step loop ct s0 two j ph0 => ct :: s0 :: boolNat two :: j :: (stepNumbers step ++ loop.map BitVec.toNat ++ ph0)
  | .cld so pitch ct bf => [so, pitch, ct, boolNat bf]
  | .cst so pitch ct bf clr => [so, pitch, ct, boolNat bf, boolNat clr]
  | .xfer _ src dst n chunk _ left adds => boolNat src.stash :: src.handle :: src.off :: boolNat dst.stash :: dst.handle :: dst.off :: n ::
      chunk :: left.length :: (left ++ adds.flatMap fun a => a.1 ++ [a.2.1, a.2.2])
  | .circle _ circle src n sent seq => [circle, boolNat src.stash, src.handle, src.off, n, boolNat sent, (seq.map (· + 1)).getD 0]
  | .stflush sectors inv count lo n => boolNat inv :: count :: lo :: n :: sectors
where
  /-- A step block and its table. -/
  stepNumbers (x : StepId) : List Nat := x.block.map BitVec.toNat ++ (x.table.getD []).map BitVec.toNat

/-- An engine's state for a job that is no walk: whose it is, and its progress. (DESIGN CHOICE, assumption 53) -/
def workBytes (w : Work) : List Byte :=
  natsBytes [w.op10, w.gang, w.core, w.team, w.grid, w.gridId, w.tok, w.cause, w.faultAt, boolNat w.fin.isSome] ++ natsBytes (jobNumbers w.job)

/-- An access as the context area holds it, with its requests and the pages they wait for (R159). (DESIGN CHOICE, assumption 53) -/
def accBytes (x : Access) : List Byte :=
  natsBytes [x.path, x.gang, x.core, x.team, x.grid, x.gridId, x.handle, x.wd.bytes, x.aop.code, x.scope.code, x.reg, x.pc] ++
  natsBytes (x.reqs.flatMap fun q => [q.lane, q.off, q.data, q.expect]) ++ natsBytes (x.stall.flatMap fun p => [p.1, p.2])

/-- A record of a circle's window. -/
def circleRecBytes (r : CircleRec) : List Byte :=
  natsBytes [r.target.toNat, (r.red.map fun x => 2 * x.1.code + boolNat x.2 + 1).getD 0, r.incarn.toNat, r.source, r.tag, r.payload.length] ++ r.payload

/-- Accumulator status words of a team, padded to 64 bytes. -/
def statusWords (s : State) (core team : Nat) : List Byte :=
  let b := (s.team team).tiles.flatMap fun i => toBytes 4 (Tbl.get Tile.zero (s.core core).acc i).status
  slice b 0 (roundUp b.length 64)

/-! The parts of the context area whose inner form the manual leaves to the model (R325). (DESIGN CHOICE, assumption 53) -/

/-- A number of records, and each with its key. -/
def tblBytes {α : Type} (f : α → List Byte) (t : Tbl α) : List Byte := toBytes 8 t.length ++ t.flatMap fun x => toBytes 8 x.1 ++ f x.2

def optBytes (x : Option Nat) : List Byte := match x with
  | some n => toBytes 8 (n + 1)
  | none => toBytes 8 0

/-- A fault-queue record as FQREC gives it (R321). -/
def fqBytes (s : State) (i : Nat) : List Byte :=
  match Tbl.find? s.ctx.fq i with
  | some x => toBytes 8 (x.va % 2 ^ 48 / 2 ^ 16 * 2 ^ 16 + x.buf % 4096 * 2 ^ 48 + boolNat x.wr * 2 ^ 60) ++ toBytes 8 (x.gridId % 2 ^ 16)
  | none => toBytes 16 0

def gridBytes (g : Grid) : List Byte :=
  slice g.record 0 64 ++ toBytes 8 g.next ++ toBytes 8 g.unended ++ toBytes 4 g.cause ++ toBytes 4 g.nerr ++ toBytes 4 g.thandler ++
  optBytes g.spawnCore ++ toBytes 8 g.seq ++ toBytes 8 g.wct ++ optBytes g.signalDue

def queueBytes (q : List QEntry) : List Byte :=
  toBytes 8 q.length ++ q.flatMap fun e => toBytes 4 e.grid ++ toBytes 4 e.teamIdx ++ toBytes 4 e.prio ++ toBytes 8 e.at' ++ toBytes 4 e.bypassed

/-- An open encode tile context: its place, its beats by position, and what of its tile is still to be written. -/
def tileCtxBytes (c : TileCtx) : List Byte :=
  toBytes 4 c.view ++ toBytes 8 c.tile ++ toBytes 4 c.gen ++ toBytes 4 c.gridId ++ tblBytes id c.beats ++ toBytes 8 c.last ++
  toBytes 8 (c.waiters.length) ++ c.waiters.flatMap (fun w => toBytes 8 w.1 ++ toBytes 8 w.2) ++
  match c.left with
  | some ps => toBytes 8 (ps.length + 1) ++ ps.flatMap fun p => toBytes 8 p.1 ++ toBytes 8 p.2.1 ++ toBytes 8 p.2.2.length ++ p.2.2
  | none => toBytes 8 0

def millPartBytes (m : MillPart) : List Byte :=
  m.stats.flatMap (toBytes 8) ++ toBytes 4 m.flags.toNat ++ tblBytes (toBytes 8) m.crc ++ tblBytes (toBytes 8) m.bstat ++ toBytes 8 m.beats ++
  toBytes 8 m.errs ++ toBytes 4 m.lastDetail ++ toBytes 8 m.lastErrAt ++ toBytes 8 m.tiles ++ toBytes 8 m.abandoned ++
  toBytes 8 m.ctxs.length ++ m.ctxs.flatMap tileCtxBytes

/-- A Mill slot: its generation, image and binds, and what each Mill keeps for it (R99). -/
def millSlotBytes (s : State) (k : Nat) : List Byte :=
  let x := s.millSlot k
  optBytes x.gen ++ toBytes 8 x.image.length ++ x.image ++ toBytes 8 x.binds.length ++
  x.binds.flatMap (fun b => toBytes 4 b.1 ++ toBytes 4 (boolNat b.2)) ++
  (s.ctx.mills.filter fun m => m.1 % 8 == k).flatMap fun m => toBytes 8 m.1 ++ millPartBytes m.2

/-- The device block (R325). -/
def deviceBlock (s : State) : List Byte :=
  let c := s.ctx
  tblBytes gridBytes c.grids ++ tblBytes queueBytes c.clusterQ ++ tblBytes queueBytes c.dieQ ++
  toBytes 8 c.wheel.length ++ c.wheel.flatMap (fun w => slice w.record 0 64 ++ toBytes 8 w.release ++ optBytes w.spawnCore) ++
  tblBytes (fun t => slice t.image 0 64 ++ toBytes 4 t.word ++ toBytes 4 t.gridId ++ toBytes 8 t.gridSeq ++ optBytes t.due) c.triggers ++
  tblBytes (fun x => circleBytes x ++ tblBytes circleRecBytes x.window ++ natsBytes [boolNat x.doing, boolNat x.waits, x.lastWct, x.nextSeq] ++
    (x.queue.flatMap circleRecBytes) ++ natsBytes (x.counts.map Prod.snd) ++ natsBytes (x.members.map Prod.snd)) c.circles ++
  (c.works.filterMap fun w => s.walkRecord w.2).flatten ++ tblBytes (fun w => workBytes w) c.works ++
  c.redHold.flatMap (fun id => toBytes 8 id ++ ((s.access? id).map accBytes).getD []) ++ tblBytes accBytes c.accs ++
  tblBytes (fun m => optBytes m.rec' ++ toBytes 4 m.buf ++ toBytes 4 (boolNat m.wr) ++ toBytes 4 m.gridId) c.misses ++
  (List.range 1024).flatMap s.fqBytes ++ tblBytes (fun us => toBytes 8 us.length ++ us.flatMap fun u => toBytes 8 u.length ++ u) c.sessions ++ (List.range 8).flatMap s.millSlotBytes

/-- The core record (R325): boundaries, item queue, status words, stash fill states and dirty masks, and the engines' state. -/
def coreRecord (s : State) (k : Nat) : List Byte :=
  let c := s.core k
  toBytes 4 c.b1 ++ toBytes 4 c.b2 ++ toBytes 4 c.b3 ++ toBytes 4 c.items.length ++ c.items.flatMap (fun w => toBytes 4 w.toNat) ++
  (List.range 32).flatMap (fun i => toBytes 4 (Tbl.get Tile.zero c.acc i).status) ++
  (s.teamsOn k).flatMap (fun t => tblBytes (fun x =>
    toBytes 8 x.dirty.toNat ++ toBytes 4 (boolNat x.expiry.isSome + 2 * boolNat x.poison)) (s.team t).sectors) ++
  queueBytes c.queue ++ ((s.ctx.works.filter fun w => w.2.core == k).flatMap fun w => workBytes w.2) ++
  match c.latch with
  | none => toBytes 8 0
  | some l => natsBytes (l.gang :: l.fields.map BitVec.toNat) ++ l.body ++ l.scales

/-- The error log as it stands in the context area (R323). -/
def logImage (s : State) : List Byte :=
  let first := s.ctx.logWrite - s.ctx.log.length
  (s.ctx.log.zipIdx).foldl (fun b (e, i) => patch b (32 * ((first + i) % 4096)) (logBytes e)) (List.replicate 131072 0)

/-- Cores whose state the context has used. -/
def usedCores (s : State) : List Nat :=
  (List.range 192).filter fun c => Tbl.mem s.ctx.cores c || !(s.teamsOn c).isEmpty

/-- Cores that hold a team. -/
def activeCores (s : State) : List Nat := (List.range 192).filter fun c => !(s.teamsOn c).isEmpty

end State

end Sys2Proof.Machine
end

