-- ==== Sys2Proof/Machine/Preempt.lean ====
section
/-! DEFINITION. Detected deadlock (R281), pre-emption and restore (R324 to R326, R382), halt and dump (R327 to R330, R386). -/

namespace Sys2Proof.Machine

open Sys2Proof State

namespace State

/-- DEADLOCK_DETECT: one trap for a deadlocked set (R281); one that is held while a handler runs is not raised again. -/
def detectDeadlock (s : State) (gang : Nat) : State :=
  let g := s.gang gang
  if !g.live || g.held.any fun h => h.lanes &&& g.deadlockSet != 0 then s else s.deadlockTrap gang

/-! Pre-emption. -/

/-- Whether an access or job waits for a page. -/
def onPage (s : State) (p : Option Nat) : Bool :=
  match p with
  | some p => Tbl.mem s.ctx.misses p
  | none => false

/-- The state with no accesses but some, for what stands behind those. -/
def onlyAccs (s : State) (ids : List Nat) : State :=
  s.setCtx fun c => { c with accs := c.accs.filter fun a => ids.contains a.1, redHold := c.redHold.filter ids.contains }

/-- A slice's queue is full with reductions of a core: that core's requests to it wait (R158). -/
def slicesFull (s : State) (core : Nat) : Bool :=
  !s.ctx.redHold.isEmpty && (List.range 64).any fun k => let held := s.heldIn k; decide (256 ≤ held.length) && held.contains core

/-- Both tile contexts of a Mill's slot are open: a further tile's beat waits there (R109). -/
def tilesOpen (s : State) (slot : Nat) : Bool := s.ctx.mills.any fun m => m.1 % 8 == slot && decide (2 ≤ m.2.ctxs.length)

/-- A request that can go no further while pages are missing: it waits for one, its beat stands in an open tile context or waits for
one, or it waits behind an access that can itself go no further; `t` has only those. -/
def reqStuck (s t : State) (id : Nat) (x : Access) (r : Req) : Bool :=
  s.reqHeld x r || s.slicesFull x.core || t.earlierOverlap id x r ||
  (match x.kind with
    | .lds | .sts | .atoms | .div | .writeBack => false
    | .red => (s.entryOf x).kind == 1 && (t.heldBlocks id x.core (s.reqVa x r) || decide (256 ≤ (s.heldIn (sliceOf (s.reqVa x r))).length))
    | _ => (s.entryOf x).kind == 1 && t.heldBlocks id x.core (s.reqVa x r)) ||
  (s.beatAccess x && (r.lane == 1 || s.tilesOpen (s.entryOf x).millwr ||
    (let (bh, off, n, _) := s.backing (s.entryOf x) x.handle (r.off / 64) (s.entryOf x).millwr
     t.beatBefore id bh off n)))

/-- An access none of whose requests can go further: of those that share bytes, none goes before all can (R144), and a beat's Mill takes
an access's beats in their order. -/
def accStuck (s t : State) (id : Nat) (x : Access) : Bool :=
  x.sent.isNone && !x.reqs.isEmpty &&
  (let fs := x.reqs.map fun q => (q, s.footprint x q)
   let late := sharing fs fs.length (fs.filter fun f => s.reqStuck t id x f.1)
   late.length == fs.length || (s.beatAccess x && !late.isEmpty))

/-- The accesses that are saved: those stalled on a page, and those that wait behind them (R159). (DESIGN CHOICE, assumption 102) -/
def stuckAccs (s : State) : Nat → List Nat → List Nat
  | 0, ids => ids
  | fuel + 1, ids =>
    let t := s.onlyAccs ids
    let more := (s.ctx.accs.filter fun a => ids.contains a.1 || s.accStuck t a.1 a.2).map Prod.fst
    if more.length = ids.length then ids else stuckAccs s fuel more

/-- Every write made so far is past its WCT: also those of jobs and tiles under way (R180). -/
def writesPast (s : State) : Bool :=
  decide (s.ctx.wct ≤ s.now) && (s.ctx.works.all fun w => w.2.stores.all fun x => decide (x.2.wct ≤ s.now)) &&
  s.ctx.mills.all fun m => m.2.ctxs.all fun c => decide (c.wrote.wct ≤ s.now)

/-- A job is done, or stands where it can be saved (R117, R193, R203, R245, R271). A CLD or CST that waits for a tile waits behind an
MLOOP or MJOIN that is itself saved, and is saved as issued. (DESIGN CHOICE, assumption 102) -/
def jobSaved (s : State) (id : Nat) (w : Work) : Bool :=
  w.sent.isNone && (match w.job with
    | .carter _ _ hand .. => hand.all fun t => s.onPage t.stall || s.slicesFull w.core
    | .millbind .. | .millstat .. => w.fin.isSome
    | .cld _ _ ct _ | .cst _ _ ct .. => w.fin.isSome || s.tileBusy id w.team ct
    | .xfer _ _ _ _ _ _ left _ => !left.any w.begun.contains || s.onPage w.stall || s.slicesFull w.core
    | _ => true)

/-- In-flight work has completed or stands where it can be saved, and every WCT is past (R71, R117, R134, R159, R180, R193, R245, R271, R311, R324).
Prefetches are discarded (R159); a STUNMAP and a BARA complete first. -/
def drained (s : State) : Bool :=
  s.ctx.custody.isEmpty && s.writesPast &&
  (let saved := s.stuckAccs s.ctx.accs.length []
   s.ctx.accs.all fun a => a.2.kind == .prefetch || saved.contains a.1) &&
  (s.ctx.gangs.all fun g => !g.2.live || g.2.stopped || g.2.lanes.all fun l => l.2.cond != .blocked || l.2.wait != .bara) &&
  (s.ctx.replies.all fun r => r.2.all (·.done)) &&
  (s.ctx.works.all fun w => s.jobSaved w.1 w.2) &&
  s.ctx.holds.all fun h => match h.2.kind with
    | .stunmap .. | .remote => false
    | _ => true

/-- A lane as it is saved: a fence, SIGADD or SPAWN under way is made again after restore (R177, R301); a BARW keeps its
remaining cycles (R311). -/
def saveLane (s : State) (l : Lane) : Lane :=
  let again := match l.hold.bind fun h => Tbl.find? s.ctx.holds h with
    | some h => (match h.kind with
      | .page _ => false
      | _ => true)
    | none => false
  let l := if again then { l with hold := none, cond := .running, wait := .none } else l
  match l.wait with
  | .barw (some c) => { l with wait := .barw (some (c - s.dev.cycle)) }
  | _ => l

def saveCtx (s : State) : Ctx :=
  { s.ctx with
    gangs := s.ctx.gangs.map fun g => (g.1, { g.2 with lanes := g.2.lanes.map fun l => (l.1, s.saveLane l.2) }),
    accs := s.ctx.accs.filter fun a => a.2.kind != .prefetch,
    cores := s.ctx.cores.map fun c => (c.1, { c.2 with cache := [], latch := none }),
    circles := s.ctx.circles.map fun c => (c.1, { c.2 with gapSince := none }),
    holds := s.ctx.holds.filter fun h => match h.2.kind with
      | .page _ => true
      | _ => false }

/-- The area header (R325): its number, DTIME at the save, PTROOT, PTCLASS, LEASE_NS and the class windows. -/
def areaHeader (s : State) : List Byte :=
  slice (toBytes 8 0x0C0A0006 ++ toBytes 8 (s.now % 2 ^ 64) ++ toBytes 8 s.dev.host.ptRoot ++ toBytes 4 s.dev.host.ptClass ++
    toBytes 4 s.dev.host.leaseNs ++
    (List.range 15).flatMap fun c => toBytes 4 ((s.dev.window c).wstart + (s.dev.window c).wsize * 2 ^ 8)) 0 0x100

/-- The blocks of one core whose places the manual gives (R325), as offsets in the core block and bytes. -/
def coreBlock (s : State) (c : Nat) : List (Nat × List Byte) :=
  [(0, s.poolImage c),
   (0x180000, (List.range 32).flatMap fun i => tileBytes (Tbl.get Tile.zero (s.core c).acc i)),
   (0x200000, (List.range 4).flatMap fun k => slice (s.slotRecord c k) 0 98304),
   (0x260000, (List.range 4096).flatMap fun i => s.laneRecord (gangKey c (i / 64)) (i % 64)),
   (0x2A0000, (List.range 64).flatMap fun k => s.gangRecord (gangKey c k)),
   (0x2B0000, (List.range 16).flatMap fun k => s.teamRecord (teamKey c k)),
   (0x2B4000, slice (s.coreRecord c) 0 (min (s.coreRecord c).length 311296))]

/-- Microcode writes the context area (R325): the header, the blocks of the cores whose state the context has used, and the device block.
(DESIGN CHOICE, assumption 53) -/
def writeArea (s : State) : State :=
  let base := s.dev.pre.ctxBase
  let put := fun (s : State) (x : Nat × List Byte) => s.setDev fun d => d.classWrite 14 (base + x.1) x.2
  let s' := put s (0, s.areaHeader)
  let s' := s.usedCores.foldl (fun t c => (s.coreBlock c).foldl (fun t x => put t (0x100000 + 0x300000 * c + x.1, x.2)) t) s'
  put s' (0x24100000, s.deviceBlock)

/-- Whether the context area lies in class 14 and in channels that work. (DESIGN CHOICE, assumption 10) -/
def areaFault (s : State) : Option Nat :=
  let base := s.dev.pre.ctxBase
  match s.dev.classLoc 14 base, s.dev.classLoc 14 (base + 2 ^ 30 - 1) with
  | some _, some _ => if (List.range 256).any fun c => (s.dev.channel c).lost then some cLOST else none
  | _, _ => some (Config.haltCause % 128)

/-- CONTEXT_SAVE: the area is written, PREEMPT.DONE set, and no context is resident (R324, R382). -/
def saveContext (s : State) : State :=
  if !s.dev.pre.req || s.dev.pre.done || !s.dev.pre.resident || s.ctx.halt.isSome || !s.drained then s
  else match s.areaFault with
    | some c => s.escalate none ⟨c, 0, 0, 0, 0, 0, 0⟩ false
    | none =>
      let s := s.ctx.works.foldl (fun s w => s.mdecSave w.2) s
      let c := s.saveCtx
      let s := { s.writeArea with saved := Tbl.set s.saved s.dev.pre.ctxBase c, ctx := .empty }
      ((s.setDev fun d => { d with
        pre := { d.pre with req := false, done := true, resident := false }, power := { d.power with preemptAt := none }, tlb := [],
        carried := d.carried.filter (· != d.pre.ctxBase) }).msix 1).fwTrace 1

/-- What a restored gang goes on from: ageing anew, bounded waits from the cycle of the restore, masks and barriers looked at again
(R273, R287, R288, R326). -/
def restoreGang (now cycle : Nat) (g : Gang) : Gang :=
  let lane := fun (l : Lane) => { l with age := 0, wait := (match l.wait with
      | .barw (some c) => Wait.barw (some (c + cycle))
      | w => w) }
  let g := { g with lastIssue := cycle, lanes := g.lanes.map fun (l : Nat × Lane) => (l.1, lane l.2) }
  if g.live then ((g.wakeNaps now).settleMasks (List.range 12)).settleReconv else g

/-- Barrier waits of a gang are looked at again before any lane issues (R288). -/
def barriersAgain (s : State) (k : Nat) : State :=
  match s.again (k / 64) (k % 64) (fun w => match w with
    | .bara | .barw _ => true
    | _ => false) remake with
  | .next t => { t with cur := none }
  | _ => s

/-- Grids whose time has passed are released, armed entries look at their signals, gaps are timed anew (R265), barrier waits are looked
at again (R288), and faults held by the drain are taken. -/
def resume (s : State) : State :=
  let s := s.ctx.wheel.foldl (fun s w => if w.release ≤ s.now then s.wheelSlot (w.release / 1000 % 1024) else s) s
  let s := (Tbl.keys s.ctx.triggers).foldl (fun s k => if (s.trigger k).due.isSome then s else s.evalEntry k) s
  let s := (Tbl.keys s.ctx.circles).foldl (fun s c => s.timeGap c) s
  let s := (Tbl.keys s.ctx.gangs).foldl (fun s k => if (s.gang k).live then s.barriersAgain k else s) s
  (Tbl.keys s.ctx.gangs).foldl (fun s k => if (s.gang k).live then s.takeHeld k else s) s

/-- Whether a context area that another Q6 saved fits: PTROOT, PTCLASS, LEASE_NS and the class windows are as its header has them (R326). -/
def areaFits (s : State) : Bool :=
  let base := s.dev.pre.ctxBase
  let here := s.areaHeader
  (List.range 0x60).all fun k => (decide (8 ≤ k) && decide (k < 16)) || (match s.dev.classLoc 14 (base + k) with
    | some l => s.dev.mem.read l == here.getD k 0
    | none => false)

/-- PREEMPT_RESTORE: the context saved at CTXBASE is resident again (R326). It is refused while a sensor is near its trip point (R347),
where no context was saved, and where one that a checkpoint carried from another Q6 does not fit. (DESIGN CHOICE, assumption 53; DEDUCED,
assumption 54) -/
def restoreContext (s : State) : State :=
  match Tbl.find? s.saved s.dev.pre.ctxBase with
  | none => s
  | some c =>
    if s.dev.pre.resident || s.dev.power.tripped || (s.dev.carried.contains s.dev.pre.ctxBase && !s.areaFits) then s
    else
      let c := { c with
        gangs := c.gangs.map fun g => (g.1, restoreGang s.now s.dev.cycle g.2),
        mills := c.mills.map fun m => (m.1, { m.2 with ctxs := m.2.ctxs.map fun x => { x with last := s.now } }),
        teams := c.teams.map fun t => (t.1, { t.2 with sectors := t.2.sectors.map fun x => (x.1, { x.2 with expiry := none }) }),
        order := c.order.map fun o => (o.1, .start s.ticks), stashOld := [] }
      let owed := (s.ctx.grids.filter fun g => 2 ^ 20 ≤ g.1).map (·.2)
      let s := (owed.foldl owePair { s with ctx := c }).setDev fun d => { d with pre := { d.pre with req := false, done := false, resident := true } }
      (if c.fq.isEmpty then s else s.msix 0).resume.fwTrace 2

/-! Halt and dump. -/

/-- A reduction access in the fault-hold queues: each of its held lanes is dropped and logged with the bref of its own first byte (R327). -/
def dropHeld (s : State) (id : Nat) : State :=
  match s.access? id with
  | none => s
  | some x =>
    let held := x.reqs.filter fun q => Tbl.mem x.stall q.lane
    let s := held.foldl (fun s q => s.logError x.grid x.gridId 2 x.core (s.gang x.gang).gangIdx (errAt cHALTED x.handle q.off) 0) s
    s.keepAccess id { x with reqs := x.reqs.filter (fun q => !Tbl.mem x.stall q.lane), stall := [] }

/-- HALT_BROADCAST (R327): tiles in hand finish, pending tokens take HALTED with no faulting byte (R184), and held reductions are dropped and
logged. Its instant is the DTIME of the halt (R329, R369). -/
def broadcastHalt (s : State) : State :=
  match s.ctx.halt with
  | none => s
  | some h =>
    if h.broadcast then s
    else
      let s := s.ctx.works.foldl (fun s w => match w.2.job with
        | .carter _ _ hand .. => hand.foldl (fun s t => { s.tileMoves w.1 t.i3 true with eng := none }) s
        | _ => s) s
      let s := s.ctx.redHold.foldl dropHeld s
      let s := s.setCtx fun c => { c with
        redHold := [], halt := some { h with broadcast := true, time := s.now % 2 ^ 64 },
        gangs := c.gangs.map fun g => (g.1, { (Tbl.keys g.2.tokens).foldl (fun g r =>
          g.setS r (BitVec.ofNat 32 (tokenValue cHALTED 0))) g.2 with
            tokens := []
            engFault := g.2.engFault.filter fun x => !Tbl.mem g.2.tokens x.1
            engInfo := g.2.engInfo.filter fun x => !Tbl.mem g.2.tokens x.1 }) }
      ((s.setDev fun d => { d with pre := { d.pre with req := false } }).msix 2).fwTrace 3

/-- A section of the dump: TYPE, CORE, its counts, its body, and body offsets whose reading meets a fault, with the cause. -/
structure Section where
  type : Nat
  core : Nat
  counts : Nat
  body : List Byte
  bad : List (Nat × Nat)
  deriving DecidableEq, Repr

/-- The key of what firmware's reads for the dump ask of other devices. -/
def dumpAsk : Nat := 2 ^ 67

/-- Firmware's read of memory for the dump, from a buffer of any kind that memory stands behind: the bytes, or a cause. Firmware takes no page
faults. (DESIGN CHOICE, assumption 55) -/
def fwRead (s : State) (h off n : Nat) : Port (Except Nat (List Byte)) :=
  let e := s.entry (h % 4096)
  if h ≥ 4096 then .ok (.error cHANDLE)
  else if off + n > e.length then .ok (.error cBOUNDS)
  else if e.kind = 5 then match s.remoteRead e h off n with
    | .ok bs => .ok (.ok bs)
    | .fail e => .ok (.error e.cause)
    | .miss .. => .ok (.error cPAGEFATAL)
    | .away w => .away w
  else if e.kind ≠ 1 && e.kind ≠ 4 && e.kind ≠ 7 then .ok (.error cHANDLE)
  else match s.rangePieces e h off n with
    | .ok ps => (match s.readPieces h ps off true with
      | .ok (_, some _) => .ok (.error cPOISON)
      | .ok (bs, none) => .ok (.ok bs)
      | .error e => .ok (.error e.cause))
    | .fail e => .ok (.error e.cause)
    | _ => .ok (.error cPAGEFATAL)

/-- One read of firmware's after another. -/
def eachPort {α β : Type} (f : α → Port β) : List α → Port (List β)
  | [] => .ok []
  | a :: as => (f a).bind fun b => (eachPort f as).bind fun bs => .ok (b :: bs)

/-- The barrier table of a kernel: (value, scope) of each declaration (R328); none where the trailer is missing or malformed. -/
def barrierTable (s : State) (r : List Byte) : Port (List (Nat × Nat)) :=
  let at' := Rec.codeOff r - 8
  if Rec.codeOff r < 8 then .ok []
  else (s.fwRead (Rec.codeBuf r) at' 8).bind fun
    | .error _ => .ok []
    | .ok t =>
      let w := ofBytes t
      let n := w % 2 ^ 16
      if w / 2 ^ 16 ≠ 0xBA77E500 * 2 ^ 16 || at' < 8 * n then .ok []
      else (s.fwRead (Rec.codeBuf r) (at' - 8 * n) (8 * n)).bind fun
        | .ok bs => .ok ((chunks 8 n bs).map fun b => (ofBytes b % 2 ^ 32, bits (ofBytes b) 32 2))
        | .error _ => .ok []

/-- A barrier entry (R386), and a cause where its object cannot be read. -/
def barrierEntry (obj : Except Nat (List Byte)) (gridId scope core teamIdx ref : Nat) : List Byte × Option Nat :=
  let tail := toBytes 4 (gridId + scope * 2 ^ 16 + core * 2 ^ 24) ++ toBytes 4 teamIdx ++ toBytes 8 ref
  match obj with
  | .ok b => (slice b 0 16 ++ tail, none)
  | .error c => (toBytes 16 0 ++ tail, some c)

/-- The declared objects of a grid: one per team for team scope, one per grid otherwise. -/
def gridObjects (s : State) (k : Nat) (g : Grid) : Port (List (List Byte × Option Nat)) :=
  let r := g.record
  let teams := (s.activeCores.flatMap s.teamsOn).filter fun t => (s.team t).grid == k
  (s.barrierTable r).bind fun tbl => (eachPort (fun (d : Nat × Nat) =>
    if d.2 = 0 then (.ok (teams.map fun t =>
      let x := s.team t
      barrierEntry (.ok ((s.core (teamCore t)).pool.readBytes (x.stashRun + d.1) 16)) (Rec.gridId r) 0 (teamCore t) x.teamIdx d.1) : Port (List (List Byte × Option Nat)))
    else (s.fwRead (Rec.args r / 2 ^ 52) (Rec.args r % 2 ^ 52 + d.1) 8).bind fun
      | .error c => .ok [barrierEntry (.error c) (Rec.gridId r) d.2 0xFF 0 0]
      | .ok b => (s.fwRead (ofBytes b / 2 ^ 52) (ofBytes b % 2 ^ 52) 16).bind fun o =>
        .ok [barrierEntry o (Rec.gridId r) d.2 0xFF 0 (ofBytes b)]) tbl).bind fun xs => .ok xs.flatten

/-- The bad sectors of a core's memories (R330) among n bytes from a place of the core block, as offsets in a body where those bytes stand
at `o`. -/
def badIn (s : State) (c a n o : Nat) : List (Nat × Nat) :=
  ((s.core c).bad.filter fun i => decide (a < 64 * i + 64) && decide (64 * i < a + n)).map fun i => (o + (64 * i - a), cPOISON)

/-- Parts of a section body, one after another: bytes, the place of the core block they are read from (none: from no memory of R123), and
offsets of their own that are bad. -/
def bodyOf (s : State) (c : Nat) (ps : List (List Byte × Option Nat × List Nat)) : List Byte × List (Nat × Nat) :=
  ps.foldl (fun (x : List Byte × List (Nat × Nat)) p =>
    (x.1 ++ p.1, x.2 ++ (match p.2.1 with
      | some a => s.badIn c a p.1.length x.1.length
      | none => []) ++ p.2.2.map fun o => (x.1.length + o, cPOISON))) ([], [])

/-- Sections 2, 5 and 6 of a core (R386). -/
def coreState (s : State) (c : Nat) : Section :=
  let b := s.bodyOf c ((s.teamsOn c).flatMap fun t =>
    [((s.gangsOf t).flatMap fun g => (List.range 64).flatMap (fun l => s.laneRecordOf (g.lane l)) ++ gangRecordOf g, none, []),
     ((s.core c).pool.readBytes (s.team t).saveRun 4096, some (s.team t).saveRun, []), (s.regRegion t, some (s.team t).regRun, [])])
  ⟨2, c, 0, b.1, b.2⟩
def coreStash (s : State) (c : Nat) : Section :=
  let b := s.bodyOf c ((s.teamsOn c).map fun t => ((s.core c).pool.readBytes (s.team t).stashRun (s.fstash t), some (s.team t).stashRun,
    ((s.team t).sectors.filter fun y => y.2.poison).map fun y => 64 * y.1))
  ⟨5, c, 0, b.1, b.2⟩
def coreTiles (s : State) (c : Nat) : Section :=
  let b := s.bodyOf c ((s.teamsOn c).flatMap (fun t =>
      (s.team t).tiles.map (fun i => (tileBytes (Tbl.get Tile.zero (s.core c).acc i), some (0x180000 + 16384 * i), [])) ++ [(s.statusWords c t, none, [])]) ++
    ((List.range 4).filter fun k => (Tbl.get Slot.free (s.core c).slots k).state != .free).flatMap fun k =>
      let r := s.slotRecord c k
      [(r.take 64, none, []), (r.drop 64, some (0x200000 + 98304 * k), [])])
  ⟨6, c, 0, b.1, b.2⟩

/-- Section 4: walks, triggers, circles, and the token table. -/
def engineState (s : State) : Section :=
  let walks := s.ctx.works.filterMap fun w => s.walkRecord w.2
  let trigs := (s.ctx.triggers.filter fun t => t.2.state != .idle).map fun t => s.triggerRecord t.1
  let circs := (s.ctx.circles.filter fun c => c.2.state != .free).map fun c => s.circleRecord c.1
  let toks := (s.ctx.works.filter fun w => !w.2.orphan).map fun w => s.tokenEntry w.2
  ⟨4, 0xFF, walks.length % 2 ^ 16 + trigs.length % 2 ^ 16 * 2 ^ 16 + circs.length % 2 ^ 16 * 2 ^ 32,
   walks.flatten ++ trigs.flatten ++ circs.flatten ++ toBytes 32 toks.length ++ toks.flatten, []⟩

/-- The entries of the error log that the host has not read, oldest first (R386). -/
def unreadLog (s : State) : List LogEntry :=
  (s.ctx.log.zipIdx.filter fun x => !s.ctx.logSeen.contains ((s.ctx.logWrite - s.ctx.log.length + x.2) % 4096)).map (·.1)

/-- The sections in their order (R329). -/
def sections (s : State) : Port (List Section) :=
  (eachPort (fun (g : Nat × Grid) => s.gridObjects g.1 g.2) (s.ctx.grids.filter fun g => g.1 < 256)).bind fun xs =>
    let objs := xs.flatten
    let cs := s.activeCores
    .ok ([⟨1, 0xFF, 0, s.unreadLog.flatMap logBytes, []⟩] ++ cs.map s.coreState ++
      [⟨3, 0xFF, 0, objs.flatMap (·.1), objs.zipIdx.filterMap fun x => x.1.2.map fun c => (32 * x.2, c)⟩, s.engineState] ++
      cs.map s.coreStash ++ cs.map s.coreTiles)

/-- What is written of the dump: the bytes after the header, how many section headers they hold, a second fault's cause, whether DUMPSIZE cut
it short, and whether the port failed in it. -/
structure Written where
  bytes : List Byte
  heads : Nat
  fault : Option Nat
  trunc : Bool
  down : Bool
  deriving DecidableEq, Repr

/-- A piece of the dump: whether it is a section header, its bytes, and the cause that its reading meets (R330). -/
structure DumpPiece where
  head : Bool
  bytes : List Byte
  fault : Option Nat
  deriving DecidableEq, Repr

/-- The pieces of a section: its header, then 1 024 bytes at a time (R330). -/
def pieces (x : Section) : List DumpPiece :=
  let hd := toBytes 8 (x.type + x.core * 2 ^ 8) ++ toBytes 8 x.body.length ++ toBytes 8 x.counts ++ toBytes 8 0
  ⟨true, hd, none⟩ :: (chunks 1024 (ceilDiv x.body.length 1024) x.body).zipIdx.map fun (b, i) =>
    ⟨false, b, (x.bad.find? fun y => y.1 / 1024 == i).map (·.2)⟩

/-- Pieces are written in order until one meets a fault, or reaches DUMPSIZE: of a body's piece the bytes before it are still written, a section
header is written whole or not at all. The host port may fail at any piece. (DESIGN CHOICE, assumption 55) -/
def writePiecesUpTo (s : State) (limit : Nat) : List DumpPiece → Written → Written
  | [], w => w
  | p :: rest, w =>
    if s.pickFor 30 w.bytes.length 2 = 1 then { w with down := true }
    else if p.fault.isSome then { w with fault := p.fault }
    else if 256 + w.bytes.length + p.bytes.length > limit then
      { w with trunc := true, bytes := w.bytes ++ (if p.head then [] else p.bytes.take (limit - 256 - w.bytes.length)) }
    else writePiecesUpTo s limit rest { w with bytes := w.bytes ++ p.bytes, heads := w.heads + boolNat p.head }

/-- The final header (R329). -/
def dumpHeader (h : Halt) (w : Written) : List Byte :=
  let status := boolNat (w.fault.isNone && !w.trunc) + 2 * boolNat w.fault.isSome + 4 * boolNat h.nested + 8 * boolNat w.trunc
  let len := 256 + w.bytes.length
  slice (toBytes 8 0xD00006 ++ toBytes 4 status ++ toBytes 4 (h.cause % 128) ++ toBytes 8 h.time ++ toBytes 8 len ++
    toBytes 4 (if h.gridId = 0xFFFF then 0xFFFFFF else h.gridId + h.core * 2 ^ 16 + h.gangIdx * 2 ^ 24) ++ toBytes 4 h.trap.tpc ++ toBytes 4 h.trap.tresume ++
    toBytes 4 h.trap.info ++ toBytes 8 h.trap.addr ++ toBytes 8 h.trap.lanes.toNat ++ toBytes 4 w.heads ++
    toBytes 4 (w.fault.getD 0 % 128) ++ toBytes 8 (if w.fault.isSome || w.trunc then len else 0)) 0 256

/-- The context is gone: no context is resident (R327, R382). -/
def endContext (s : State) : State :=
  { s with ctx := .empty }.setDev fun d => { d with pre := { d.pre with req := false, done := false, resident := false }, tlb := [] }

/-- The halt record of the telemetry ring. -/
def haltRecord (s : State) (cause status : Nat) : State := s.telemetry 7 (toBytes 4 cause ++ toBytes 4 status)

/-- DUMP_WRITE (R327 to R330). With DUMPSIZE 0, or the host port down, no header is written; where the port fails before the final header, the
first one stands, with STATUS 0. It waits for what other devices are asked for. (DESIGN CHOICE, assumption 55) -/
def writeDump (s : State) : State :=
  match s.ctx.halt with
  | none => s
  | some h =>
    let limit := 4096 * s.dev.pre.dumpSize
    if !h.broadcast || s.awaits dumpAsk then s
    else if limit = 0 || !s.dev.hostUp then ((s.haltRecord h.cause 0).fwTrace 4).endContext
    else match s.sections with
      | .away w => s.askRemote dumpAsk w
      | .ok secs =>
        let w := s.writePiecesUpTo limit (secs.flatMap pieces) ⟨[], 0, none, false, false⟩
        let hd := dumpHeader h w
        let put := fun (s : State) (hd : List Byte) =>
          s.setDev fun d => { d with mem := d.mem.writeBytes (hostBase + d.pre.dumpBase) (hd ++ w.bytes) }
        if w.down then
          ((((put s (patch hd 8 (toBytes 4 0))).haltRecord h.cause 0).fwTrace 4).setDev fun d => { d with hostUp := false }).endContext
        else ((((put s hd).haltRecord h.cause (numAt hd 8 4)).fwTrace 4).msix 3).endContext
      | _ => s

/-- PREEMPT_TIMEOUT: a pre-emption that the controller asked for and that is not done within 10 ms becomes a halt (R347). (DESIGN CHOICE, assumption 10) -/
def preemptLate (s : State) : State :=
  match s.dev.power.preemptAt with
  | some t =>
    if s.dev.pre.resident && !s.dev.pre.done && s.now ≥ t + 10000000 then
      (s.setPower fun p => { p with preemptAt := none }).escalate none ⟨Config.haltCause % 128, 0, 0, 0, 0, 0, 0⟩ false
    else s
  | none => s

end State

def execDeadlockDetect (core gang : Nat) (s : State) : Host.Outcome State Fault Refusal := .next (s.detectDeadlock (gangKey core gang))
def execPreemptReq (s : State) : Host.Outcome State Fault Refusal := .next (s.whenReady State.requestPreempt)
def execContextSave (s : State) : Host.Outcome State Fault Refusal := .next s.saveContext
def execPreemptRestore (s : State) : Host.Outcome State Fault Refusal := .next (s.whenReady State.restoreContext)
def execHaltBroadcast (s : State) : Host.Outcome State Fault Refusal := .next s.broadcastHalt
def execDumpWrite (s : State) : Host.Outcome State Fault Refusal := .next s.writeDump
def execPreemptTimeout (s : State) : Host.Outcome State Fault Refusal := .next s.preemptLate

end Sys2Proof.Machine
end

