-- ==== Sys2Proof/Machine/HostPort.lean ====
section
/-! DEFINITION. The host port (R332 to R334): window A registers, window C, readback (R340), whole-memory checkpoint (R331); boot,
identity, life cycle and debug (R335 to R341). -/

namespace Sys2Proof.Config

open Sys2Proof.Machine

/-- The copy of another Q6's channels that its checkpoint left and this one's host gives it to reload (R326, R331). -/
opaque carriedCopy : Nat → Ckpt

end Sys2Proof.Config

namespace Sys2Proof.Machine

open Sys2Proof State

namespace State

def resident (s : State) : Bool := s.dev.pre.resident

/-- What a read by the host brings. -/
def reply (s : State) (bs : List Byte) : State := s.setHost fun h => { h with lastRead := bs }

/-- A read of n bytes beyond the first block, which in RECOVERY brings zeros (R335). -/
def readReady (s : State) (n : Nat) (f : State → State) : State :=
  if s.dev.sec.bootstat = 1 then f s else s.reply (List.replicate n 0)

/-! Window A. -/

/-- A buffer-table entry is about to change: until BTSYNC its old bytes may still be used (R82). (DEDUCED, assumption 59) -/
def markStale (s : State) (i : Nat) : State :=
  if Tbl.mem s.dev.btStale i then s else s.setDev fun d => { d with btStale := Tbl.set d.btStale i (d.entryBytes i) }

/-- Eight bytes of an entry written through window A. -/
def writeEntry (s : State) (i k v : Nat) : State :=
  (s.markStale i).setDev fun d => d.classWrite 14 (d.host.btBase + 32 * i + 8 * k) (toBytes 8 v)

/-- A timeout register, in nanoseconds, held within its limits (R97, R252). (DEDUCED, assumption 49) -/
def clampTo (lo hi v : Nat) : Nat := min (max v lo) hi

/-- A write of a window A register (R8, R332). Read-only and undefined places ignore it. -/
def writeReg (s : State) (r : HostReg) (v : Nat) : State :=
  match r with
  | .devnum => if s.resident then s else s.setHost fun h => { h with devnum := v % 1024 }
  | .hosterr => s.setHost fun h => { h with hosterr := h.hosterr &&& ((2 ^ 64 - 1) ^^^ v) }
  | .msixstat => s.setHost fun h => { h with msix := h.msix &&& ((2 ^ 64 - 1) ^^^ v) }
  | .half .. => s
  | .other off size =>
    if (size = 4 || size = 8) && off % size = 0 then s else s.setHost fun h => { h with hosterr := h.hosterr ||| 1 }
  | .badRead off size =>
    if (size = 4 || size = 8) && off % size = 0 then s
    else (s.setHost fun h => { h with hosterr := h.hosterr ||| 1 }).reply (List.replicate size 0)
  | .btbase => s.whenReady fun s => if s.resident then s else s.setHost fun h => { h with btBase := v / 2 ^ 17 * 2 ^ 17 }
  | .btentry i k => s.whenReady fun s => s.writeEntry i k v
  | .ptroot => s.whenReady fun s => s.setHost fun h => { h with ptRoot := v / 2 ^ 16 * 2 ^ 16, ptClass := v % 16 }
  | .fqdone => s.whenReady fun s =>
    (s.setHost fun h => { h with fqDone := v % 1024 + bits v 16 2 * 2 ^ 16 }).fqDone (v % 1024) (bits v 16 2)
  | .ctxbase => s.whenReady fun s => s.setDev fun d => { d with pre := { d.pre with ctxBase := v / 2 ^ 30 * 2 ^ 30 } }
  | .dumpbase => s.whenReady fun s => s.setDev fun d => { d with pre := { d.pre with dumpBase := v / 2 ^ 12 * 2 ^ 12 } }
  | .dumpsize => s.whenReady fun s => s.setDev fun d => { d with pre := { d.pre with dumpSize := bits v 12 28 } }
  | .farTimeout => s.whenReady fun s => s.setHost fun h => { h with farTimeout := clampTo 1000000 64000000 v }
  | .hostTimeout => s.whenReady fun s => s.setHost fun h => { h with hostTimeout := clampTo 1000000 64000000 v }
  | .fabricTimeout => s.whenReady fun s => s.setHost fun h => { h with fabricTimeout := clampTo 100000 64000000 v }
  | .pwrcap => s.whenReady fun s => s.setPower fun p => { p with cap := max (v % 2 ^ 12) 600, enabled := bit v 12 }
  | .assaypol => s.whenReady fun s => s.setHost fun h => { h with assayPol := v % 2 }
  | .assayn => s.whenReady fun s => s.setHost fun h => { h with assayN := v % 2 ^ 32 }
  | .telBase => s.whenReady fun s => s.setDev fun d => { d with tel := { d.tel with base := v } }
  | .telSize => s.whenReady fun s => s.setDev fun d => { d with tel := { d.tel with size := v, head := 0, tail := 0 } }
  | .telTail => s.whenReady fun s => s.setDev fun d => { d with tel := { d.tel with tail := v } }
  | .sampleBase => s.whenReady fun s => s.setDev fun d => { d with smp := { d.smp with base := v } }
  | .sampleSize => s.whenReady fun s => s.setDev fun d => { d with smp := { d.smp with size := v, head := 0, tail := 0 } }
  | .sampleTail => s.whenReady fun s => s.setDev fun d => { d with smp := { d.smp with tail := v } }
  | .attnonce k => s.whenReady fun s => s.setDev fun d => { d with sec := { d.sec with attNonce := Tbl.set d.sec.attNonce k v } }
  | .dbgtoken k => s.whenReady fun s => s.setDev fun d => { d with sec := { d.sec with token := Tbl.set d.sec.token k v } }

/-- The channels of a class (R85). -/
def classChannels (c : Nat) : List Nat := (List.range (classShape c).1).map (classChannel c)

/-- Whether a class's window would meet another's in a channel that both have; an empty window meets none (R86). -/
def windowClash (s : State) (c start size : Nat) : Bool :=
  (List.range 15).any fun k =>
    let w := s.dev.window k
    k != c && decide (start < w.wstart + w.wsize ∧ w.wstart < start + size ∧ 0 < size ∧ 0 < w.wsize) &&
      (classChannels c).any fun x => (classChannels k).contains x

/-- A write of a class window register (R86). One past the 32 units of a channel is refused like one that clashes (DESIGN CHOICE,
assumption 83). -/
def writeWindow (s : State) (c v : Nat) : State :=
  let w := s.dev.window c
  let start := bits v 0 5
  let size := bits v 8 6
  let err := w.err && !bit v 14
  let w := if s.resident || size > 32 || start + size > 32 || s.windowClash c start size then { w with err := true }
    else ⟨start, size, err⟩
  s.setDev fun d => { d with classes := Tbl.set d.classes c w }

/-- A write of CWIN: refused while a context is resident (R333). -/
def writeCwin (s : State) (v : Nat) : State :=
  if s.resident then s.setHost fun h => { h with hosterr := h.hosterr ||| 2 } else s.setHost fun h => { h with cwin := v }

/-- BTSYNC: every cached copy of the entry is dropped (R82). -/
def syncEntry (s : State) (i : Nat) : State := s.setDev fun d => { d with btStale := Tbl.erase d.btStale i }

/-- PTSYNC: every cached translation of the page is dropped (R321). -/
def syncPage (s : State) (va : Nat) : State :=
  s.setDev fun d => { d with tlb := d.tlb.filter fun x => x.1 != va / 2 ^ 16 && (match x.2 with
    | [v, z, _, _] => !(decide (v ≤ va ∧ va < v + z))
    | _ => true) }

/-- The fault record that FQNEXT names: the oldest one the host has not read (R321). -/
def oldestUnread (s : State) : Option (Nat × FqRec) :=
  match s.ctx.fq.filter fun r => !r.2.read with
  | [] => none
  | r :: rs => some (rs.foldl (fun (b c : Nat × FqRec) => if c.2.order < b.2.order then c else b) r)

/-- Bit k is 1 while launch slot k is FILLING or HELD (R293). -/
def lbusy (s : State) : Nat := s.dev.launch.slots.foldl (fun m x => if x.2 = .empty then m else m ||| 2 ^ x.1) 0

/-- A class window register (R86). -/
def windowWord (s : State) (c : Nat) : Nat :=
  let w := s.dev.window c
  w.wstart % 32 + w.wsize % 64 * 2 ^ 8 + boolNat w.err * 2 ^ 14

/-- CIRCCTL (R261). -/
def circctlWord (s : State) (c : Nat) : Nat := let x := s.circle c; circleWord x 0 + boolNat x.err * 2 ^ 3

/-- What the host can read of window A (R8, R332): the registers that the manual names, whole. -/
inductive HostView where
  | devid | devnum | lcstate | bootstat | hosterr | cwin | msixstat | lbusy | lreject | btbase | btsync | classWindow (c : Fin 15)
  | ptroot | ptsync | fqstat | fqnext | fqdone | preempt | ctxbase | dumpbase | dumpsize | fqrec (i : Fin 1024) (word : Fin 2)
  | circctl (c : Fin 64) | farTimeout | hostTimeout | fabricTimeout | refdebt (channel : Fin 256)
  | telBase | telSize | telHead | telTail | telDrop | sampleBase | sampleSize | sampleHead | sampleTail | sampleDrop
  | pwrcap | assaypol | assayn | rbDone | rbRequest (word : Fin 4) | rbReply (word : Fin 512) | dbgctl | attnonce (word : Fin 6) | attreq | attrep (word : Fin 64) | dbgnonce (word : Fin 6)
  | dbgtoken (word : Fin 28) | dbgload | certificate (byte : Fin 4096)
  deriving DecidableEq, Repr

/-- Registers of the first block, which answer in RECOVERY too (R335). -/
def HostView.first : HostView → Bool
  | .devid | .devnum | .lcstate | .bootstat | .hosterr | .cwin | .msixstat => true
  | _ => false

/-- The value that the host reads (R8): every register can be read, and a read changes nothing but where R8 gives RC, whose
reads are the events FQNEXT_READ, LREJECT_READ and REFDEBT_READ. BTSYNC, PTSYNC and ATTREQ read 0, since what they ask for is done
at once. -/
def hostRead (s : State) (r : HostView) : Nat :=
  let d := s.dev
  if d.sec.bootstat ≠ 1 && !r.first then 0
  else match r with
  | .devid => 0x4C4D0006
  | .devnum => d.host.devnum
  | .lcstate => d.sec.lcstate
  | .bootstat => d.sec.bootstat
  | .hosterr => d.host.hosterr
  | .cwin => d.host.cwin
  | .msixstat => d.host.msix
  | .lbusy => s.lbusy
  | .lreject => d.launch.rejCause % 128 + d.launch.rejSlot * 2 ^ 8 + d.launch.rejCount * 2 ^ 16 + d.launch.rejDrop * 2 ^ 24
  | .btbase => d.host.btBase
  | .btsync | .ptsync | .attreq => 0
  | .classWindow c => s.windowWord c
  | .ptroot => d.host.ptRoot + d.host.ptClass
  | .fqstat => s.ctx.fq.length + boolNat (s.ctx.fq.length == 1024) * 2 ^ 11
  | .fqnext => match s.oldestUnread with
    | some (i, _) => i + 2 ^ 15
    | none => 0
  | .fqdone => d.host.fqDone
  | .preempt => boolNat d.pre.req + boolNat d.pre.done * 2 + boolNat d.pre.restore * 4 + boolNat d.pre.resident * 8
  | .ctxbase => d.pre.ctxBase
  | .dumpbase => d.pre.dumpBase
  | .dumpsize => d.pre.dumpSize * 2 ^ 12
  | .fqrec i k => numAt (s.fqBytes i) (8 * k.val) 8
  | .circctl c => s.circctlWord c
  | .farTimeout => d.host.farTimeout
  | .hostTimeout => d.host.hostTimeout
  | .fabricTimeout => d.host.fabricTimeout
  | .refdebt c => s.refDebt c
  | .telBase => d.tel.base
  | .telSize => d.tel.size
  | .telHead => d.tel.head
  | .telTail => d.tel.tail
  | .telDrop => d.tel.drop
  | .sampleBase => d.smp.base
  | .sampleSize => d.smp.size
  | .sampleHead => d.smp.head
  | .sampleTail => d.smp.tail
  | .sampleDrop => d.smp.drop
  | .pwrcap => d.power.cap + boolNat d.power.enabled * 2 ^ 12
  | .assaypol => d.host.assayPol
  | .assayn => d.host.assayN
  | .rbDone => boolNat d.host.rbDone
  | .rbRequest k => d.host.rbReq.getD k 0
  | .rbReply k => numAt d.host.rbReply (8 * k.val) 8
  | .dbgctl => d.host.dbgctl
  | .attnonce k => Tbl.get 0 d.sec.attNonce k
  | .attrep k => numAt d.sec.attRep (8 * k.val) 8
  | .dbgnonce k => numAt (slice (Config.nonce d.sec.nonceIndex) 0 48) (8 * k.val) 8
  | .dbgtoken k => Tbl.get 0 d.sec.token k
  | .dbgload => d.sec.dbgLoad
  | .certificate b => (Config.certificate b).toNat

/-- A 4-byte read of a register's low or high half (R332). -/
def hostReadHalf (s : State) (r : HostView) (high : Bool) : Nat := if high then s.hostRead r / 2 ^ 32 % 2 ^ 32 else s.hostRead r % 2 ^ 32

/-- What stands in a register's other half when 4 bytes of it are written (R332): of a W1C register, bits that clear nothing. -/
def otherHalf (s : State) : HostReg → Nat
  | .devnum => s.hostRead .devnum
  | .btbase => s.hostRead .btbase
  | .btentry i k => ofBytes (s.dev.classRead 14 (s.dev.host.btBase + 32 * i.val + 8 * k.val) 8)
  | .ptroot => s.hostRead .ptroot
  | .ctxbase => s.hostRead .ctxbase
  | .dumpbase => s.hostRead .dumpbase
  | .dumpsize => s.hostRead .dumpsize
  | .farTimeout => s.hostRead .farTimeout
  | .hostTimeout => s.hostRead .hostTimeout
  | .fabricTimeout => s.hostRead .fabricTimeout
  | .pwrcap => s.hostRead .pwrcap
  | .assaypol => s.hostRead .assaypol
  | .assayn => s.hostRead .assayn
  | .telBase => s.hostRead .telBase
  | .telSize => s.hostRead .telSize
  | .telTail => s.hostRead .telTail
  | .sampleBase => s.hostRead .sampleBase
  | .sampleSize => s.hostRead .sampleSize
  | .sampleTail => s.hostRead .sampleTail
  | .attnonce k => s.hostRead (.attnonce k)
  | .dbgtoken k => s.hostRead (.dbgtoken k)
  | .hosterr | .msixstat | .fqdone | .half .. | .other .. | .badRead .. => 0

/-- A host write of window A, of 8 bytes or of one half of a register (R332). FQDONE has no field in its high half. -/
def writeHost (s : State) (r : HostReg) (v : Nat) : State :=
  match r with
  | .half true .fqdone => s
  | .half true r => s.writeReg r (s.otherHalf r % 2 ^ 32 + v % 2 ^ 32 * 2 ^ 32)
  | .half false r => s.writeReg r (v % 2 ^ 32 + s.otherHalf r / 2 ^ 32 * 2 ^ 32)
  | r => s.writeReg r v

/-- Host reads of window B return zero (R292). -/
def readWindowB (_ : State) (_off n : Nat) : List Byte := List.replicate n 0

/-- A read of FQNEXT: the record counts as read (R321). -/
def readFqnext (s : State) : State :=
  match s.oldestUnread with
  | none => s.reply (toBytes 8 (s.hostRead .fqnext))
  | some (i, x) => (s.setCtx fun c => { c with fq := Tbl.set c.fq i { x with read := true } }).reply (toBytes 8 (s.hostRead .fqnext))

/-- A read of LREJECT clears it (R293). -/
def readLreject (s : State) : State :=
  (s.setLaunch fun l => { l with rejCause := 0, rejSlot := 0, rejCount := 0, rejDrop := 0 }).reply (toBytes 8 (s.hostRead .lreject))

/-- A read of a REFDEBT record clears PEAK and FORCED (R89). -/
def readRefdebt (s : State) (c : Nat) : State :=
  (s.modChannel c fun x => { x with peak := 0, forced := 0 }).reply (toBytes 8 (s.refDebt c))

/-! Window C (R333). -/

/-- CWIN: BASE in [63:36] and CLASS in [3:0]. (DESIGN CHOICE, assumption 85) -/
def cwinBase (s : State) : Nat := s.dev.host.cwin / 2 ^ 36 * 2 ^ 36
def cwinClass (s : State) : Nat := s.dev.host.cwin % 16

/-- Lines in custody that a range of window C touches: they return home before the host is served (R154). (DEDUCED, assumption 56) -/
def cwinCustody (s : State) (off n : Nat) : List Nat :=
  ((lineCuts (n / 128 + 2) (s.cwinBase + off) n).filterMap fun c => (s.dev.classLoc s.cwinClass c.1).map (· / 128)).filter fun l =>
    Tbl.mem s.ctx.custody l

/-- Bytes at the point, whatever mark a sector carries (DESIGN CHOICE, assumption 72); those beyond the class window read as ones. -/
def windowCBytes (s : State) (off n : Nat) : List Byte :=
  (List.range n).map fun i => match s.dev.classLoc s.cwinClass (s.cwinBase + off + i) with
    | some l => s.dev.mem.read l
    | none => 0xFF

/-- A read of window C. -/
def readWindowC (s : State) (off n : Nat) : State :=
  let s := (s.cwinCustody off n).foldl returnLine s
  s.reply (s.windowCBytes off n)

/-- Entries of the buffer table that a range of class 14 touches. -/
def tableEntries (s : State) (a n : Nat) : List Nat :=
  let base := s.dev.host.btBase
  if a + n ≤ base || base + 131072 ≤ a then []
  else
    let lo := (max a base - base) / 32
    let hi := (min (a + n) (base + 131072) - 1 - base) / 32
    (List.range (hi + 1 - lo)).map (lo + ·)

/-- A write at the point; what lies beyond the class window is discarded. A launch is ordered after it (R180). -/
def writeWindowC (s : State) (off : Nat) (bs : List Byte) : State :=
  let a := s.cwinBase + off
  let s := (s.cwinCustody off bs.length).foldl returnLine s
  let s := if s.cwinClass = 14 then (s.tableEntries a bs.length).foldl markStale s else s
  (lineCuts (bs.length / 128 + 2) a bs.length).foldl (fun s c => match s.dev.classLoc s.cwinClass c.1 with
    | some loc =>
      let (s, w) := s.performWrite loc ((bs.drop (c.1 - a)).take c.2)
      s.setDev fun d => { d with hostWct := max d.hostWct w.wct }
    | none => s) s

/-- What an AtomicOp stores, if it does, from the old bytes and its operands (R332). -/
def atomicOpNew (op : HostOp) (old operands : List Byte) : Option (List Byte) :=
  match op with
  | .plain | .swap => some operands
  | .fetchAdd => some (toBytes old.length (ofBytes old + ofBytes operands))
  | .cas => if operands.take old.length = old then some (operands.drop old.length) else none

/-- An AtomicOp on window C (R332): of 4 or 8 bytes, or 16 for CAS, at its own alignment; the old value is its answer. Of another size or
alignment it does nothing. (PRESUMED, assumption 103) -/
def atomicWindowC (s : State) (off : Nat) (bs : List Byte) (op : HostOp) : State :=
  let n := if op = .cas then bs.length / 2 else bs.length
  if !(n = 4 || n = 8 || (n = 16 && op = .cas)) || off % n ≠ 0 || (op = .cas && bs.length ≠ 2 * n) then s
  else
    let s := s.readWindowC off n
    let old := s.windowCBytes off n
    match atomicOpNew op old bs with
    | some new => s.writeWindowC off new
    | none => s

/-! Readback (R340). -/

/-- The use of one gang slot (R299): in use, and the GRIDID, TEAMIDX and GANGIDX of its gang. -/
def gangSlotBytes (s : State) (k : Nat) : List Byte :=
  let g := s.gang k
  if g.live then toBytes 4 1 ++ toBytes 4 (s.gridIdOf k) ++ toBytes 4 (s.team g.team).teamIdx ++ toBytes 4 g.gangIdx else toBytes 16 0

/-- The debug record of a lane (R341): its index, PC, condition, the offset of the instruction it is blocked in, pending registers. -/
def debugBytes (s : State) (k l : Nat) : List Byte :=
  let x := (s.gang k).lane l
  toBytes 4 l ++ toBytes 4 x.pc ++ toBytes 4 x.cond.code ++ toBytes 4 (if x.cond = .blocked then x.pc else 0) ++ toBytes 16 (s.pendingRegs x)

/-- Debug records exist of a stopped gang's lanes, and only with LANESTEP open (R341). -/
def debugRecords (s : State) (k : Nat) : List Byte :=
  if bit s.dev.sec.debug 1 && (s.gang k).stopped then (List.range 64).flatMap (s.debugBytes k) else []

/-- The code of a unit in a request. (DESIGN CHOICE, assumption 86) -/
def unitCode : RbUnit → Nat
  | .pool c => c | .acc c => 2 ^ 8 + c | .staging c => 2 * 2 ^ 8 + c | .lane c => 3 * 2 ^ 8 + c | .gang c => 4 * 2 ^ 8 + c
  | .team c => 5 * 2 ^ 8 + c | .l2 => 6 * 2 ^ 8 | .mill => 7 * 2 ^ 8 | .engine => 8 * 2 ^ 8 | .trigger => 9 * 2 ^ 8
  | .circle => 10 * 2 ^ 8 | .bufTable => 11 * 2 ^ 8 | .sysreg c => 12 * 2 ^ 8 + c | .telemetry => 13 * 2 ^ 8 | .monitor => 14 * 2 ^ 8
  | .fuse => 15 * 2 ^ 8 | .log => 16 * 2 ^ 8 | .gangSlots c => 17 * 2 ^ 8 + c | .debugLane c => 18 * 2 ^ 8 + c

/-- The bytes of a unit: of L2 each line's number, lease, marks and data; of the engines one job's walk record or progress; of system registers
one, of gang slot index / 4 096. (DESIGN CHOICE, assumption 86) -/
def unitBytes (s : State) (u : RbUnit) (index : Nat) : List Byte :=
  match u with
  | .pool c => s.poolImage c
  | .acc c => (List.range 32).flatMap (fun i => tileBytes (Tbl.get Tile.zero (s.core c).acc i)) ++
      (List.range 32).flatMap fun i => toBytes 4 (Tbl.get Tile.zero (s.core c).acc i).status
  | .staging c => s.slotRecord c (index % 4)
  | .lane c => (List.range 64).flatMap (s.laneRecord (gangKey c (index % 64)))
  | .gang c => s.gangRecord (gangKey c (index % 64))
  | .team c => s.teamRecord (teamKey c (index % 16))
  | .l2 => s.dev.l2.flatMap fun x => toBytes 8 x.1 ++ toBytes 8 x.2.lexp ++ toBytes 8 (boolNat x.2.xdev + x.2.lo.flags * 2 + x.2.hi.flags * 16) ++
      s.dev.mem.readBytes (128 * x.1) 128
  | .mill => s.millSlotBytes (index % 8)
  | .engine => (match s.work? index with
    | some w => (s.walkRecord w).getD (workBytes w)
    | none => [])
  | .trigger => s.triggerRecord (index % 1024)
  | .circle => s.circleRecord (index % 64)
  | .bufTable => s.dev.entryBytes (index % 4096)
  | .sysreg c => toBytes 4 (s.sysRead (gangKey c (index / 4096 % 64)) (index % 4096))
  | .telemetry => toBytes 8 s.dev.tel.head ++ toBytes 8 s.dev.tel.tail ++ toBytes 8 s.dev.tel.drop ++
      toBytes 8 s.dev.smp.head ++ toBytes 8 s.dev.smp.tail ++ toBytes 8 s.dev.smp.drop
  | .monitor => natsBytes ([s.dev.power.cap, boolNat s.dev.power.enabled, s.dev.power.step, boolNat s.dev.power.tripped,
      boolNat s.dev.power.overheated] ++ s.dev.power.temps)
  | .fuse => toBytes 4 s.dev.sec.lcstate ++ toBytes 4 s.dev.sec.minSvn ++ natsBytes s.dev.sec.revoked ++
      natsBytes ((List.range 4).map Config.fuseKey ++ [Config.debugKey]) ++ s.dev.fuseRemaps.flatMap fun c => toBytes 8 c.1 ++ natsBytes (c.2.flatMap fun r => [r.1, r.2])
  | .log => s.logImage
  | .gangSlots c => (List.range 64).flatMap fun k => s.gangSlotBytes (gangKey c k)
  | .debugLane c => s.debugRecords (gangKey c (index % 64))

/-- Entries of the error log that a reply holds whole count as read by the host: the log is drained so (R323, assumption 19). -/
def drainLog (s : State) (off len : Nat) : State :=
  s.setCtx fun c => { c with logSeen := c.logSeen ++ (List.range 4096).filter fun i =>
    off ≤ 32 * i && 32 * i + 32 ≤ off + len && i < c.logWrite && !c.logSeen.contains i }

/-- A request: DONE is 0 until its reply stands in the buffer. While a pre-emption or a halt is under way it waits. -/
def readback (s : State) (u : RbUnit) (index off len : Nat) : State :=
  let s := s.setHost fun h => { h with rbDone := false, rbReq := [unitCode u, index, off, len] }
  if s.dev.pre.req || s.ctx.halt.isSome then { s with inputs := s.inputs ++ [.readbackRequest u index off len] }
  else
    let t := if u = .log then s.drainLog off (min len 4096) else s
    t.setHost fun h => { h with rbDone := true, rbReply := slice (s.unitBytes u index) off (min len 4096) }

/-! Whole-memory checkpoint (R331). -/

/-- The ports that a copy lies behind are up: the host's, and the far one's where the copy is split. -/
def copyReachable (s : State) (both : Bool) : Bool := s.dev.hostUp && (!both || s.dev.farUp)

/-- Dirty L2 sectors go to DRAM, and the channels with their poison map to the tiers outside; a port that fails ends it. (DESIGN CHOICE, assumption 57) -/
def checkpoint (s : State) (both failed : Bool) : State :=
  if s.resident then s
  else
    let s := s.setDev Dev.drainL2
    if failed || !s.copyReachable both then s.memoryRecord 3 0 cFAR
    else
      let c : Ckpt := { both := both, mem := s.dev.mem.filter fun x => x.1 < 2 ^ 39, poison := s.dev.poison.filter fun x => x.1 < 2 ^ 33, saved := s.saved }
      (s.setDev fun d => { d with ckpt := some c }).fwTrace 5

/-- A copy is of the channels alone, in the canonical form of memory. -/
def copySound (c : Ckpt) : Bool :=
  Memory.wf c.mem && (c.mem.all fun x => decide (x.1 < 2 ^ 39)) && (c.poison.all fun x => decide (x.1 < 2 ^ 33)) && c.saved.all fun x => x.2.cores.all fun k => Memory.wf k.2.pool

/-- A copy comes back into the channels, with the context areas it holds: the last checkpoint's, or one that another Q6 made (R326).
(DESIGN CHOICE, assumption 57) -/
def reload (s : State) (failed other : Bool) : State :=
  if s.resident then s
  else
    let copy := if other then some (Config.carriedCopy s.ticks) else s.dev.ckpt
    match copy with
    | none => s
    | some c =>
      if failed || !s.copyReachable c.both then s.memoryRecord 3 0 cFAR
      else if !copySound c then s
      else
        let t := ({ s with saved := c.saved } : State).setDev fun d =>
          let d := d.drainL2
          { d with mem := c.mem ++ d.mem.filter fun x => 2 ^ 39 ≤ x.1, past := [], poison := c.poison ++ d.poison.filter fun x => 2 ^ 33 ≤ x.1,
                   l2 := d.l2.map fun x => (x.1, { x.2 with lo := .absent, hi := .absent }),
                   carried := if other then Tbl.keys c.saved else [] }
        t.fwTrace 6

/-! Boot, identity, life cycle (R335 to R338). -/

def setSec (s : State) (f : Security → Security) : State := s.setDev fun d => { d with sec := f d.sec }

/-- What the boot ROM finds of an image: BOOTSTAT. A header whose length is not the body's reads BADMAGIC (DESIGN CHOICE, assumption 89). -/
def bootCheck (x : Security) (f : FwImage) : Nat :=
  let slots := (List.range 4).filter fun i => Config.fuseKey i == f.keyHash
  if !f.present then 6
  else if f.magic ≠ 0x4C4D4657 || f.length ≠ f.body.length then 2
  else if slots.isEmpty then 3
  else if slots.all x.revoked.contains then 4
  else if !signatureValid f.keyHash (sha384 f.body) f.signature then 3
  else if f.svn.toNat < x.minSvn then 5 else 1

/-- RESET: everything but the fuses, memory, saved areas, the running time and the outside world starts anew (R335, R338, R382). (PRESUMED, assumption 12) -/
def resetWith (s : State) (f : FwImage) : State :=
  let x := s.dev.sec
  let sec : Security := { Security.reset with
    lcstate := x.lcstate, bootstat := bootCheck x f, minSvn := x.minSvn, revoked := x.revoked, fwSvn := f.svn.toNat, fwBody := f.body,
    debug := if x.lcstate = 0 || x.lcstate = 3 then 15 else 0, nonceIndex := x.nonceIndex + 1, keyAlive := x.keyAlive }
  { State.reset with
    dev := { Dev.reset with
      mem := s.dev.mem, poison := s.dev.poison, dtime := s.dev.dtime, sec := sec, hostUp := s.dev.hostUp, farUp := s.dev.farUp,
      channels := s.dev.fuseRemaps.map fun c => (c.1, Channel.withRemaps c.2), fuseRemaps := s.dev.fuseRemaps,
      ckpt := s.dev.ckpt, carried := s.dev.carried, outbox := s.dev.outbox, time := { Dev.reset.time with lastSync := s.dev.dtime } },
    saved := s.saved, inputs := s.inputs, ticks := s.ticks }

/-- The attestation report (R337). -/
def attestation (s : State) : List Byte :=
  let x := s.dev.sec
  let body := slice (toBytes 4 0x41545354 ++ toBytes 4 (x.lcstate % 4 + s.dev.host.devnum % 1024 * 2 ^ 16) ++ toBytes 4 x.fwSvn ++
    toBytes 4 (x.debug % 16 + x.lcstate % 4 * 2 ^ 8) ++ toBytes 48 Config.romHash ++ toBytes 48 (sha384 x.fwBody) ++
    toBytes 48 (sha384 (Config.fuseImage x.lcstate x.minSvn x.revoked)) ++ (List.range 6).flatMap (fun k => toBytes 8 (Tbl.get 0 x.attNonce k)) ++ toBytes 8 (s.now % 2 ^ 64)) 0 0x1A0
  body ++ slice (Config.sign (x.lcstate == 3) (sha384 body)) 0 96

/-- The life-cycle state advances; entry into RMA zeroes every memory and destroys the key (R338). -/
def advanceLife (s : State) : State :=
  let k := min (s.dev.sec.lcstate + 1) 3
  let s := s.setSec fun x => { x with lcstate := k, debug := if k = 3 then 15 else if x.lcstate = 0 then 0 else x.debug }
  if k ≠ 3 || s.dev.sec.keyAlive = false then s
  else
    let s := { s with ctx := .empty, saved := [] }.setSec fun x => { x with keyAlive := false, token := [], attNonce := [], attRep := [], fwBody := [] }
    (s.setDev fun d => { d with
      mem := d.mem.filter fun x => 2 ^ 39 ≤ x.1, past := [], poison := [], l2 := [], evmax := [], btStale := [], tlb := [], cores := [],
      launch := { d.launch with slots := [] }, host := { d.host with rbReply := [], rbReq := [], rbDone := false, lastRead := [] }, carried := [],
      power := { d.power with temps := [] }, pre := { d.pre with resident := false, req := false, done := false } })

/-! Debug tokens and debug control (R339, R341). -/

/-- The loaded token's bytes. -/
def tokenBytes (s : State) : List Byte := (List.range 28).flatMap fun k => toBytes 8 (Tbl.get 0 s.dev.sec.token k)

/-- Whether a token opens its features (R339). -/
def tokenOk (s : State) (t : List Byte) : Bool :=
  let x := s.dev.sec
  let body := slice t 0 128
  numAt t 0 4 == 0x4442474B && bits (numAt t 4 4) 4 28 == 0 && numAt t 8 8 == 0 && numAt t 0x70 16 == 0 &&
  signatureValid Config.debugKey (sha384 body) (slice t 128 96) && numAt t 0x10 48 == Config.identityHash &&
  slice t 0x40 48 == slice (Config.nonce x.nonceIndex) 0 48 && (x.lcstate == 1 || x.lcstate == 2)

/-- Renward has checked the token: an accepted one opens its features, and the host that loaded it counts as an attached debugger. (DESIGN CHOICE,
assumption 57) -/
def checkToken (s : State) : State :=
  let t := s.tokenBytes
  if s.tokenOk t then s.setSec fun x => { x with
    debug := x.debug % 16 ||| bits (numAt t 4 4) 0 4, nonceIndex := x.nonceIndex + 1, dbgLoad := 3, attached := true }
  else s.setSec fun x => { x with dbgLoad := 2 }

/-- DBGLOAD: it reads 1 while Renward checks the token, which is done later (R339). -/
def loadToken (s : State) : State :=
  if s.dev.sec.dbgLoad = 1 then s.checkToken
  else { s.setSec fun x => { x with dbgLoad := 1 } with inputs := s.inputs ++ [.dbgload] }

/-- Lanes stopped at a BKPT move past it. (DESIGN CHOICE, assumption 57) -/
def leaveBkpt (g : Gang) : Gang :=
  g.modLanes (laneList (g.lanesWhere fun _ l => l.cond == .blocked && l.wait == .debug)) fun _ l => l.advance ((l.pc + 4) % 2 ^ 32)

/-- A DBGCTL action: it needs LANESTEP. The register keeps what was asked last: CORENUM, gang slot and action (R8; DESIGN CHOICE,
assumption 85). -/
def debugControl (s : State) (k action : Nat) (f : Gang → Gang) : State :=
  let s := s.setHost fun h => { h with dbgctl := k / 64 % 256 + k % 64 * 2 ^ 8 + action * 2 ^ 16 }
  if bit s.dev.sec.debug 1 && (s.gang k).live then (s.modGang k f).setSec fun x => { x with attached := true } else s

end State

/-! Events. -/

def execRegisterWrite (reg : HostReg) (value : DWord) (s : State) : Host.Outcome State Fault Refusal := .next (s.writeHost reg value.toNat)
def execBtsync (index : Fin 4096) (s : State) : Host.Outcome State Fault Refusal := .next (s.whenReady fun s => s.syncEntry index)
def execPtsync (va : DWord) (s : State) : Host.Outcome State Fault Refusal := .next (s.whenReady fun s => s.syncPage va.toNat)
def execFqnextRead (s : State) : Host.Outcome State Fault Refusal := .next (s.readReady 8 State.readFqnext)
def execLrejectRead (s : State) : Host.Outcome State Fault Refusal := .next (s.readReady 8 State.readLreject)
def execRefdebtRead (channel : Nat) (s : State) : Host.Outcome State Fault Refusal :=
  .next (if channel < 256 then s.readReady 8 fun s => s.readRefdebt channel else s)
def execCwinWrite (value : DWord) (s : State) : Host.Outcome State Fault Refusal := .next (s.writeCwin value.toNat)
def execClassWindowWrite (cls : Fin 15) (value : Word) (s : State) : Host.Outcome State Fault Refusal :=
  .next (s.whenReady fun s => s.writeWindow cls value.toNat)
def execWindowCRead (off n : Nat) (s : State) : Host.Outcome State Fault Refusal := .next (s.readReady n fun s => s.readWindowC off n)
def execWindowCWrite (off : Nat) (write : HostWrite) (s : State) : Host.Outcome State Fault Refusal :=
  .next (s.whenReady fun s => if write.op = .plain then s.writeWindowC off write.bytes else s.atomicWindowC off write.bytes write.op)
def execReadbackRequest (unit : RbUnit) (index off len : Nat) (s : State) : Host.Outcome State Fault Refusal :=
  .next (s.whenReady fun s => s.readback unit index off len)
def execCheckpoint (both failed : Bool) (s : State) : Host.Outcome State Fault Refusal := .next (s.whenReady fun s => s.checkpoint both failed)
def execReload (copy : CopyLoad) (s : State) : Host.Outcome State Fault Refusal := .next (s.whenReady fun s => s.reload copy.failed copy.other)
def execReset (image : FwImage) (s : State) : Host.Outcome State Fault Refusal := .next (s.resetWith image)
def execSvnRaise (svn : Word) (s : State) : Host.Outcome State Fault Refusal :=
  .next (s.whenReady fun s => s.setSec fun x => { x with minSvn := max x.minSvn svn.toNat })
def execAttreq (s : State) : Host.Outcome State Fault Refusal :=
  .next (s.whenReady fun s => s.setSec fun x => { x with attRep := s.attestation })
def execDbgload (s : State) : Host.Outcome State Fault Refusal := .next (s.whenReady State.loadToken)
def execDbgctlStop (core gang : Nat) (s : State) : Host.Outcome State Fault Refusal :=
  .next (s.whenReady fun s => s.debugControl (gangKey core gang) 0 fun g => { g with stopped := true, stepOne := false })
def execDbgctlStep (core gang : Nat) (s : State) : Host.Outcome State Fault Refusal :=
  .next (s.whenReady fun s => s.debugControl (gangKey core gang) 1 fun g => if g.stopped then { State.leaveBkpt g with stepOne := true } else g)
def execDbgctlResume (core gang : Nat) (s : State) : Host.Outcome State Fault Refusal :=
  .next (s.whenReady fun s => s.debugControl (gangKey core gang) 2 fun g => if g.stopped then { State.leaveBkpt g with stopped := false, stepOne := false } else g)
def execLifeCycleAdvance (s : State) : Host.Outcome State Fault Refusal := .next s.advanceLife

end Sys2Proof.Machine
end

