-- ==== Sys2Proof/Machine/Uniform.lean ====
section
/-! DEFINITION. The uniform scalar set (R224, R225) and RDLANE (R223). -/

namespace Sys2Proof.Machine

open Sys2Proof

/-- A result of two uniform registers. -/
def sOp (d a b : Nat) (f : Word → Word → Word) : At → State → Res := gangOp fun g => g.setS d (f (g.sreg a) (g.sreg b))

/-- NOP does nothing beyond the checks of R65. -/
def execNop (z : ZReg) (s : State) : Host.Outcome State Fault Refusal := issue (.nop z) (gangOp id) s

def execSadd (z : ZReg) (d a b : SReg) (s : State) : Host.Outcome State Fault Refusal :=
  issue (.sadd z d a b) (sOp d a b (· + ·)) s
def execSsub (z : ZReg) (d a b : SReg) (s : State) : Host.Outcome State Fault Refusal :=
  issue (.ssub z d a b) (sOp d a b (· - ·)) s
def execSmul (z : ZReg) (d a b : SReg) (s : State) : Host.Outcome State Fault Refusal :=
  issue (.smul z d a b) (sOp d a b (· * ·)) s
def execSand (z : ZReg) (d a b : SReg) (s : State) : Host.Outcome State Fault Refusal :=
  issue (.sand z d a b) (sOp d a b (· &&& ·)) s
def execSor (z : ZReg) (d a b : SReg) (s : State) : Host.Outcome State Fault Refusal :=
  issue (.sor z d a b) (sOp d a b (· ||| ·)) s
def execSxor (z : ZReg) (d a b : SReg) (s : State) : Host.Outcome State Fault Refusal :=
  issue (.sxor z d a b) (sOp d a b (· ^^^ ·)) s
def execSshl (z : ZReg) (d a b : SReg) (s : State) : Host.Outcome State Fault Refusal :=
  issue (.sshl z d a b) (sOp d a b fun x y => x <<< (y.toNat % 32)) s
def execSshr (z : ZReg) (d a b : SReg) (s : State) : Host.Outcome State Fault Refusal :=
  issue (.sshr z d a b) (sOp d a b fun x y => x >>> (y.toNat % 32)) s
def execSsar (z : ZReg) (d a b : SReg) (s : State) : Host.Outcome State Fault Refusal :=
  issue (.ssar z d a b) (sOp d a b fun x y => sar32 x (y.toNat % 32)) s
def execSmov (z : ZReg) (d a : SReg) (s : State) : Host.Outcome State Fault Refusal :=
  issue (.smov z d a) (sOp d a a fun x _ => x) s
def execSmin (z : ZReg) (d a b : SReg) (uns : Bool) (s : State) : Host.Outcome State Fault Refusal :=
  issue (.smin z d a b uns) (sOp d a b fun x y => if uns then minU x y else minS x y) s
def execSmax (z : ZReg) (d a b : SReg) (uns : Bool) (s : State) : Host.Outcome State Fault Refusal :=
  issue (.smax z d a b uns) (sOp d a b fun x y => if uns then maxU x y else maxS x y) s
def execScmp (z : ZReg) (zd : ZReg) (a b : SReg) (p : Pred) (uns : Bool) (s : State) : Host.Outcome State Fault Refusal :=
  issue (.scmp z zd a b p uns) (gangOp fun g => g.setZ zd (Pred.holds p uns (g.sreg a) (g.sreg b))) s
def execSaddi (u : UGuard) (d a : SReg) (imm : Word) (s : State) : Host.Outcome State Fault Refusal :=
  issue (.saddi u d a imm) (sOp d a a fun x _ => x + imm) s
def execSli (u : UGuard) (d : SReg) (imm : Word) (s : State) : Host.Outcome State Fault Refusal :=
  issue (.sli u d imm) (sOp d d d fun _ _ => imm) s
def execScmpi (u : UGuard) (zd : ZReg) (a : SReg) (p : Pred) (uns : Bool) (imm : Word) (s : State) :
    Host.Outcome State Fault Refusal :=
  issue (.scmpi u zd a p uns imm) (gangOp fun g => g.setZ zd (Pred.holds p uns (g.sreg a) imm)) s

/-- RDLANE of R223. -/
def execRdlane (u : UGuard) (d : SReg) (r : VReg) (ln : Fin 128) (first : Bool) (s : State) : Host.Outcome State Fault Refusal :=
  issue (.rdlane u d r ln first)
    (fun a => gangOp (fun g =>
      let l := if first then (laneList a.set).headD 64 else ln.val
      g.setS d (if (laneList a.set).contains l then (g.lane l).reg r else 0)) a) s

end Sys2Proof.Machine
end

