-- ==== Sys2Proof/Machine/Dispatch.lean ====
section
/-! DEFINITION. The meaning of each constructor of Instr: one direct call per arm. -/

namespace Sys2Proof.Machine

open Sys2Proof

def exec (i : Instr) (s : State) : Host.Outcome State Fault Refusal :=
  match i with
  | .iadd g vd va vb => Sys2Proof.Machine.execIadd g vd va vb s
  | .isub g vd va vb => Sys2Proof.Machine.execIsub g vd va vb s
  | .imul g vd va vb => Sys2Proof.Machine.execImul g vd va vb s
  | .imulhs g vd va vb => Sys2Proof.Machine.execImulhs g vd va vb s
  | .imulhu g vd va vb => Sys2Proof.Machine.execImulhu g vd va vb s
  | .imin g vd va vb => Sys2Proof.Machine.execImin g vd va vb s
  | .imax g vd va vb => Sys2Proof.Machine.execImax g vd va vb s
  | .umin g vd va vb => Sys2Proof.Machine.execUmin g vd va vb s
  | .umax g vd va vb => Sys2Proof.Machine.execUmax g vd va vb s
  | .and g vd va vb => Sys2Proof.Machine.execAnd g vd va vb s
  | .or g vd va vb => Sys2Proof.Machine.execOr g vd va vb s
  | .xor g vd va vb => Sys2Proof.Machine.execXor g vd va vb s
  | .andn g vd va vb => Sys2Proof.Machine.execAndn g vd va vb s
  | .shl g vd va vb => Sys2Proof.Machine.execShl g vd va vb s
  | .shr g vd va vb => Sys2Proof.Machine.execShr g vd va vb s
  | .sar g vd va vb => Sys2Proof.Machine.execSar g vd va vb s
  | .rotl g vd va vb => Sys2Proof.Machine.execRotl g vd va vb s
  | .popc g vd va => Sys2Proof.Machine.execPopc g vd va s
  | .clz g vd va => Sys2Proof.Machine.execClz g vd va s
  | .brev g vd va => Sys2Proof.Machine.execBrev g vd va s
  | .mov g vd va => Sys2Proof.Machine.execMov g vd va s
  | .fadd g vd va vb => Sys2Proof.Machine.execFadd g vd va vb s
  | .fsub g vd va vb => Sys2Proof.Machine.execFsub g vd va vb s
  | .fmul g vd va vb => Sys2Proof.Machine.execFmul g vd va vb s
  | .fmin g vd va vb => Sys2Proof.Machine.execFmin g vd va vb s
  | .fmax g vd va vb => Sys2Proof.Machine.execFmax g vd va vb s
  | .frcp g vd va => Sys2Proof.Machine.execFrcp g vd va s
  | .frsq g vd va => Sys2Proof.Machine.execFrsq g vd va s
  | .fsqrt g vd va => Sys2Proof.Machine.execFsqrt g vd va s
  | .fexp2 g vd va => Sys2Proof.Machine.execFexp2 g vd va s
  | .flog2 g vd va => Sys2Proof.Machine.execFlog2 g vd va s
  | .hadd2 g vd va vb => Sys2Proof.Machine.execHadd2 g vd va vb s
  | .hmul2 g vd va vb => Sys2Proof.Machine.execHmul2 g vd va vb s
  | .hmax2 g vd va vb => Sys2Proof.Machine.execHmax2 g vd va vb s
  | .cvtif g vd va => Sys2Proof.Machine.execCvtif g vd va s
  | .cvtfi g vd va => Sys2Proof.Machine.execCvtfi g vd va s
  | .pkbf g vd va vb => Sys2Proof.Machine.execPkbf g vd va vb s
  | .upbfl g vd va => Sys2Proof.Machine.execUpbfl g vd va s
  | .upbfh g vd va => Sys2Proof.Machine.execUpbfh g vd va s
  | .sel g vd va vb => Sys2Proof.Machine.execSel g vd va vb s
  | .lane g vd => Sys2Proof.Machine.execLane g vd s
  | .fabs g vd va => Sys2Proof.Machine.execFabs g vd va s
  | .fneg g vd va => Sys2Proof.Machine.execFneg g vd va s
  | .iaddi g vd va imm => Sys2Proof.Machine.execIaddi g vd va imm s
  | .limm g vd imm => Sys2Proof.Machine.execLimm g vd imm s
  | .imad g vd va vb vc ty wide => Sys2Proof.Machine.execImad g vd va vb vc ty wide s
  | .ffma g vd va vb vc typed negp negc => Sys2Proof.Machine.execFfma g vd va vb vc typed negp negc s
  | .hfma2 g vd va vb vc typed negp negc => Sys2Proof.Machine.execHfma2 g vd va vb vc typed negp negc s
  | .icmp g gd va vb ty pred comb => Sys2Proof.Machine.execIcmp g gd va vb ty pred comb s
  | .fcmp g gd va vb typed pred comb => Sys2Proof.Machine.execFcmp g gd va vb typed pred comb s
  | .bfx g vd va ty pos len1 => Sys2Proof.Machine.execBfx g vd va ty pos len1 s
  | .bfi g vd va vb pos len1 => Sys2Proof.Machine.execBfi g vd va vb pos len1 s
  | .idiv g vd va vb ty la => Sys2Proof.Machine.execIdiv g vd va vb ty la s
  | .irem g vd va vb ty la => Sys2Proof.Machine.execIrem g vd va vb ty la s
  | .lea g vd hs vo wd imm => Sys2Proof.Machine.execLea g vd hs vo wd imm s
  | .cvt g vd va dst src rz => Sys2Proof.Machine.execCvt g vd va dst src rz s
  | .tidx g vd what xm ym => Sys2Proof.Machine.execTidx g vd what xm ym s
  | .urand g vd va vb fp => Sys2Proof.Machine.execUrand g vd va vb fp s
  | .shfi g vd va kind n => Sys2Proof.Machine.execShfi g vd va kind n s
  | .logi g vd va vb vc table => Sys2Proof.Machine.execLogi g vd va vb vc table s
  | .shfl g vd va vb mode wrel lit => Sys2Proof.Machine.execShfl g vd va vb mode wrel lit s
  | .vote g vd va mode gd gw => Sys2Proof.Machine.execVote g vd va mode gd gw s
  | .redl g vd va rop => Sys2Proof.Machine.execRedl g vd va rop s
  | .scanl g vd va rop excl => Sys2Proof.Machine.execScanl g vd va rop excl s
  | .bcast g vd va src first => Sys2Proof.Machine.execBcast g vd va src first s
  | .br g disp => Sys2Proof.Machine.execBr g disp s
  | .brx g va => Sys2Proof.Machine.execBrx g va s
  | .call g disp => Sys2Proof.Machine.execCall g disp s
  | .ld g vd hs vo la wd pol imm => Sys2Proof.Machine.execLd g vd hs vo la wd pol imm s
  | .st g vd hs vo wd pol imm => Sys2Proof.Machine.execSt g vd hs vo wd pol imm s
  | .lds g vd hs vo la wd imm => Sys2Proof.Machine.execLds g vd hs vo la wd imm s
  | .sts g vd hs vo wd imm => Sys2Proof.Machine.execSts g vd hs vo wd imm s
  | .atom g vd va hs vo la wd aop scope => Sys2Proof.Machine.execAtom g vd va hs vo la wd aop scope s
  | .red g va hs vo wd aop scope => Sys2Proof.Machine.execRed g va hs vo wd aop scope s
  | .atoms g vd va hs vo la wd aop scope => Sys2Proof.Machine.execAtoms g vd va hs vo la wd aop scope s
  | .pf g hs vo wd pol imm => Sys2Proof.Machine.execPf g hs vo wd pol imm s
  | .refill g vd disp => Sys2Proof.Machine.execRefill g vd disp s
  | .nop z => Sys2Proof.Machine.execNop z s
  | .sadd z sd sa sb => Sys2Proof.Machine.execSadd z sd sa sb s
  | .ssub z sd sa sb => Sys2Proof.Machine.execSsub z sd sa sb s
  | .smul z sd sa sb => Sys2Proof.Machine.execSmul z sd sa sb s
  | .sand z sd sa sb => Sys2Proof.Machine.execSand z sd sa sb s
  | .sor z sd sa sb => Sys2Proof.Machine.execSor z sd sa sb s
  | .sxor z sd sa sb => Sys2Proof.Machine.execSxor z sd sa sb s
  | .sshl z sd sa sb => Sys2Proof.Machine.execSshl z sd sa sb s
  | .sshr z sd sa sb => Sys2Proof.Machine.execSshr z sd sa sb s
  | .ssar z sd sa sb => Sys2Proof.Machine.execSsar z sd sa sb s
  | .smov z sd sa => Sys2Proof.Machine.execSmov z sd sa s
  | .smin z sd sa sb uns => Sys2Proof.Machine.execSmin z sd sa sb uns s
  | .smax z sd sa sb uns => Sys2Proof.Machine.execSmax z sd sa sb uns s
  | .scmp z zd sa sb pred uns => Sys2Proof.Machine.execScmp z zd sa sb pred uns s
  | .twait z sa chk => Sys2Proof.Machine.execTwait z sa chk s
  | .ttest z sd sa zout => Sys2Proof.Machine.execTtest z sd sa zout s
  | .join z m => Sys2Proof.Machine.execJoin z m s
  | .leave z m => Sys2Proof.Machine.execLeave z m s
  | .waitm z m clr => Sys2Proof.Machine.execWaitm z m clr s
  | .yield z => Sys2Proof.Machine.execYield z s
  | .exit z => Sys2Proof.Machine.execExit z s
  | .ret z => Sys2Proof.Machine.execRet z s
  | .eret z skip => Sys2Proof.Machine.execEret z skip s
  | .bkpt z code => Sys2Proof.Machine.execBkpt z code s
  | .trap z sa code => Sys2Proof.Machine.execTrap z sa code s
  | .cpermit z sa k => Sys2Proof.Machine.execCpermit z sa k s
  | .saddi u sd sa imm => Sys2Proof.Machine.execSaddi u sd sa imm s
  | .sli u sd imm => Sys2Proof.Machine.execSli u sd imm s
  | .sld u sd sa sb la wd pol imm => Sys2Proof.Machine.execSld u sd sa sb la wd pol imm s
  | .sst u sd sa sb wd pol imm => Sys2Proof.Machine.execSst u sd sa sb wd pol imm s
  | .bra u disp => Sys2Proof.Machine.execBra u disp s
  | .brc u sd disp => Sys2Proof.Machine.execBrc u sd disp s
  | .callu u disp => Sys2Proof.Machine.execCallu u disp s
  | .jmpu u sa => Sys2Proof.Machine.execJmpu u sa s
  | .sysrd u sd number dbl => Sys2Proof.Machine.execSysrd u sd number dbl s
  | .syswr u sa number => Sys2Proof.Machine.execSyswr u sa number s
  | .rdlane u sd vreg ln first => Sys2Proof.Machine.execRdlane u sd vreg ln first s
  | .mget u sd m => Sys2Proof.Machine.execMget u sd m s
  | .mset u sa m => Sys2Proof.Machine.execMset u sa m s
  | .break u set disp => Sys2Proof.Machine.execBreak u set disp s
  | .scmpi u zd sa pred uns imm => Sys2Proof.Machine.execScmpi u zd sa pred uns imm s
  | .fence u paths scope rel acq => Sys2Proof.Machine.execFence u paths scope rel acq s
  | .bari u sa sb sc scope => Sys2Proof.Machine.execBari u sa sb sc scope s
  | .bara u sd sa sb sc scope n => Sys2Proof.Machine.execBara u sd sa sb sc scope n s
  | .barw u sd sa sb sc scope zout bexp => Sys2Proof.Machine.execBarw u sd sa sb sc scope zout bexp s
  | .sigadd u sa sb sc d rel paths => Sys2Proof.Machine.execSigadd u sa sb sc d rel paths s
  | .sigwait u sd sa sb sc zout bexp => Sys2Proof.Machine.execSigwait u sd sa sb sc zout bexp s
  | .stmap u sa sb sc lines mode => Sys2Proof.Machine.execStmap u sa sb sc lines mode s
  | .stunmap u sa drop => Sys2Proof.Machine.execStunmap u sa drop s
  | .stflush u sd sa sb all inv => Sys2Proof.Machine.execStflush u sd sa sb all inv s
  | .cpy u sd sa => Sys2Proof.Machine.execCpy u sd sa s
  | .gath u sd sa sb sc wd => Sys2Proof.Machine.execGath u sd sa sb sc wd s
  | .scat u sd sa sb sc wd op => Sys2Proof.Machine.execScat u sd sa sb sc wd op s
  | .sinter u sd sa sb sc emit => Sys2Proof.Machine.execSinter u sd sa sb sc emit s
  | .mdec u sd sa sb sc n any => Sys2Proof.Machine.execMdec u sd sa sb sc n any s
  | .millld u sd sa sb slot gen => Sys2Proof.Machine.execMillld u sd sa sb slot gen s
  | .millbind u sd sa slot wr unbind => Sys2Proof.Machine.execMillbind u sd sa slot wr unbind s
  | .millstat u sd sa sb slot clr => Sys2Proof.Machine.execMillstat u sd sa sb slot clr s
  | .qscale u sd sa sb sc bf => Sys2Proof.Machine.execQscale u sd sa sb sc bf s
  | .qsplit u sd sa sb bf => Sys2Proof.Machine.execQsplit u sd sa sb bf s
  | .qdeq u sd sa sb pq bf => Sys2Proof.Machine.execQdeq u sd sa sb pq bf s
  | .mmb u sd sa sb slot hold table => Sys2Proof.Machine.execMmb u sd sa sb slot hold table s
  | .mout u sd sa sb slot table => Sys2Proof.Machine.execMout u sd sa sb slot table s
  | .mjoin u sd slot ct => Sys2Proof.Machine.execMjoin u sd slot ct s
  | .mloop u sd sa sb sc ct s0 two table => Sys2Proof.Machine.execMloop u sd sa sb sc ct s0 two table s
  | .czero u ct => Sys2Proof.Machine.execCzero u ct s
  | .cld u sd sa sb ct bf => Sys2Proof.Machine.execCld u sd sa sb ct bf s
  | .cst u sd sa sb ct bf clr => Sys2Proof.Machine.execCst u sd sa sb ct bf clr s
  | .cstat u sd ct clr => Sys2Proof.Machine.execCstat u sd ct clr s
  | .put u sd sa sb sc sstash sig chunk => Sys2Proof.Machine.execPut u sd sa sb sc sstash sig chunk s
  | .get u sd sa sb sc dstash sig chunk => Sys2Proof.Machine.execGet u sd sa sb sc dstash sig chunk s
  | .putred u sd sa sb sc aop d sig chunk sstash circ circle => Sys2Proof.Machine.execPutred u sd sa sb sc aop d sig chunk sstash circ circle s
  | .mcst u sd sa sb circle => Sys2Proof.Machine.execMcst u sd sa sb circle s
  | .circrd u sd circle word => Sys2Proof.Machine.execCircrd u sd circle word s
  | .trigset u sa sb sc => Sys2Proof.Machine.execTrigset u sa sb sc s
  | .trigclr u sd sa peek => Sys2Proof.Machine.execTrigclr u sd sa peek s
  | .spawn u sa => Sys2Proof.Machine.execSpawn u sa s
  | .iqfill u sd sa sb seq => Sys2Proof.Machine.execIqfill u sd sa sb seq s
  | .timeat u sa sb => Sys2Proof.Machine.execTimeat u sa sb s
  | .nap u ns => Sys2Proof.Machine.execNap u ns s
  | .perfrd u sd k => Sys2Proof.Machine.execPerfrd u sd k s
  | .loadResult id => Sys2Proof.Machine.execLoadResult id s
  | .storePerform id => Sys2Proof.Machine.execStorePerform id s
  | .atomicPerform id => Sys2Proof.Machine.execAtomicPerform id s
  | .custodyReturn line => Sys2Proof.Machine.execCustodyReturn line s
  | .channelAccess channel sector ecc => Sys2Proof.Machine.execChannelAccess channel sector ecc s
  | .refreshTick channel => Sys2Proof.Machine.execRefreshTick channel s
  | .refreshIssue channel => Sys2Proof.Machine.execRefreshIssue channel s
  | .scrubRow channel row found => Sys2Proof.Machine.execScrubRow channel row found s
  | .completionTimeout port id => Sys2Proof.Machine.execCompletionTimeout port id s
  | .linkDown port => Sys2Proof.Machine.execLinkDown port s
  | .linkUpReport port => Sys2Proof.Machine.execLinkUpReport port s
  | .fabricTimeout id => Sys2Proof.Machine.execFabricTimeout id s
  | .remoteRequest m => Sys2Proof.Machine.execRemoteRequest m s
  | .fqdoneMapped index => Sys2Proof.Machine.execFqdoneMapped index s
  | .fqdoneFatal index => Sys2Proof.Machine.execFqdoneFatal index s
  | .millldSwitch work => Sys2Proof.Machine.execMillldSwitch work s
  | .millbindComplete work => Sys2Proof.Machine.execMillbindComplete work s
  | .millstatSample work => Sys2Proof.Machine.execMillstatSample work s
  | .millWriteBeat id => Sys2Proof.Machine.execMillWriteBeat id s
  | .tileAbandoned tile => Sys2Proof.Machine.execTileAbandoned tile s
  | .stflushComplete work => Sys2Proof.Machine.execStflushComplete work s
  | .carterTileStart work => Sys2Proof.Machine.execCarterTileStart work s
  | .carterTileEnd work i3 => Sys2Proof.Machine.execCarterTileEnd work i3 s
  | .gathComplete work => Sys2Proof.Machine.execGathComplete work s
  | .scatComplete work => Sys2Proof.Machine.execScatComplete work s
  | .sinterComplete work => Sys2Proof.Machine.execSinterComplete work s
  | .mdecComplete work => Sys2Proof.Machine.execMdecComplete work s
  | .mmbHalfComplete work => Sys2Proof.Machine.execMmbHalfComplete work s
  | .moutHalfComplete work => Sys2Proof.Machine.execMoutHalfComplete work s
  | .mjoinMerge work => Sys2Proof.Machine.execMjoinMerge work s
  | .mloopStep work => Sys2Proof.Machine.execMloopStep work s
  | .qscaleComplete work => Sys2Proof.Machine.execQscaleComplete work s
  | .qsplitComplete work => Sys2Proof.Machine.execQsplitComplete work s
  | .qdeqComplete work => Sys2Proof.Machine.execQdeqComplete work s
  | .cldComplete work => Sys2Proof.Machine.execCldComplete work s
  | .cstComplete work => Sys2Proof.Machine.execCstComplete work s
  | .transferChunk work chunk => Sys2Proof.Machine.execTransferChunk work chunk s
  | .circleRecordSend work => Sys2Proof.Machine.execCircleRecordSend work s
  | .crierStamp circle => Sys2Proof.Machine.execCrierStamp circle s
  | .circleApply circle => Sys2Proof.Machine.execCircleApply circle s
  | .circleGapTimeout circle => Sys2Proof.Machine.execCircleGapTimeout circle s
  | .circleBrokenReceive circle => Sys2Proof.Machine.execCircleBrokenReceive circle s
  | .circctlActive circle value => Sys2Proof.Machine.execCircctlActive circle value s
  | .circctlBroken circle value => Sys2Proof.Machine.execCircctlBroken circle value s
  | .signalAdd id => Sys2Proof.Machine.execSignalAdd id s
  | .triggerFire entry => Sys2Proof.Machine.execTriggerFire entry s
  | .ptpSyncMessage offset => Sys2Proof.Machine.execPtpSyncMessage offset s
  | .timefreeTimeout => Sys2Proof.Machine.execTimefreeTimeout s
  | .timefreeExit => Sys2Proof.Machine.execTimefreeExit s
  | .dtimeLoad value => Sys2Proof.Machine.execDtimeLoad value s
  | .launchSlotWrite slot off bytes => Sys2Proof.Machine.execLaunchSlotWrite slot off bytes s
  | .heldSlotEnter slot => Sys2Proof.Machine.execHeldSlotEnter slot s
  | .spawnEnter hold => Sys2Proof.Machine.execSpawnEnter hold s
  | .gridFeed grid => Sys2Proof.Machine.execGridFeed grid s
  | .queueAgeing core => Sys2Proof.Machine.execQueueAgeing core s
  | .teamPlace core => Sys2Proof.Machine.execTeamPlace core s
  | .timerWheelSlot slot => Sys2Proof.Machine.execTimerWheelSlot slot s
  | .teamEnd core team => Sys2Proof.Machine.execTeamEnd core team s
  | .gridComplete grid => Sys2Proof.Machine.execGridComplete grid s
  | .completionSignalAdd grid => Sys2Proof.Machine.execCompletionSignalAdd grid s
  | .deadlockDetect core gang => Sys2Proof.Machine.execDeadlockDetect core gang s
  | .napExpire core gang => Sys2Proof.Machine.execNapExpire core gang s
  | .barwTimeout core gang => Sys2Proof.Machine.execBarwTimeout core gang s
  | .sigwaitDeadline core gang => Sys2Proof.Machine.execSigwaitDeadline core gang s
  | .fenceComplete hold => Sys2Proof.Machine.execFenceComplete hold s
  | .stunmapComplete hold => Sys2Proof.Machine.execStunmapComplete hold s
  | .preemptReq => Sys2Proof.Machine.execPreemptReq s
  | .contextSave => Sys2Proof.Machine.execContextSave s
  | .preemptRestore => Sys2Proof.Machine.execPreemptRestore s
  | .haltBroadcast => Sys2Proof.Machine.execHaltBroadcast s
  | .dumpWrite => Sys2Proof.Machine.execDumpWrite s
  | .preemptTimeout => Sys2Proof.Machine.execPreemptTimeout s
  | .sensorPoll core base stack => Sys2Proof.Machine.execSensorPoll core base stack s
  | .powerAverage watts => Sys2Proof.Machine.execPowerAverage watts s
  | .telemetryMonitor payload => Sys2Proof.Machine.execTelemetryMonitor payload s
  | .sampleInterval core => Sys2Proof.Machine.execSampleInterval core s
  | .reset image => Sys2Proof.Machine.execReset image s
  | .svnRaise svn => Sys2Proof.Machine.execSvnRaise svn s
  | .attreq => Sys2Proof.Machine.execAttreq s
  | .dbgload => Sys2Proof.Machine.execDbgload s
  | .dbgctlStop core gang => Sys2Proof.Machine.execDbgctlStop core gang s
  | .dbgctlStep core gang => Sys2Proof.Machine.execDbgctlStep core gang s
  | .dbgctlResume core gang => Sys2Proof.Machine.execDbgctlResume core gang s
  | .readbackRequest unit index off len => Sys2Proof.Machine.execReadbackRequest unit index off len s
  | .checkpoint both failed => Sys2Proof.Machine.execCheckpoint both failed s
  | .reload copy => Sys2Proof.Machine.execReload copy s
  | .btsync index => Sys2Proof.Machine.execBtsync index s
  | .ptsync va => Sys2Proof.Machine.execPtsync va s
  | .fqnextRead => Sys2Proof.Machine.execFqnextRead s
  | .lrejectRead => Sys2Proof.Machine.execLrejectRead s
  | .refdebtRead channel => Sys2Proof.Machine.execRefdebtRead channel s
  | .cwinWrite value => Sys2Proof.Machine.execCwinWrite value s
  | .classWindowWrite cls value => Sys2Proof.Machine.execClassWindowWrite cls value s
  | .windowCRead off n => Sys2Proof.Machine.execWindowCRead off n s
  | .windowCWrite off write => Sys2Proof.Machine.execWindowCWrite off write s
  | .registerWrite reg value => Sys2Proof.Machine.execRegisterWrite reg value s
  | .lifeCycleAdvance => Sys2Proof.Machine.execLifeCycleAdvance s
  | .fabricPortDown port => Sys2Proof.Machine.execFabricPortDown port s

end Sys2Proof.Machine
end

