-- ==== Sys2Proof/Machine/Chooser.lean ====
section
/-! DEFINITION. What may happen next (R13, R272, R273, R286): the groups that may issue, the events that are due, the oldest operation at
the ports; which of them does; and what an issue slot leaves behind. -/

namespace Sys2Proof.Machine

open Sys2Proof State

/-- Something that may happen next: an issue slot, or an event of spec/95. -/
inductive Cand where
  | slot (c : Issue)
  | event (i : Instr)
  deriving DecidableEq, Repr

/-! Groups. -/

/-- The lanes of a gang that may issue: running and not held, none whose fault waits; only H while a handler runs, only the lanes sent
back while a retry is due; none of a stopped gang but for a single step (R272, R314, R318, R341). -/
def Gang.issuable (g : Gang) : Lanes :=
  let taken := g.waitTrap.foldl (fun m t => m ||| t.lanes) 0
  if !g.live || (g.stopped && !g.stepOne) then 0
  else g.lanesWhere fun i l => l.cond == .running && l.hold.isNone && !taken.getLsbD i && (!g.hmode || g.hset.getLsbD i) &&
    (!g.retry || l.resumeAt.isSome)

/-- Lanes grouped by their offset. -/
def Gang.grouped (g : Gang) : List Nat → List (Nat × List Nat)
  | [] => []
  | i :: is =>
    let rest := g.grouped is
    let o := (g.lane i).pc
    if rest.any fun x => x.1 == o then rest.map fun x => if x.1 == o then (o, i :: x.2) else x else (o, [i]) :: rest

/-- A group's ageing count: that of its lane that has waited longest (R273). -/
def Gang.ageOf (g : Gang) (m : Lanes) : Nat := (laneList m).foldl (fun a i => max a (g.lane i).age) 0

/-- Of the ready groups of a gang, those that a slot may take. Once one has waited nearly GWIDTH slots, the oldest (R273); after a YIELD
another group, where there is one (R286). -/
def Gang.pickGroups (g : Gang) (cs : List Issue) : List Issue :=
  let old := cs.foldl (fun a c => max a (g.ageOf c.lanes)) 0
  let cs := if old + cs.length ≥ 64 then cs.filter fun c => g.ageOf c.lanes == old else cs
  match g.yielded with
  | some p =>
    let others := cs.filter fun c => c.pc != p % 2 ^ 32
    if others.isEmpty then cs else others
  | none => cs

namespace State

/-- Blocked lanes of a gang whose wait may be over: the instruction is made again by them. -/
def retries (core slot : Nat) (g : Gang) : List Issue :=
  let ready := fun (w : Wait) => match w with
    | .twait r => !Tbl.mem g.tokens r
    | .sigwait _ | .bara | .barw _ => true
    | _ => false
  let ls := (List.range 64).filter fun i => (g.lane i).cond == .blocked && (g.lane i).hold.isNone && ready (g.lane i).wait
  if !g.live || g.stopped then [] else (g.grouped ls).map fun x => ⟨core, slot, laneSet x.2, x.1, true⟩

/-- Before a slot of a gang is taken, its naps that are over end (R287). -/
def beforeSlot (s : State) (c : Issue) : State := s.modGang (gangKey c.core c.slot) fun g => g.wakeNaps s.now

/-- Whether the instruction of a group would issue: its operands are there and it waits for no resource (R272). A group at which a fetch
faults or waits takes the slot. -/
def takes (s : State) (c : Issue) : Bool :=
  match (s.beforeSlot c).fetch (gangKey c.core c.slot) c.pc with
  | (t, .instr i) => (match exec i { t with cur := some c } with
    | .next u => u.cur.isNone
    | _ => true)
  | _ => true

/-- Whether a core can still start the instruction of a group in this cycle: two lane words and one uniform word (R206). -/
def room (s : State) (c : Issue) : Bool :=
  let d := s.coreDev c.core
  (d.issued < 2 && d.issuedU < 1) || match s.fetch (gangKey c.core c.slot) c.pc with
    | (_, .instr i) => if isLaneSet i then d.issued < 2 else d.issuedU < 1
    | _ => true

/-- The groups of running lanes of a gang. -/
def gangGroups (s : State) (x : Nat × Gang) : List Issue :=
  let g := x.2.wakeNaps s.now
  (g.grouped (laneList g.issuable)).map fun y => ⟨x.1 / 64, x.1 % 64, laneSet y.2, y.1, false⟩

/-- The core cycles for which a gang has had a ready group and has not issued (R273). (DEDUCED, assumption 16) -/
def waited (s : State) (x : Nat × Gang) : Nat := s.dev.cycle - max x.2.lastIssue (Tbl.get 0 s.dev.idle x.1)

/-- A gang of a core and its ready groups. -/
abbrev Able := (Nat × Gang) × List Issue

/-- Whether the gangs of a core must issue in the order in which they have waited, so that each issues within 256 cycles (R273). -/
def pressed (s : State) (gs : List Able) : Bool :=
  256 ≤ gs.foldl (fun a x => max a (s.waited x.1)) 0 + gs.length + 1

/-- The slots that a core may give to its gangs with ready groups: to the one that has waited longest where it must; else, after a YIELD, to
another gang where there is one (R286). -/
def coreSlots (s : State) (gs : List Able) : List Issue :=
  let old := gs.foldl (fun a x => max a (s.waited x.1)) 0
  let fresh := gs.filter fun x => match x.1.2.yielded with
    | some p => p ≥ 2 ^ 32
    | none => true
  let use := if s.pressed gs then gs.filter fun x => s.waited x.1 == old else if fresh.isEmpty then gs else fresh
  (use.flatMap fun x => x.1.2.pickGroups x.2).filter s.room

/-- Gangs listed by core. -/
def byCore : List Able → List (List Able)
  | [] => []
  | x :: xs =>
    let rest := byCore xs
    let same := fun (y : List Able) => y.any fun z => z.1.1 / 64 == x.1.1 / 64
    if rest.any same then rest.map fun y => if same y then x :: y else y else [x] :: rest

/-- The gangs with ready groups, by core. A group that is the only one of the device is not asked whether it is ready: where it is not,
its slot changes nothing. -/
def ables (s : State) (all : Bool) : List (List Able) :=
  let raw := s.ctx.gangs.map fun x => (x, s.gangGroups x)
  let alone := !all && (raw.flatMap (·.2)).length == 1
  byCore ((raw.map fun x => (x.1, if alone then x.2 else x.2.filter s.takes)).filter fun x => !x.2.isEmpty)

/-- Every slot that may be taken. None is while a halt is under way or pre-emption is asked for, but that a BARA in its fence wait goes on,
since it completes before the save (R311, R324, R327). -/
def slots (s : State) : List Issue :=
  let again := s.ctx.gangs.flatMap fun x => retries (x.1 / 64) (x.1 % 64) x.2
  if s.ctx.halt.isSome then []
  else if s.dev.pre.req then again.filter fun c => ((s.gang (gangKey c.core c.slot)).lane ((laneList c.lanes).headD 0)).wait == .bara
  else (s.ables false).flatMap s.coreSlots ++ again

/-! Events. -/

/-- The event by which an access goes on. -/
def accessEvents (s : State) (id : Nat) (x : Access) : List Instr :=
  match x.sent, x.out with
  | some t, l :: _ => if t + s.dev.host.fabricTimeout ≤ s.now then [.fabricTimeout (remoteId id l)] else []
  | _, _ =>
    if s.accessHeld id x then []
    else if s.beatAccess x then [.millWriteBeat id]
    else match x.kind with
      | .signal => [.signalAdd id]
      | .red | .atom | .atoms => [.atomicPerform id]
      | .store | .sts | .sst | .writeBack => [.storePerform id]
      | _ => [.loadResult id]

/-- Pre-emption has stopped issue: a STUNMAP completes before that (R134). -/
def issueStopped (s : State) : Bool :=
  s.dev.pre.req && !s.ctx.holds.any fun h => match h.2.kind with
    | .stunmap .. => true
    | _ => false

/-- The events by which a job goes on. Once pre-emption has stopped issue, a walk starts no tile (R193) and an MLOOP
no step (R245). -/
def workEvents (s : State) (id : Nat) (w : Work) : List Instr :=
  match w.job with
  | .carter _ _ hand .. => (if s.issueStopped then [] else [.carterTileStart id]) ++ hand.map fun t => .carterTileEnd id t.i3
  | .gath .. => [.gathComplete id]
  | .scat .. => [.scatComplete id]
  | .sinter .. => [.sinterComplete id]
  | .mdec .. => [.mdecComplete id]
  | .millld .. => [.millldSwitch id]
  | .millbind .. => [.millbindComplete id]
  | .millstat .. => [.millstatSample id]
  | .qscale .. => [.qscaleComplete id]
  | .qsplit .. => [.qsplitComplete id]
  | .qdeq .. => [.qdeqComplete id]
  | .mmb .. => [.mmbHalfComplete id]
  | .mout .. => [.moutHalfComplete id]
  | .mjoin .. => [.mjoinMerge id]
  | .mloop .. => if s.issueStopped then [] else [.mloopStep id]
  | .cld .. => [.cldComplete id]
  | .cst .. => [.cstComplete id]
  | .xfer _ _ _ _ _ _ left _ => if left.isEmpty then [.transferChunk id 0] else left.map (.transferChunk id)
  | .circle _ _ _ _ sent _ => if sent then [] else [.circleRecordSend id]
  | .stflush .. => [.stflushComplete id]

/-- Answers of other devices that are late. -/
def replyEvents (s : State) : List Instr :=
  s.ctx.replies.filterMap fun r => match r.2.find? fun x => !x.done with
    | some x => if x.sent + s.dev.host.fabricTimeout ≤ s.now then some (.fabricTimeout (remoteId r.1 engineLane)) else none
    | none => none

def holdEvents (s : State) : List Instr :=
  s.ctx.holds.flatMap fun h => match h.2.kind with
    | .fence .. | .sigadd .. => [.fenceComplete h.1]
    | .stunmap .. => [.stunmapComplete h.1]
    | .spawn _ => if s.dev.pre.req then [] else [.spawnEnter h.1]
    | _ => []

/-- Lines that return home: asked for, or held for 2 µs (R154). -/
def custodyEvents (s : State) : List Instr :=
  s.ctx.custody.filterMap fun c => if c.2.ret || c.2.since + 2000 ≤ s.now then some (.custodyReturn c.1) else none

def millEvents (s : State) : List Instr :=
  s.ctx.mills.flatMap fun m => (List.range m.2.ctxs.length).map fun i => .tileAbandoned (2 * m.1 + i)

def circleEvents (s : State) : List Instr :=
  s.ctx.circles.flatMap fun c =>
    if h : c.1 < 64 then
      (if c.2.queue.isEmpty then [] else [.crierStamp ⟨c.1, h⟩]) ++
      (if c.2.window.isEmpty && !c.2.doing then [] else [.circleApply ⟨c.1, h⟩]) ++
      (match c.2.gapSince with
       | some t => if t + 1000 * c.2.gapus ≤ s.now then [.circleGapTimeout ⟨c.1, h⟩] else []
       | none => [])
    else []

def triggerEvents (s : State) : List Instr :=
  if s.dev.pre.req then []
  else s.ctx.triggers.flatMap fun t =>
    if h : t.1 < 1024 then (match t.2.due with
      | some d => if d ≤ s.now then [.triggerFire ⟨t.1, h⟩] else []
      | none => if t.2.look then [.triggerFire ⟨t.1, h⟩] else []) else []

def gridEvents (s : State) : List Instr :=
  (s.feedOrder.head?.map fun g => Instr.gridFeed g.1).toList ++
  s.ctx.grids.flatMap (fun g => if g.2.unended ≠ 0 then [] else if g.2.signalDue.isSome then [.completionSignalAdd g.1] else [.gridComplete g.1]) ++
  s.ctx.wheel.filterMap fun w => if w.release ≤ s.now then some (.timerWheelSlot (w.release / 1000 % 1024)) else none

def coreEvents (s : State) : List Instr :=
  s.ctx.cores.flatMap (fun c =>
    (if c.2.queue.isEmpty || s.dev.pre.req then [] else [.teamPlace c.1]) ++
    (if c.2.queue.any fun e => e.at' + 100000 ≤ s.now then [.queueAgeing c.1] else [])) ++
  s.ctx.teams.filterMap fun t => if t.2.live && t.2.exited then some (.teamEnd (t.1 / 16) (t.1 % 16)) else none

/-- Bounded waits that are over, and deadlocked sets. -/
def gangEvents (s : State) : List Instr :=
  s.ctx.gangs.flatMap fun x =>
    let g := x.2
    let c := x.1 / 64
    let k := x.1 % 64
    if !g.live || !(g.lanes.any fun l => l.2.cond == .blocked) then []
    else
      (if g.lanes.any fun l => l.2.cond == .blocked && (match l.2.wait with
        | .nap d => decide (d ≤ s.now)
        | _ => false) then [.napExpire c k] else []) ++
      (if g.lanes.any fun l => l.2.cond == .blocked && (match l.2.wait with
        | .sigwait d => decide (d ≤ s.now)
        | _ => false) then [.sigwaitDeadline c k] else []) ++
      (if g.lanes.any fun l => l.2.cond == .blocked && (match l.2.wait with
        | .barw (some d) => decide (d ≤ s.dev.cycle)
        | _ => false) then [.barwTimeout c k] else []) ++
      (if g.deadlockSet != 0 then [.deadlockDetect c k] else [])

/-- Launch slots that are held. -/
def launchEvents (s : State) : List Instr :=
  s.dev.launch.slots.filterMap fun x => if h : x.1 < 64 then (match x.2 with
    | .held _ => some (.heldSlotEnter ⟨x.1, h⟩)
    | _ => none) else none

/-- A refresh pulled in by a channel, freely one of them, while no access is under way (R88). -/
def pullIn (s : State) : List Instr :=
  let c := s.pick 9 256
  let x := s.dev.channel c
  if s.ctx.accs.isEmpty && s.ctx.works.isEmpty && s.dev.dtime ≠ 0 && decide (-8 < x.debt ∧ x.debt ≤ 0) then [.refreshIssue c] else []

/-- Channels whose refresh debt is 8: they refresh before any further request (R88). -/
def forcedRefresh (s : State) : List Nat := (s.dev.channels.filter fun c => c.2.debt ≥ 8).map (·.1)

/-- Cores whose sampling interval ended with the last core cycle: the record is written before anything issues in the next (R345). -/
def samples (s : State) : List Nat := (s.dev.cores.filter fun c => s.sampleDue c.2).map Prod.fst

/-- The device's own events: refresh, the time unit, pre-emption. -/
def deviceEvents (s : State) : List Instr :=
  (List.range 256).flatMap (fun c =>
    let x := s.dev.channel c
    (if x.nextTick ≤ s.now then [.refreshTick c] else []) ++ (if x.debt > 0 then [.refreshIssue c] else [])) ++
  s.pullIn ++
  (if s.now ≥ s.dev.time.lastSync + 1000000 && !s.dev.time.free then [.timefreeTimeout] else []) ++
  (match s.dev.time.goodSince with
   | some t => if s.dev.time.free && s.now ≥ t + 10000000 then [.timefreeExit] else []
   | none => []) ++
  (match s.dev.power.preemptAt with
   | some t => if s.dev.pre.resident && t + 10000000 ≤ s.now then [.preemptTimeout] else []
   | none => []) ++
  (if s.dev.pre.req && s.drained then [.contextSave] else [])

/-- The events of the context. After a halt only the broadcast and the dump are left (R327). -/
def contextEvents (s : State) : List Instr :=
  match s.ctx.halt with
  | some h => if h.broadcast then .dumpWrite :: s.replyEvents else [.haltBroadcast]
  | none =>
    s.ctx.accs.flatMap (fun a => s.accessEvents a.1 a.2) ++ s.ctx.works.flatMap (fun w => s.workEvents w.1 w.2) ++
    s.replyEvents ++ s.holdEvents ++ s.custodyEvents ++ s.millEvents ++ s.circleEvents ++ s.triggerEvents ++ s.gridEvents ++
    s.coreEvents ++ s.gangEvents ++ s.launchEvents

/-- Everything that may happen next. A channel in debt refreshes first, and a sample that is due is taken first. -/
def candidates (s : State) : List Cand :=
  if !s.forcedRefresh.isEmpty then s.forcedRefresh.map fun c => .event (.refreshIssue c)
  else if !s.samples.isEmpty then s.samples.map fun c => .event (.sampleInterval c)
  else s.slots.map .slot ++ s.contextEvents.map .event ++ s.deviceEvents.map .event ++ s.inputs.head?.toList.map .event

/-- What happens next: freely one of what may (R13). (DESIGN CHOICE, assumption 1) -/
def choose (s : State) : Option Cand :=
  match s.candidates with
  | [] => none
  | [c] => some c
  | c :: cs => (c :: cs)[s.pick 0 (cs.length + 1)]?

/-- The oldest operation at the ports is taken from its queue. (DESIGN CHOICE, assumption 64) -/
def takeInput (s : State) (i : Instr) : State :=
  match s.inputs with
  | j :: rest => if j = i then { s with inputs := rest } else s
  | [] => s

/-! What a slot leaves behind. -/

/-- The instruction at an offset could not be fetched: the group faults there, or waits (R65, R274, R314, R384). At a malformed barrier the
gang reconverges first (R283). A single step is over with it (R341). -/
def fetchFailed (s : State) (c : Issue) (f : Fetched) : State :=
  let gk := gangKey c.core c.slot
  let s := match f with
    | .bad .. => s.modGang gk fun g => { g with stepOne := false }
    | _ => s
  let g := s.gang gk
  let set := match f with
    | .bad _ _ true => if g.gathered c.pc then g.nonExited else c.lanes
    | _ => c.lanes
  let a : At := ⟨c.core, c.slot, set, laneList set, c.pc, (c.pc + 4) % 2 ^ 32, c.again⟩
  match f with
  | .instr _ => s
  | .bad e n barrier =>
    if barrier && set != g.nonExited then a.block .reconv s
    else
      let s := s.modGang gk fun g => g.modLanes (laneList set) fun _ l => { l with cond := .running, wait := .none }
      s.raise gk ⟨e.cause, c.pc, (c.pc + n) % 2 ^ 32, e.addr, set, e.info, s.ctx.nextId⟩
  | .miss p b => a.pageHold s p b
  | .away .beat => s
  | .away w => a.remoteHold s (fetchAsk gk) w

/-- A slot has been taken by an instruction: the ages of the gang's groups, of which `ready` could have issued, the core's counters
and sampler, a single step, and a YIELD whose turn is over (R273, R286, R341 to R345). -/
def tookSlot (s : State) (c : Issue) (lane yielding : Bool) (ready : Lanes) : State :=
  let gk := gangKey c.core c.slot
  let s := s.modGang gk fun g => { g with
    lastIssue := s.dev.cycle, stepOne := false, yielded := if yielding then g.yielded else none,
    lanes := g.lanes.map fun (l : Nat × Lane) =>
      (l.1, { l.2 with age := if ready.getLsbD l.1 && !c.lanes.getLsbD l.1 then l.2.age + 1 else 0 }) }
  let s := s.setCtx fun x => { x with gangs := x.gangs.map fun (g : Nat × Gang) =>
    if g.1 / 64 = c.core ∧ g.1 ≠ gk then (g.1, { g.2 with yielded := g.2.yielded.map fun p => p % 2 ^ 32 + 2 ^ 32 }) else g }
  let d := s.coreDev c.core
  let d := { d with issuedBy := Tbl.set d.issuedBy c.slot (Tbl.get 0 d.issuedBy c.slot + if lane then 1 else 4) }
  let d := if lane && d.issued = 0 then { d with lastIssue := some c, lastCycle := s.dev.cycle } else d
  let s := s.setCoreDev c.core (if lane then { d with issued := d.issued + 1 } else { d with issuedU := d.issuedU + 1 })
  (s.perfEvent c.core c.slot 0x02 1).perfEvent c.core c.slot (if lane then 0x03 else 0x04) 1

/-- What an issue slot taken in a state leaves: where the instruction waits at issue, that the gang had no ready group there (R272, R273);
nothing where a blocked one was made again; else the slot is counted. -/
def afterSlot (s : State) (c : Issue) (i : Instr) (u : State) : State :=
  let gk := gangKey c.core c.slot
  if u.cur.isSome then { u with cur := none, dev := { u.dev with idle := Tbl.set u.dev.idle gk u.dev.cycle } }
  else if c.again then u
  else
    let groups := s.gangGroups (gk, s.gang gk)
    let ready := ((if groups.length = 1 then groups else groups.filter s.takes)).foldl (fun m x => m ||| x.lanes) 0
    u.tookSlot c (isLaneSet i) (match i with
      | .yield z => (u.gang gk).zreg z
      | _ => false) ready

/-- A gang must issue before the core cycle ends: the cycle count stands until it has (R273). (DEDUCED, assumption 16) -/
def urgent (s : State) : Bool :=
  !s.dev.pre.req && s.ctx.halt.isNone && (s.ables true).any fun gs => s.pressed gs && !(s.coreSlots gs).isEmpty

/-- A word that takes an entry of an engine or a staging slot (R186, R228). -/
def takesEngine : Instr → Bool
  | .stflush .. | .cpy .. | .gath .. | .scat .. | .sinter .. | .mdec .. | .millld .. | .millbind .. | .millstat .. | .qscale .. | .qsplit ..
  | .qdeq .. | .mmb .. | .mout .. | .mjoin .. | .mloop .. | .cld .. | .cst .. | .put .. | .get .. | .putred .. | .mcst .. => true
  | _ => false

/-- Why a group of running lanes does not issue, as a code of R342: its word waits for a token, or at issue for an engine; else for the
pipes (R343). -/
def groupReason (s : State) (c : Issue) : Nat :=
  if s.takes c then 0x09
  else match (s.beforeSlot c).fetch (gangKey c.core c.slot) c.pc with
    | (t, .instr i) => if !t.available (gangKey c.core c.slot) i then 0x07 else if takesEngine i then 0x08 else 0x09
    | _ => 0x09

/-- A lane's instruction waits for a result of memory, or for something else than memory (R343). -/
def holdReason (s : State) (l : Lane) : Option Nat :=
  match l.hold.bind fun h => Tbl.find? s.ctx.holds h with
  | some h => (match h.kind with
    | .spawn _ => some 0x0A
    | _ => some 0x06)
  | none => if l.wins.any (fun w => Tbl.mem s.ctx.accs w.acc) then some 0x06 else none

/-- The reason of one lane that has not exited; its group's, where it may issue. -/
def laneReason (s : State) (gk i : Nat) : Nat :=
  let g := s.gang gk
  let l := g.lane i
  match s.holdReason l with
  | some r => r
  | none =>
    if l.cond == .blocked then (match l.wait with
      | .twait _ => 0x07
      | _ => 0x0A)
    else if g.stopped then 0x0A
    else match (s.gangGroups (gk, g)).find? fun c => c.lanes.getLsbD i with
      | some c => s.groupReason c
      | none => 0x09

/-- Why a gang does not issue: the first reason in the order of R343 that applies to any of its groups. -/
def gangReason (s : State) (gk : Nat) : Nat :=
  (((List.range 64).filter fun i => ((s.gang gk).lane i).cond != .exited).map (s.laneReason gk)).foldl min 0x0A

/-- What a gang would have issued besides what it did, had it been alone on its core: lane words and uniform words of its ready groups. -/
def couldIssue (s : State) (gk took : Nat) : Nat × Nat :=
  let ready := (s.gangGroups (gk, s.gang gk)).filter s.takes
  let lane := fun (c : Issue) => match s.fetch gk c.pc with
    | (_, .instr i) => isLaneSet i
    | _ => true
  (min (2 - took % 4) (ready.filter lane).length, min (1 - took / 4) (ready.filter fun c => !lane c).length)

/-- The counters of one gang slot (GF = 1, R343): the slots of the cycle that its gang did not take, classified as if it were the only one
resident. -/
def gangSlots (s : State) (core : Nat) (x : CoreDev) : CoreDev :=
  { x with perf := (List.range 8).foldl (fun t k =>
      let sel := Tbl.get 0 x.perfSel k
      let slot := bits sel 10 6
      let gk := gangKey core slot
      let took := Tbl.get 0 x.issuedBy slot
      let here := (s.gang gk).live && (s.gang gk).lanes.any fun l => l.2.cond == .running
      let more := if here then s.couldIssue gk took else (0, 0)
      let rest := 3 - (took % 4 + took / 4 + more.1 + more.2)
      let why := if here then s.gangReason gk else 0x05
      let n := (if bits sel 0 8 = 0x03 then more.1 else 0) + (if bits sel 0 8 = 0x04 then more.2 else 0) + if bits sel 0 8 = why then rest else 0
      if bit sel 8 && bit sel 9 then Tbl.set t k ((Tbl.get 0 t k + n) % 2 ^ 64) else t) x.perf }

/-- A core cycle ends: the slots not taken are classified (R342, R343), and the management controller may have read the telemetry ring,
which clears ASSAY_STAT (R248). (DESIGN CHOICE, assumptions 5 and 87) -/
def endCycle (s : State) : State :=
  let ready := (s.ables true).flatMap fun gs => gs.map fun x => x.1.1
  let s := s.dev.cores.foldl (fun s c =>
    let n := 3 - (c.2.issued + c.2.issuedU)
    let read := s.pickFor 22 c.1 2 = 1
    let watched := !c.2.perfSel.isEmpty || bit c.2.sampleCtl 0
    let live := if watched then ((List.range 64).filter fun k => (s.gang (gangKey c.1 k)).live) else []
    let lanes := if bit c.2.sampleCtl 0 then live.flatMap fun k => ((List.range 64).filter fun i =>
        ((s.gang (gangKey c.1 k)).lane i).cond == .running).map fun i => (64 + 64 * k + i, s.laneReason (gangKey c.1 k) i) else []
    let x := if watched then s.gangSlots c.1 c.2 else c.2
    let s := s.setCoreDev c.1 { x with issued := 0, issuedU := 0, issuedBy := [], assayStat := if read then 0 else x.assayStat,
                                       why := live.map (fun k => (k, s.gangReason (gangKey c.1 k))) ++ lanes }
    let s := (s.perfEvent c.1 0 0x01 1).perfEvent c.1 0 0x02 n
    s.perfEvent c.1 64 (match s.classifier c.1 with
      | some slot => s.whyNot c.1 slot
      | none => 0x05) n) s
  let idle := s.ctx.gangs.map fun g => (g.1, if ready.contains g.1 then Tbl.get 0 s.dev.idle g.1 else s.dev.cycle + 1)
  s.setDev fun d => { d with cycle := d.cycle + 1, idle := idle }

/-- Time passes with a step: free amounts of device time and of core cycles (R19). Only the device's clocks and counters move; a core cycle
does not end before the samples of the last are taken (R345). DTIME counts on past 2^64 - 1, and registers show it modulo 2^64. (DESIGN
CHOICE, assumptions 4 and 95) -/
def tick (s : State) : State :=
  let d := if Config.cycles s.ticks % 2 = 1 && !s.urgent && s.samples.isEmpty then s.endCycle.dev else s.dev
  { s with dev := { d with dtime := s.dev.dtime + Config.elapse s.ticks }, ticks := s.ticks + 1 }

end State

end Sys2Proof.Machine
end

