-- ==== Sys2Proof/Machine/Step.lean ====
section
/-! DEFINITION. One step of the machine: whatever may happen next is chosen freely (R13) and happens whole, and device time passes. -/

namespace Sys2Proof.Machine

open Sys2Proof

/-- An issue slot: naps that are over end (R287), then the instruction at the group's offset is fetched and executed. -/
def stepSlot (c : Issue) (s : State) : Host.Outcome State Fault Refusal :=
  let s := s.beforeSlot c
  match s.fetch (gangKey c.core c.slot) c.pc with
  | (t, .instr i) => match exec i { t with cur := some c } with
    | .next u => .next (s.afterSlot c i u).tick
    | .fault r => .fault r
    | .refused r => .refused r
  | (t, f) => .next (t.fetchFailed c f).tick

/-- An event: the input, if it is one, leaves its queue. -/
def stepEvent (i : Instr) (s : State) : Host.Outcome State Fault Refusal :=
  match exec i (s.takeInput i) with
  | .next u => .next u.tick
  | .fault r => .fault r
  | .refused r => .refused r

/-- One step. Where nothing is left to do, time passes. -/
def step (s : State) : Host.Outcome State Fault Refusal :=
  match s.choose with
  | none => .next s.tick
  | some (.slot c) => stepSlot c s
  | some (.event i) => stepEvent i s

/-! An instruction placed where the next step fetches it (assumption 60). -/

/-- A launch record: code at offset 0 of buffer 1, one producer gang of 128 registers per lane, 32 accumulator tiles, 4 KiB of save area. -/
def fetchRecord : List Byte :=
  toBytes 8 (2 ^ 52) ++ toBytes 8 0 ++ toBytes 8 (1 + 2 ^ 32) ++ toBytes 8 (128 + 32 * 2 ^ 32 + 4 * 2 ^ 40) ++ toBytes 32 0

def fetchLanes : Tbl Lane := (List.range 64).map fun i => (i, Lane.start 0)

/-- Class 14 has the first 64 MiB of every channel; in its first granule, which is the first 2 MiB of channel 0, stand the buffer table
at 0 and a page table of two levels at 0x20000 and 0x30000. Its one leaf maps the first 4 GiB of virtual addresses to class addresses from
4 GiB, which begin 16 MiB into channel 0; buffer 1 is their first 64 KiB and holds the code. -/
def fetchMemory (m : Memory) (code : List Byte) : Memory :=
  let m := m.writeBytes 32 (toBytes 8 0 ++ toBytes 8 0x10000 ++ toBytes 8 (rR + rX + 2 ^ 8 + 0xFFFF * 2 ^ 16 + 14 * 2 ^ 32 +
    0xFF * 2 ^ 40 + 0xFF * 2 ^ 48) ++ toBytes 8 0)
  let m := m.writeBytes 0x20000 (toBytes 8 0x30001)
  let m := m.writeBytes 0x30000 (toBytes 8 (2 ^ 32 + 3))
  m.writeBytes 0x1000000 code

/-- A resident context with one grid of one team of one gang, whose 64 lanes stand at the instruction. -/
def State.withFetchWord (s : State) (nbits w : Nat) : State :=
  let code := (List.range 8).map fun k => if 8 * k < nbits then (BitVec.ofNat 8 (w / 2 ^ (8 * k)) : Byte) else 0
  { s with
    dev := { s.dev with
      mem := fetchMemory s.dev.mem code
      past := []
      classes := [(0, ⟨1, 31, false⟩), (14, ⟨0, 1, false⟩)]
      host := { s.dev.host with btBase := 0, ptRoot := 0x20000, ptClass := 14 }
      pre := { s.dev.pre with resident := true } }
    ctx := { s.ctx with
      cores := s.ctx.cores.map fun c => (c.1, { c.2 with cache := [] })
      grids := Tbl.set s.ctx.grids 0 { Grid.absent with record := fetchRecord, next := 1, unended := 1, seq := 1 }
      teams := Tbl.set s.ctx.teams 0 { Team.absent with live := true, saveRun := 0x8000, tiles := List.range 32, gangSlots := [0] }
      gangs := Tbl.set s.ctx.gangs 0 { Gang.absent with live := true, lanes := fetchLanes } } }

end Sys2Proof.Machine
end

