-- ==== Sys2Proof/Safety.lean ====
section
/-! DEFINITION. What counts as a safe run: no stop, and a state whose data are in their canonical forms. -/

namespace Sys2Proof.Safety

open Sys2Proof Machine

/-- The pools of a context's cores in their canonical form (R123). -/
def PoolsCanonical (c : Ctx) : Prop := ∀ x ∈ c.cores, Memory.wf x.2.pool = true

/-- Memory in its canonical form: the device's (R118), its checkpoint's copy, which is of the channels alone (R331), and the pools of the
context and of every saved one, in the copy too. -/
def MemoryCanonical (s : State) : Prop :=
  Memory.wf s.dev.mem = true ∧ (∀ x ∈ s.dev.ckpt, Memory.wf x.mem = true ∧ (∀ c ∈ x.mem, c.1 < 2 ^ 39) ∧ ∀ y ∈ x.saved, PoolsCanonical y.2) ∧ PoolsCanonical s.ctx ∧
    ∀ x ∈ s.saved, PoolsCanonical x.2

/-- A step that neither faults nor refuses. -/
def Runs (s : State) : Prop := ∃ t, step s = .next t

end Sys2Proof.Safety
end

