-- ==== Sys2Proof/Claims.lean ====
section
/-! DEFINITION. The words in which claims about issue are stated: the issuing set and the executing lanes of a word, when a word
executes, and what it means that nothing but a gang has changed. -/

namespace Sys2Proof.Claims

open Sys2Proof Machine

/-- The gang slot of an issue. -/
def key (c : Issue) : Nat := gangKey c.core c.slot

/-- The issuing gang. -/
def gang (c : Issue) (s : State) : Gang := s.gang (key c)

/-- The issuing set: the lanes the slot was given to, or every non-exited lane once a barrier has reconverged them (R272, R283). -/
def issuing (i : Instr) (c : Issue) (s : State) : Lanes :=
  if reconverges i && (gang c s).gathered c.pc then (gang c s).nonExited else c.lanes

/-- The word as it executes: its issuing set, the lanes in which its guard holds (R66), and the offset after it (R274). -/
def at' (i : Instr) (c : Issue) (s : State) : At :=
  ⟨c.core, c.slot, issuing i c s, executing (gang c s) (issuing i c s) i, c.pc, (c.pc + codeBytes i) % 2 ^ 32, false⟩

/-- The lanes of a set stand at an issue's offset, none of them exited (R272). -/
def standing (c : Issue) (m : Lanes) (s : State) : Bool :=
  (laneList m).all fun l => ((gang c s).lane l).pc == c.pc && ((gang c s).lane l).cond != .exited

/-- A barrier has its gang whole (R283); of any other word nothing is asked. -/
def whole (i : Instr) (c : Issue) (s : State) : Bool := !reconverges i || issuing i c s == (gang c s).nonExited

/-- The word issues to lanes that stand at its offset (R272) and passes every check of R65 that comes before its guard: no lookahead
window has ended or must drain (R68, R69), its encoding and its registers are admitted (R48 to R50, R59), the mode may run it (R64), no register it names is owed (R68), no
uniform register it names is pending (R71). -/
def admitted (i : Instr) (c : Issue) (s : State) : Bool :=
  let m := issuing i c s
  s.cur == some c && !c.again && standing c m s && !s.windowWait (key c) m i && i.wf && s.fits (key c) i && (!privileged i || (gang c s).hmode) &&
  s.hazards (key c) m i == 0 && s.available (key c) i && whole i c s

/-- The word executes: it is admitted, its guard holds in some lane, and a collective word issues whole (R66, R282). -/
def ready (i : Instr) (c : Issue) (s : State) : Bool :=
  admitted i c s && !(at' i c s).exec.isEmpty && (!collective i || issuing i c s == (gang c s).nonExited)

/-- The state in which a word has its effect: the tokens it reads have brought their writes to the gang (R173), and it has its place in the
order of its lanes' accesses (R169). -/
def begun (i : Instr) (c : Issue) (s : State) : State := ({ s with cur := none }.joinTokens (key c) i).ordered (key c) (issuing i c s) (at' i c s).exec i

/-- What follows the issue of a retried word: the retry is over, and the oldest held fault is taken (R314). -/
def settle (c : Issue) (b t : State) : State :=
  if (gang c b).retry then (t.modGang (key c) fun g => { g with retry := false }).takeHeld (key c) else t

/-- A lane of the issuing gang moves past the word a, and changes by f where it executes it. -/
def laneAfter (a : At) (f : Nat → Lane → Lane) (l : Nat) (x : Lane) : Lane :=
  if l ∈ laneList a.set then (if l ∈ a.exec then f l (x.advance a.next) else x.advance a.next) else x

/-- From b to t only the issuing gang changes. -/
structure OnlyGang (a : At) (b t : State) : Prop where
  rest : t = { b with ctx := { b.ctx with gangs := t.ctx.gangs } }
  others : ∀ k, k ≠ a.gang → t.gang k = b.gang k

/-- From b to t only the issuing gang changes; it becomes g but for its lanes, and of these only those of the issuing set change: they
move past the word, and change by f where they execute it. -/
structure Moved (a : At) (b t : State) (g : Gang) (f : Nat → Lane → Lane) : Prop where
  frame : OnlyGang a b t
  gang : t.gang a.gang = { g with lanes := (t.gang a.gang).lanes }
  lanes : ∀ l, (t.gang a.gang).lane l = laneAfter a f l ((b.gang a.gang).lane l)

/-- The word i, where it executes, completes: each executing lane l gets v l x in its register d, x being the lane as it was; nothing
else changes but the program counters and windows of the issuing set and the flags fl, which are raised (R26, R204). -/
def LaneResult (i : Instr) (d : Nat) (v : State → At → Nat → Lane → Word) (fl : State → At → Flags) : Prop :=
  ∀ (c : Issue) (s : State), ready i c s = true →
    ∃ t, exec i s = .next (settle c (begun i c s) t) ∧
      Moved (at' i c s) (begun i c s) t ((gang c (begun i c s)).flag (fl (begun i c s) (at' i c s)))
        fun l x => x.setReg d (v (begun i c s) (at' i c s) l ((gang c (begun i c s)).lane l))

/-- The word i, where it executes, completes: its gang becomes f of what it was, and its issuing set moves past it; nothing else
changes. -/
def GangResult (i : Instr) (f : State → At → Gang → Gang) : Prop :=
  ∀ (c : Issue) (s : State), ready i c s = true →
    ∃ t, exec i s = .next (settle c (begun i c s) t) ∧
      Moved (at' i c s) (begun i c s) t (f (begun i c s) (at' i c s) (gang c (begun i c s))) fun _ x => x

/-- No floating-point condition. -/
def noFlags : State → At → Flags := fun _ _ => 0

/-- A floating-point result of each executing lane, and the conditions of all of them (R204). -/
def FpResult (i : Instr) (d : Nat) (f : Lane → Nat × Flags) : Prop :=
  LaneResult i d (fun _ _ _ x => BitVec.ofNat 32 (f x).1)
    fun b a => a.exec.foldl (fun fl l => fl ||| (f ((b.gang a.gang).lane l)).2) 0

/-- As LaneResult, but the lane guard gd is written (R212); a write of g7 is discarded (R48). -/
def GuardResult (i : Instr) (gd : Nat) (v : Lane → Bool) (fl : Lane → Flags) : Prop :=
  ∀ (c : Issue) (s : State), ready i c s = true →
    ∃ t, exec i s = .next (settle c (begun i c s) t) ∧
      Moved (at' i c s) (begun i c s) t
        ((gang c (begun i c s)).flag ((at' i c s).exec.foldl (fun x l => x ||| fl ((gang c (begun i c s)).lane l)) 0))
        fun l x => x.setGuard gd (v ((gang c (begun i c s)).lane l))

/-- The word whose bit i is p i. -/
def bitwise (p : Nat → Bool) : Word := BitVec.ofFnLE fun i : Fin 32 => p i.val

/-- A shift by n below 32, bit by bit (R207). -/
def shifted (k : ShiftKind) (x : Word) (n : Nat) : Word :=
  bitwise fun i => match k with
    | .shl => decide (n ≤ i) && x.getLsbD (i - n)
    | .shr => x.getLsbD (i + n)
    | .sar => x.getLsbD (min (i + n) 31)
    | .rotl => x.getLsbD ((i + (32 - n)) % 32)

/-- The predicates of R212 and R225 on numbers, and COMB. -/
def predicate (p : Pred) (x y : Int) : Bool :=
  match p with
  | .eq => decide (x = y)
  | .ne => decide (x ≠ y)
  | .lt => decide (x < y)
  | .le => decide (x ≤ y)
  | .gt => decide (y < x)
  | .ge => decide (y ≤ x)
def combined (c : Comb) (new old : Bool) : Bool :=
  match c with
  | .set => new
  | .and => new && old
  | .or => new || old

/-- Half k of a register: 0 the low one, 1 the high one; and a register made of two half results, their conditions joined (R207). -/
def half (x : Word) (k : Nat) : Nat := (x.extractLsb' (16 * k) 16).toNat
def bothHalves (f : Nat → Nat × Flags) : Nat × Flags := ((f 1).1 * 2 ^ 16 + (f 0).1, (f 1).2 ||| (f 0).2)

/-- The value of a finite magnitude's bits (R23); the formula's value at the bits of infinity is the next power of two. -/
def magValue (f : Fmt) (k : Nat) : ℚ :=
  if k / 2 ^ f.frac = 0 then k * (2 : ℚ) ^ (f.emin - f.frac)
  else ((2 ^ f.frac + k % 2 ^ f.frac : Nat) : ℚ) * (2 : ℚ) ^ (f.emin - f.frac + ((k / 2 ^ f.frac : Nat) : Int) - 1)

/-- r is the magnitude and the conditions that RoundNE gives of the exact positive x (R10, R24, R26): a nearest value of the format, an
even one of two as near; past the largest finite value by half its last place or more, infinity with OF and NX. NX says that the value
kept is not x, and UF that it is not and x rounds below the smallest normal at the format's precision. -/
def IsRounded (f : Fmt) (x : ℝ) (r : Nat × Flags) : Prop :=
  (f.inf ≤ r.1 ↔ ((magValue f (f.inf - 1) + magValue f f.inf) / 2 : ℚ) ≤ x) ∧
  (f.inf ≤ r.1 → r = (f.inf, of' ||| nx)) ∧
  (r.1 < f.inf →
    (∀ k, k < f.inf → |x - (magValue f r.1 : ℚ)| ≤ |x - (magValue f k : ℚ)|) ∧
    (∀ k, k < f.inf → k ≠ r.1 → |x - (magValue f k : ℚ)| = |x - (magValue f r.1 : ℚ)| → r.1 % 2 = 0) ∧
    ((magValue f r.1 : ℝ) = x → r.2 = 0) ∧
    ((magValue f r.1 : ℝ) ≠ x →
      (x < (2 : ℝ) ^ f.emin - (2 : ℝ) ^ (f.emin - f.prec - 1) → r.2 = nx ||| uf) ∧
      ((2 : ℝ) ^ f.emin - (2 : ℝ) ^ (f.emin - f.prec - 1) ≤ x → r.2 = nx)))

/-- From b to t only the issuing gang's issuing set changes: it blocks in the word with the wait w (R272). -/
structure Blocked (a : At) (b t : State) (w : Wait) : Prop where
  frame : OnlyGang a b t
  gang : t.gang a.gang = { b.gang a.gang with lanes := (t.gang a.gang).lanes }
  lanes : ∀ l, (t.gang a.gang).lane l =
    if l ∈ laneList a.set then { (b.gang a.gang).lane l with cond := .blocked, wait := w } else (b.gang a.gang).lane l

/-- A lane that a branch at a takes to the offset t. A retried one whose TRESUME the handler has moved goes on at TRESUME (assumption
21, the model's choice). -/
def jumped (a : At) (old : Lane) (t : Nat) (x : Lane) : Lane :=
  { x with pc := if old.resumeAt.getD a.next = a.next then t % 2 ^ 32 else x.pc }

/-- A branch target held in an instruction (R274). -/
def target (c : Issue) (disp : Word) : Nat := (((c.pc : Int) + disp.toInt) % 2 ^ 32).toNat

/-- The word i, where it executes, completes as a branch: its executing lanes go to t, and change by f; the others of the issuing set go to
the next offset; nothing else changes. -/
def JumpResult (i : Instr) (c : Issue) (s : State) (t : Nat → Nat) (f : Nat → Lane → Lane) : Prop :=
  ∃ u, exec i s = .next (settle c (begun i c s) u) ∧
    Moved (at' i c s) (begun i c s) u (gang c (begun i c s)) fun l x =>
      f l (jumped (at' i c s) ((gang c (begun i c s)).lane l) (t l) x)

/-- The word i, begun in the state b, raises in the state t a precise fault of the lanes m at its own offset (R65, R314). -/
def raised (i : Instr) (c : Issue) (s b t : State) (m : Lanes) (cause addr info : Nat) : State :=
  (at' i c s).finish b (.trap t m cause addr info)

/-- Nothing keeps a fault of the lanes m from the handler: no handler runs, no pre-emption drains, the grid has a handler, no earlier
fault waits, and no window of theirs is owed a result (R70, R314, R319, R324). -/
def takesTrap (gk : Nat) (s : State) (m : Lanes) : Bool :=
  m != 0 && !(s.gang gk).hmode && (s.gang gk).waitTrap == [] && !(s.dev.pre.req && !s.dev.pre.done) &&
  (s.grid (s.gridOf gk)).thandler != 0 && !s.windowPending gk m

/-- The trap v has been taken by the gang gk in the state b, giving t (R314, R316): the six trap registers, H, handler mode and the
trap count are written; the lanes of H stand at THANDLER, running, with no window; the frame is in the save area; beside this gang, the
pool of its core and the core's counters nothing changes. -/
structure Trapped (gk : Nat) (b t : State) (v : Trap) : Prop where
  gang : t.gang gk = { b.gang gk with
    t := ⟨v.cause, v.tpc, v.tresume, v.addr, v.lanes, v.info⟩, hset := v.lanes, hmode := true, retry := false,
    traps := min ((b.gang gk).traps + 1) (2 ^ 32 - 1), trapTime := b.dev.dtime % 2 ^ 64, lanes := (t.gang gk).lanes }
  lanes : ∀ l, (t.gang gk).lane l = if l ∈ laneList v.lanes then
      { (b.gang gk).lane l with pc := (b.grid (b.gridOf gk)).thandler, cond := .running, wait := .none, hold := none, wins := [], resumeAt := none }
    else (b.gang gk).lane l
  others : ∀ k, k ≠ gk → t.gang k = b.gang k
  frame : t.core (gk / 64) = { b.core (gk / 64) with
    pool := (b.core (gk / 64)).pool.writeBytes ((b.team (b.gang gk).team).saveRun + 256 * (b.gang gk).gangIdx) (State.frameBytes (t.gang gk)) }
  cores : ∀ k, k ≠ gk / 64 → t.core k = b.core k
  rest : t = { b with ctx := { b.ctx with gangs := t.ctx.gangs, cores := t.ctx.cores }, dev := { b.dev with cores := t.dev.cores } }

/-- The word puts an access in flight (R145): it is x, under the next identifier, its requests being rs, each a lane, an exact offset, an
operand and an expected value, and a load comes after what its addresses depend on (R169); the issuing set moves past the word, and its executing lanes change by f; nothing else changes. -/
structure Launched (a : At) (b t : State) (x : Access) (rs : List (Nat × Int × Nat × Nat)) (f : Lane → Lane) : Prop where
  access : ∃ (qs : List Req) (after : Tbl Nat), t.access? b.ctx.nextId = some { x with reqs := qs, after := after } ∧
    qs.map (fun r => (r.lane, r.offset, r.data, r.expect)) = rs ∧ (x.kind = .load ∨ x.kind = .sld → after = (b.orderOf a.gang).dep)
  accesses : ∀ k, k ≠ b.ctx.nextId → t.access? k = b.access? k
  rest : t = { b with ctx := { b.ctx with gangs := t.ctx.gangs, accs := t.ctx.accs, nextId := b.ctx.nextId + 1 } }
  others : ∀ k, k ≠ a.gang → t.gang k = b.gang k
  gang : t.gang a.gang = { b.gang a.gang with lanes := (t.gang a.gang).lanes }
  lanes : ∀ l, (t.gang a.gang).lane l = laneAfter a (fun _ => f) l ((b.gang a.gang).lane l)

/-- The word i, where it executes, puts a returning access in flight, and each executing lane gets a window for its result (R68). -/
def Owed (i : Instr) (la : Nat) (x : State → At → Access) (rs : State → At → Nat → Int × Nat × Nat) : Prop :=
  ∀ (c : Issue) (s : State), ready i c s = true →
    ∃ t, exec i s = .next (settle c (begun i c s) t) ∧
      Launched (at' i c s) (begun i c s) t
        { x (begun i c s) (at' i c s) with la := la }
        ((at' i c s).exec.map fun l => (l, rs (begun i c s) (at' i c s) l))
        fun y => { y with wins := y.wins ++ [⟨(begun i c s).ctx.nextId, la⟩] }

/-- One request r of the access x, under the identifier id, may be served now: it is all that x still owes, nothing is waited for, and no
earlier access of its lane touches its bytes (R169). -/
def Due (s : State) (id : Nat) (x : Access) (r : Req) : Prop :=
  s.access? id = some x ∧ x.reqs = [r] ∧ x.stall = [] ∧ x.faults = [] ∧ x.sent = none ∧ x.notBefore ≤ s.now ∧ s.awaits id = false ∧
    (s.gang x.gang).waitTrap = [] ∧ x.orphan = false ∧ (s.gang x.gang).live = true ∧ x.work = none ∧ x.reply = none ∧ x.out = [] ∧
    { s with eng := some id }.earlierOverlap id x r = false

/-- The n bytes at offset off of the buffer h lie in one line at the place p, whose port and channel work, which is not poisoned, and which
nothing holds up. -/
structure Placed (s : State) (id : Nat) (h off n : Nat) (e : Entry) (p : Piece) : Prop where
  whole : cutParts e 4 off n = [(off, n)]
  place : s.place e h off n = .ok p
  line : p.loc / 128 = (p.loc + n - 1) / 128
  up : s.dev.portUp p.loc = true
  kept : s.dev.lostAt p.loc = false
  clean : s.dev.isPoisoned p.loc n = false
  free : ∀ core, s.heldBlocks id core (e.base + off) = false

/-- The access x has returned v to the lane of its request r: the registers its width names hold v, no window waits for the access any
more, and of the gangs nothing else changes but the store sets of its own. -/
structure Delivered (id : Nat) (x : Access) (r : Req) (v : Nat) (b t : State) : Prop where
  done : t.access? id = none
  lane : (t.gang x.gang).lane r.lane = { ((b.gang x.gang).lane r.lane).setWide x.reg x.wd v with
    wins := ((b.gang x.gang).lane r.lane).wins.filter fun w => w.acc != id }
  lanes : ∀ l, l < 64 → l ≠ r.lane → (t.gang x.gang).lane l = { (b.gang x.gang).lane l with
    wins := ((b.gang x.gang).lane l).wins.filter fun w => w.acc != id }
  gang : t.gang x.gang = { b.gang x.gang with lanes := (t.gang x.gang).lanes, stores := (t.gang x.gang).stores }
  others : ∀ k, k ≠ x.gang → t.gang k = b.gang k

/-- Memory becomes m with the bytes bs at a location, and no byte outside them changes. -/
def Stored (b t : State) (loc : Nat) (bs : List Byte) : Prop :=
  t.dev.mem = b.dev.mem.writeBytes loc bs ∧
    ∀ a, a < loc ∨ loc + bs.length ≤ a → t.dev.mem.read a = b.dev.mem.read a

/-- The access of a store is done: no lane has changed, and of the gangs only the store sets. -/
def Written (id : Nat) (b t : State) : Prop :=
  t.access? id = none ∧ ∀ k, t.gang k = { b.gang k with stores := (t.gang k).stores }

/-- The store set of a gang under some scope class of a path holds a WCT after now and after every lease of a line's copies that
the line's home remembers (R120, R176). -/
def WctNoted (b t : State) (gk path line : Nat) : Prop :=
  ∃ sys, let w := (Tbl.get StoreSet.none (t.gang gk).stores (State.setKey path sys)).wct
    b.now < w ∧ (Tbl.get L2Line.fresh b.dev.l2 line).lexp < w

/-- The bytes of a team's stash at so, and the pool of its core with bytes written there. -/
def stashStored (b t : State) (team so : Nat) (bs : List Byte) : Prop :=
  t.core (teamCore team) = { b.core (teamCore team) with
    pool := (b.core (teamCore team)).pool.writeBytes ((b.team team).stashRun + so) bs } ∧ ∀ k, k ≠ teamCore team → t.core k = b.core k

/-- The team's stash is scratch throughout, with no region mapped and no sector marked, and no older byte of it may be read any more (R173). -/
def scratch (s : State) (team : Nat) : Prop :=
  (s.team team).maps = [] ∧ (∀ i, ((s.team team).sector i).poison = false) ∧ ∀ x ∈ s.ctx.stashOld, x.team ≠ team

/-- An engine that reads n bytes of a team's stash for the job w reads them as they stand: none of them has changed since the job may first have
read them (R13). -/
def Stands (s : State) (w : Work) (team so n : Nat) : Prop :=
  ∀ p ∈ s.ctx.poolPast, w.born < p.at' → p.loc + p.bytes.length ≤ s.poolLoc team so ∨ s.poolLoc team so + n ≤ p.loc

/-- Of the device only which translations stay cached has changed (R321). -/
def sameDev (b t : State) : Prop := t.dev = { b.dev with tlb := t.dev.tlb }

/-- What a load of a gang's lane l may return of n bytes at a place: as they stand, or with the newest of the writes undone that were performed
after everything the lane's later loads come after and the instant `after`, and byte by byte after the lane's own last access (R165, R169). -/
def mayRead (s : State) (gk l after loc n k : Nat) : List Byte :=
  ((s.pastOf (max ((s.orderOf gk).floorOf l) after) loc n).take k).foldl
    (State.undo loc fun a p => decide (State.touchedAt (s.orderOf gk) l a < p.at')) (s.dev.mem.readBytes loc n)

/-- No access of a gang is in flight. -/
def quiet (s : State) (gk : Nat) : Prop := ∀ y ∈ s.ctx.accs, y.2.gang ≠ gk

/-- The issuing set is held at the word without being blocked, under the hold record h, which is new (R384). -/
structure Held (a : At) (b t : State) (h : Hold) : Prop where
  hold : Tbl.find? t.ctx.holds b.ctx.nextId = some h
  holds : ∀ k, k ≠ b.ctx.nextId → Tbl.find? t.ctx.holds k = Tbl.find? b.ctx.holds k
  rest : t = { b with ctx := { b.ctx with gangs := t.ctx.gangs, holds := t.ctx.holds, nextId := b.ctx.nextId + 1 } }
  others : ∀ k, k ≠ a.gang → t.gang k = b.gang k
  gang : t.gang a.gang = { b.gang a.gang with lanes := (t.gang a.gang).lanes }
  lanes : ∀ l, (t.gang a.gang).lane l =
    if l ∈ laneList a.set then { (b.gang a.gang).lane l with hold := some b.ctx.nextId, cond := .running } else (b.gang a.gang).lane l

/-- The lanes of a hold record go on after the word of eight bytes at which it holds them, and the record is gone. -/
structure Released (id : Nat) (h : Hold) (b t : State) : Prop where
  gone : Tbl.find? t.ctx.holds id = none
  others : ∀ k, k ≠ h.gang → t.gang k = b.gang k
  lanes : ∀ l, ((t.gang h.gang).lane l) =
    if l ∈ laneList h.lanes ∧ ((b.gang h.gang).lane l).hold = some id then
      ((b.gang h.gang).lane l).advance ((h.pc + 8) % 2 ^ 32) else (b.gang h.gang).lane l

/-- The asynchronous word i, where it executes, completes at issue: its token register is pending, and the job is with its engine under
the next identifier (R71). -/
structure Begun (a : At) (b t : State) (tok op10 : Nat) (job : Job) : Prop where
  work : t.work? b.ctx.nextId = some (a.work b tok op10 job)
  works : ∀ k, k ≠ b.ctx.nextId → t.work? k = b.work? k
  rest : t = { b with ctx := { b.ctx with gangs := t.ctx.gangs, works := t.ctx.works, nextId := b.ctx.nextId + 1 } }
  others : ∀ k, k ≠ a.gang → t.gang k = b.gang k
  gang : t.gang a.gang = { b.gang a.gang with lanes := (t.gang a.gang).lanes, tokens := (t.gang a.gang).tokens }
  tokens : ∀ k, Tbl.find? (t.gang a.gang).tokens k = if k = tok then some b.ctx.nextId else Tbl.find? (b.gang a.gang).tokens k
  lanes : ∀ l, (t.gang a.gang).lane l = laneAfter a (fun _ x => x) l ((b.gang a.gang).lane l)

/-- An asynchronous word that passes its checks hands a job to its engine. -/
def Starts (i : Instr) (c : Issue) (s : State) (tok op10 : Nat) (job : Job) : Prop :=
  ∃ t, exec i s = .next (settle c (begun i c s) t) ∧ Begun (at' i c s) (begun i c s) t tok op10 job

/-- The token of the job w holds the value of R12 for a cause and a count, and is pending no more; the job is gone. -/
def TokenWritten (id : Nat) (w : Work) (cause count : Nat) (t : State) : Prop :=
  t.work? id = none ∧ (t.gang w.gang).sreg w.tok = BitVec.ofNat 32 (2 ^ 31 + cause % 128 * 2 ^ 24 + count % 2 ^ 24) ∧
    Tbl.find? (t.gang w.gang).tokens w.tok = none

/-- The job w stands under id and may go on; its gang lives, and no access of it is under way, nor any part of a beat, so its
token follows its end at once. -/
structure Working (s : State) (id : Nat) (w : Work) : Prop where
  found : s.work? id = some w
  free : s.workHeld id w = false
  live : (s.gang w.gang).live = true
  mine : w.orphan = false
  now : w.due = none
  alone : ∀ y ∈ s.ctx.accs, y.2.work ≠ some id
  parts : w.parts = []

/-- Two states translate alike (R321). -/
def sameWalks (s u : State) : Prop := ∀ va, u.translate va = s.translate va

/-- A read of n bytes of a buffer for the job id gives bs and changes nothing but which translations stay cached (R321), and does not depend
on those, on what the cores hold, or on what older bytes of stashes are kept. -/
def ReadsAs (s : State) (id gid h off n : Nat) (q : Need) (bs : List Byte) : Prop :=
  bs.length = n ∧
    ∀ u : State, u = { s with
        eng := some id
        dev := { s.dev with tlb := u.dev.tlb }
        ctx := { s.ctx with cores := u.ctx.cores, stashOld := u.ctx.stashOld, poolPast := u.ctx.poolPast } } → sameWalks s u →
      ∃ tlb, u.memRead gid h off n q = ({ u with dev := { u.dev with tlb := tlb } }, .ok bs) ∧
        sameWalks s { u with dev := { u.dev with tlb := tlb } }

/-- The job w has ended from b to t: its token is written, and of the gangs nothing else has changed but where the writes and the fault
of its token are kept. -/
structure Ended (id : Nat) (w : Work) (cause count : Nat) (b t : State) : Prop where
  token : TokenWritten id w cause count t
  others : ∀ k, k ≠ w.gang → t.gang k = b.gang k
  gang : t.gang w.gang = { b.gang w.gang with
    s := (t.gang w.gang).s, tokens := (t.gang w.gang).tokens, unread := (t.gang w.gang).unread, engFault := (t.gang w.gang).engFault,
    engInfo := (t.gang w.gang).engInfo }
  registers : ∀ k, k ≠ w.tok → (t.gang w.gang).sreg k = (b.gang w.gang).sreg k

/-- Of the cores only the pool of the team's core has changed: bytes are written at offsets of the team's stash, one after another. -/
def Pooled (b t : State) (team : Nat) (ws : List (Nat × List Byte)) : Prop :=
  (∀ k, k ≠ teamCore team → t.core k = b.core k) ∧
    t.core (teamCore team) = { b.core (teamCore team) with
      pool := ws.foldl (fun m w => m.writeBytes ((b.team team).stashRun + w.1) w.2) (b.core (teamCore team)).pool }

/-- The tile c of a core has taken a step's terms: each element the terms of R44 in their order, one rounded addition each; its status
word every condition met and one step more, up to 65 535 (R236, R244). Of the core's other tiles none has changed. -/
def Merged (b t : State) (core c : Nat) (dense : Tbl Term) (lines : List OutLine) (fl : Flags) : Prop :=
  let old := b.tile core c
  let sum := fun (x : Nat) => State.addTerms (Tbl.get 0 old.el x).toNat (State.elemTerms dense lines (x / 64) (x % 64))
  (∀ x, x < 4096 → Tbl.get 0 (t.tile core c).el x = BitVec.ofNat 32 (sum x).1) ∧
    (t.tile core c).status =
      (BitVec.ofNat 5 old.status ||| (List.range 4096).foldl (fun f x => f ||| (sum x).2) fl).toNat + bits old.status 8 1 * 2 ^ 8 +
        min (old.status / 2 ^ 16 + 1) 65535 * 2 ^ 16 ∧
    ∀ k, k ≠ c → t.tile core k = b.tile core k

end Sys2Proof.Claims
end

