-- ==== Sys2Proof/Certificates/Slice0/Obligations.lean ====
section
/-! DEFINITION. The obligations: what the numbered rules of the spec say that words, steps and events do, stated of the model. -/

open Sys2Proof Machine Claims

/-! Encoding. -/

/-- Words written out field by field from the layouts of R55 to R61 and the opcode map of R63 decode to their instructions. -/
def Obligations.SampleWordsDecode : Prop :=
  -- lane short: op6 [29:24], G [23:21], VD [20:14], VA [13:7], VB [6:0]
  decodeWords (0b00#2 ++ 0x01#6 ++ 7#3 ++ 3#7 ++ 4#7 ++ 5#7) 0 = .ok (.iadd 7 3 4 5) ∧
  decodeWords (0b00#2 ++ 0x28#6 ++ 2#3 ++ 10#7 ++ 11#7 ++ 12#7) 0 = .ok (.sel 2 10 11 12) ∧
  -- lane long: op10 [29:20], G [19:17], GN [16], VD [15:9], VA [8:2], zero [1:0]; VB, VC, LA, TYPE, op-specific
  decodeWords (0b01#2 ++ 0x001#10 ++ 7#3 ++ 0#1 ++ 3#7 ++ 4#7 ++ 0#2) 0xFFFFFFFF = .ok (.iaddi ⟨7, false⟩ 3 4 0xFFFFFFFF) ∧
  decodeWords (0b01#2 ++ 0x006#10 ++ 3#3 ++ 1#1 ++ 0#7 ++ 5#7 ++ 0#2) (6#7 ++ 0#7 ++ 0#4 ++ 3#4 ++ 0#2 ++ 0#2 ++ 2#3 ++ 2#3) =
    .ok (.icmp ⟨3, true⟩ 2 5 6 .i32 .lt .set) ∧
  decodeWords (0b01#2 ++ 0x020#10 ++ 7#3 ++ 0#1 ++ 8#7 ++ 9#7 ++ 0#2) (0#7 ++ 0#7 ++ 0#4 ++ 0#4 ++ 0#1 ++ 1#6 ++ 1#1 ++ 3#2) =
    .ok (.shfl ⟨7, false⟩ 8 9 0 .xor true 1) ∧
  -- uniform short: op6 [29:24], Z [23:22], SD [21:16], SA [15:10], SB [9:4], op-specific [3:0]
  decodeWords (0b10#2 ++ 0x01#6 ++ 3#2 ++ 6#6 ++ 7#6 ++ 8#6 ++ 0#4) 0 = .ok (.sadd 3 6 7 8) ∧
  -- uniform long: op10 [29:20], Z [19:18], ZN [17], SD [16:11], SA [10:5], zero [4:0]
  decodeWords (0b11#2 ++ 0x00F#10 ++ 3#2 ++ 0#1 ++ 21#6 ++ 4#6 ++ 0#5) 100 = .ok (.scmpi ⟨3, false⟩ 1 4 .ge false 100) ∧
  -- the all-zero word, and an op6 that no row of R63 assigns
  decodeWords 0 0 = .error .illegalOpcode ∧
  decodeWords (0b00#2 ++ 0x3F#6 ++ 0#24) 0 = .error .illegalOpcode

/-- Decoding the bytes of an encoded word gives the word back, whatever follows it in the code: no bit of any field is lost. -/
def Obligations.DecodeOfEncode : Prop :=
  ∀ (i : Instr) (rest : List Byte), i.isCode = true → i.wf = true →
    decodeBytes (i.encode.flatMap (fun w => toBytes 4 w.toNat) ++ rest) = .ok (i, rest)

/-- No two words mean one instruction: what a word decodes to encodes to that word, with its second word where bit 30 asks for one, and
is admitted by the encoding rules. -/
def Obligations.EncodeOfDecode : Prop :=
  ∀ (w0 w1 : Word) (i : Instr), decodeWords w0 w1 = .ok i →
    i.isCode = true ∧ i.wf = true ∧ i.encode = if w0.getLsbD 30 then [w0, w1] else [w0]

/-- The layout of the lane-short words (R56): bits [31:30] zero, the opcode of R63 in [29:24], the guard in [23:21], VD in [20:14], VA in
[13:7] and VB in [6:0], every field at every value; the words of one source have VB zero. SEL executes in every lane of its issuing set. -/
def Obligations.LaneShortWordsDecode : Prop :=
  let word := fun (op : BitVec 6) (g : GReg) (d a b : VReg) =>
    0b00#2 ++ op ++ BitVec.ofFin (w := 3) g ++ BitVec.ofFin (w := 7) d ++ BitVec.ofFin (w := 7) a ++ BitVec.ofFin (w := 7) b
  (∀ x ∈ ([
      (0x01, .iadd), (0x02, .isub), (0x03, .imul), (0x04, .imulhs), (0x05, .imulhu), (0x06, .imin), (0x07, .imax), (0x08, .umin),
      (0x09, .umax), (0x0A, .and), (0x0B, .or), (0x0C, .xor), (0x0D, .andn), (0x0E, .shl), (0x0F, .shr), (0x10, .sar),
      (0x11, .rotl), (0x16, .fadd), (0x17, .fsub), (0x18, .fmul), (0x19, .fmin), (0x1A, .fmax), (0x20, .hadd2), (0x21, .hmul2),
      (0x22, .hmax2), (0x25, .pkbf), (0x28, .sel)] :
      List (BitVec 6 × (GReg → VReg → VReg → VReg → Instr))),
    ∀ g d a b, decodeWords (word x.1 g d a b) 0 = .ok (x.2 g d a b)) ∧
  (∀ x ∈ ([
      (0x12, .popc), (0x13, .clz), (0x14, .brev), (0x15, .mov), (0x1B, .frcp), (0x1C, .frsq), (0x1D, .fsqrt), (0x1E, .fexp2),
      (0x1F, .flog2), (0x23, .cvtif), (0x24, .cvtfi), (0x26, .upbfl), (0x27, .upbfh), (0x2A, .fabs), (0x2B, .fneg)] :
      List (BitVec 6 × (GReg → VReg → VReg → Instr))),
    ∀ g d a, decodeWords (word x.1 g d a 0) 0 = .ok (x.2 g d a)) ∧
  (∀ g d, decodeWords (word 0x29 g d 0 0) 0 = .ok (.lane g d)) ∧
  ∀ (g : GReg) (d a b : VReg) (c : Issue) (s : State), (at' (.sel g d a b) c s).exec = laneList c.lanes

/-! The step. -/

/-- Where an issue slot is what happens next and the bytes at its offset decode to i, the step executes i with the slot in hand, the naps of
its gang that are over having ended (R287), and then accounts for the slot and lets time pass. Where they decode to nothing, or the
fetch faults, the issuing set traps at its own offset, the step of a debugger being over (R65, R274, R314); at a barrier the gang
reconverges first (R283). The instruction at an offset is what the decoder reads from the word there and, where bit 30 of it asks for a
second word, the word at the next offset; words that decode to nothing give ILLEGAL_OPCODE or RESERVED_FIELD, and pass with their own
length. Where it touches what assumptions 1 and 4 decide, it states the model's choice. -/
def Obligations.StepRunsTheDecodedWord : Prop :=
  ((∀ (s t : State) (c : Issue) (i : Instr), s.choose = some (.slot c) →
    (s.modGang (key c) fun g => g.wakeNaps s.now).fetch (key c) c.pc = (t, .instr i) →
    step s = match exec i { t with cur := some c } with
      | .next u => .next ((s.beforeSlot c).afterSlot c i u).tick
      | .fault r => .fault r
      | .refused r => .refused r) ∧
  ∀ (s t : State) (c : Issue) (e : Err) (n : Nat) (barrier : Bool), s.choose = some (.slot c) →
    (s.modGang (key c) fun g => g.wakeNaps s.now).fetch (key c) c.pc = (t, .bad e n barrier) →
    let b := t.modGang (key c) fun g => { g with stepOne := false }
    let g := Claims.gang c b
    let set := if barrier = true ∧ g.gathered c.pc = true then g.nonExited else c.lanes
    let a : At := ⟨c.core, c.slot, set, laneList set, c.pc, (c.pc + 4) % 2 ^ 32, c.again⟩
    (barrier = true → set ≠ g.nonExited → ∃ u, step s = .next u.tick ∧ Blocked a b u .reconv) ∧
    (¬(barrier = true ∧ set ≠ g.nonExited) → takesTrap (key c) b set = true →
      ∃ u v, step s = .next v.tick ∧ Trapped (key c) u v ⟨e.cause, c.pc, (c.pc + n) % 2 ^ 32, e.addr, set, e.info, b.ctx.nextId⟩ ∧
        OnlyGang a b u ∧ { u.gang (key c) with lanes := [] } = { g with lanes := [] })) ∧
  (∀ (s t u : State) (gk pc : Nat) (w0 w1 : Word),
    { s with eng := some (fetchAsk gk) }.fetchWord gk pc (s.codeSince gk pc) = (t, .ok w0) →
    (isLong w0.toNat = true → t.fetchWord gk ((pc + 4) % 2 ^ 32) (s.codeSince gk pc) = (u, .ok w1)) →
    let len := if w0.getLsbD 30 then 8 else 4
    (∀ i, decodeWords w0 w1 = .ok i → (s.fetch gk pc).2 = .instr i) ∧
    (decodeWords w0 w1 = .error .illegalOpcode → (s.fetch gk pc).2 = .bad ⟨0x01, 0, 0⟩ len false) ∧
    (decodeWords w0 w1 = .error .reservedField → ∃ barrier, (s.fetch gk pc).2 = .bad ⟨0x02, 0, 0⟩ len barrier))

/-- Where an event is what happens next, the step performs it, the operation having left the queue of the ports if it stood there, and lets
time pass; where nothing may happen, time passes. Time never runs back with a step's end: DTIME and the counter of core cycles only grow
in it, and neither memory nor the context changes (R19). Where it touches what assumptions 1, 4, 64 and 95 decide, it states the model's
choice. -/
def Obligations.StepPerformsTheEvent : Prop :=
  ((∀ (s : State) (i : Instr), s.choose = some (.event i) →
    step s = match exec i (s.takeInput i) with
      | .next u => .next u.tick
      | .fault r => .fault r
      | .refused r => .refused r) ∧
  ∀ s : State, s.choose = none → step s = .next s.tick) ∧
  (∀ s : State, s.dev.dtime ≤ s.tick.dev.dtime ∧ s.dev.cycle ≤ s.tick.dev.cycle ∧ s.tick.dev.mem = s.dev.mem ∧ s.tick.ctx = s.ctx ∧
    s.tick.saved = s.saved ∧ s.tick.inputs = s.inputs ∧ s.tick.ticks = s.ticks + 1)

/-! Reset and the form of memory. -/

/-- After reset no context is resident, nothing is in flight, class 0 has all of HBM4 (R86), every order-circle slot reads GAPUS 50
(R261), LEASE_NS is 1024 (R52), and the far and host timeouts are 4 ms and the fabric timeout 2 ms (R97, R252). -/
def Obligations.ResetLeavesTheManualsValues : Prop :=
  let d := State.reset.dev
  State.reset.ctx = .empty ∧ d.pre.resident = false ∧ d.pre.req = false ∧
  (∀ a : Nat, a < 256 * 2 ^ 31 → (d.classLoc 0 a).isSome = true) ∧ (∀ c a : Nat, 1 ≤ c → c ≤ 14 → d.classLoc c a = none) ∧
  (∀ k : Nat, (Tbl.get Circle.free State.reset.ctx.circles k).gapus = 50) ∧
  d.host.leaseNs = 1024 ∧ d.host.farTimeout = 4000000 ∧ d.host.hostTimeout = 4000000 ∧ d.host.fabricTimeout = 2000000

/-- Memory, the pools of the cores, of the saved contexts and the checkpoint's copy have their canonical form at reset. Where it touches
what assumption 2 decides, it states the model's choice. -/
def Obligations.ResetMemoryIsCanonical : Prop :=
  Safety.MemoryCanonical State.reset

/-- Every step that answers a state keeps memory in its canonical form: equal memories stay equal data. Where it touches what assumption 2
decides, it states the model's choice. -/
def Obligations.StepKeepsMemoryCanonical : Prop :=
  ∀ s t : State, Safety.MemoryCanonical s → step s = .next t → Safety.MemoryCanonical t

/-! Lane arithmetic (R204 to R217): each statement gives the register written, its value, the flags raised, and that nothing else changes. -/

/-- IADD, ISUB, IADDI, IMUL, IMULHS, IMULHU: sums, differences and the low and high words of products, modulo 2^32, with no condition. IMIN,
IMAX, UMIN, UMAX: the smaller or larger operand, read as signed or as unsigned. IMAD adds the product to c modulo 2^32, and in its wide
form the product of the extended factors to the pair at VC modulo 2^64, into the pair at VD (R210). URAND writes Mix of the key and the
counter, or Mix shifted right by 8 and scaled by 2^-24 as FP32 with TYPE 7; for one key, distinct counters give distinct integers, and
the FP32 value is exact (R217). -/
def Obligations.LaneIntegerArithmetic : Prop :=
  ((∀ g d a b, LaneResult (.iadd g d a b) d (fun _ _ _ x => BitVec.ofNat 32 ((x.reg a).toNat + (x.reg b).toNat)) noFlags) ∧
  (∀ g d a b, LaneResult (.isub g d a b) d (fun _ _ _ x => BitVec.ofInt 32 ((x.reg a).toInt - (x.reg b).toInt)) noFlags) ∧
  (∀ g d a imm, LaneResult (.iaddi g d a imm) d (fun _ _ _ x => BitVec.ofNat 32 ((x.reg a).toNat + imm.toNat)) noFlags) ∧
  (∀ g d a b, LaneResult (.imul g d a b) d (fun _ _ _ x => BitVec.ofNat 32 ((x.reg a).toNat * (x.reg b).toNat)) noFlags) ∧
  (∀ g d a b, LaneResult (.imulhs g d a b) d
    (fun _ _ _ x => ((x.reg a).signExtend 64 * (x.reg b).signExtend 64).extractLsb' 32 32) noFlags) ∧
  (∀ g d a b, LaneResult (.imulhu g d a b) d
    (fun _ _ _ x => ((x.reg a).zeroExtend 64 * (x.reg b).zeroExtend 64).extractLsb' 32 32) noFlags)) ∧
  ((∀ g d a b, LaneResult (.imin g d a b) d (fun _ _ _ x => BitVec.ofInt 32 (min (x.reg a).toInt (x.reg b).toInt)) noFlags) ∧
  (∀ g d a b, LaneResult (.imax g d a b) d (fun _ _ _ x => BitVec.ofInt 32 (max (x.reg a).toInt (x.reg b).toInt)) noFlags) ∧
  (∀ g d a b, LaneResult (.umin g d a b) d (fun _ _ _ x => BitVec.ofNat 32 (min (x.reg a).toNat (x.reg b).toNat)) noFlags) ∧
  (∀ g d a b, LaneResult (.umax g d a b) d (fun _ _ _ x => BitVec.ofNat 32 (max (x.reg a).toNat (x.reg b).toNat)) noFlags)) ∧
  ((∀ g d a b c ty, LaneResult (.imad g d a b c ty false) d
    (fun _ _ _ x => BitVec.ofNat 32 ((x.reg a).toNat * (x.reg b).toNat + (x.reg c).toNat)) noFlags) ∧
  (∀ (g : LGuard) (d a b c : VReg) (ty : IntType) (k : Issue) (s : State), ready (.imad g d a b c ty true) k s = true →
    ∃ t, exec (.imad g d a b c ty true) s = .next (settle k (begun (.imad g d a b c ty true) k s) t) ∧
      Moved (at' (.imad g d a b c ty true) k s) (begun (.imad g d a b c ty true) k s) t
        (Claims.gang k (begun (.imad g d a b c ty true) k s)) fun l x =>
          let old := (Claims.gang k (begun (.imad g d a b c ty true) k s)).lane l
          let ext := fun (w : Word) => if ty = .n32 then w.zeroExtend 64 else w.signExtend 64
          let sum : BitVec 64 := ext (old.reg a) * ext (old.reg b) + (old.reg (c.val + 1) ++ old.reg c)
          (x.setReg d (sum.extractLsb' 0 32)).setReg (d.val + 1) (sum.extractLsb' 32 32))) ∧
  ((∀ g d a b, LaneResult (.urand g d a b false) d (fun _ _ _ x => mix (x.reg a) (x.reg b)) noFlags) ∧
  (∀ g d a b, LaneResult (.urand g d a b true) d
    (fun _ _ _ x => BitVec.ofNat 32 (fp32.round false ((mix (x.reg a) (x.reg b)).toNat / 2 ^ 8) (-24)).1) noFlags) ∧
  (∀ k : Word, Function.Injective (mix k)) ∧
  ∀ k c : Word, (fp32.round false ((mix k c).toNat / 2 ^ 8) (-24)).2 = 0)

/-- AND, OR, XOR, ANDN, and LOGI by its table, bit by bit (R207, R213). SHL, SHR, SAR, ROTL shift by the low five bits of b, SHFI by its
literal: bit i of the result is the bit n places below or above, zeros entering, or copies of bit 31, or the bits that leave (R207,
R213). POPC counts the one bits, CLZ the zero bits above the highest one bit (32 for zero), BREV puts bit i in bit 31 - i (R207). BFX
takes LEN bits from POS, extended by TYPE, and BFI puts LEN bits of b at POS into a (R213). -/
def Obligations.LaneBitsAndShifts : Prop :=
  ((∀ g d a b, LaneResult (.and g d a b) d (fun _ _ _ x => bitwise fun i => (x.reg a).getLsbD i && (x.reg b).getLsbD i) noFlags) ∧
  (∀ g d a b, LaneResult (.or g d a b) d (fun _ _ _ x => bitwise fun i => (x.reg a).getLsbD i || (x.reg b).getLsbD i) noFlags) ∧
  (∀ g d a b, LaneResult (.xor g d a b) d (fun _ _ _ x => bitwise fun i => (x.reg a).getLsbD i != (x.reg b).getLsbD i) noFlags) ∧
  (∀ g d a b, LaneResult (.andn g d a b) d (fun _ _ _ x => bitwise fun i => (x.reg a).getLsbD i && !(x.reg b).getLsbD i) noFlags) ∧
  (∀ g d a b c t, LaneResult (.logi g d a b c t) d
    (fun _ _ _ x => bitwise fun i => t.getLsbD (4 * ((x.reg a).getLsbD i).toNat + 2 * ((x.reg b).getLsbD i).toNat +
      ((x.reg c).getLsbD i).toNat)) noFlags)) ∧
  ((∀ g d a b, LaneResult (.shl g d a b) d (fun _ _ _ x => shifted .shl (x.reg a) ((x.reg b).toNat % 32)) noFlags) ∧
  (∀ g d a b, LaneResult (.shr g d a b) d (fun _ _ _ x => shifted .shr (x.reg a) ((x.reg b).toNat % 32)) noFlags) ∧
  (∀ g d a b, LaneResult (.sar g d a b) d (fun _ _ _ x => shifted .sar (x.reg a) ((x.reg b).toNat % 32)) noFlags) ∧
  (∀ g d a b, LaneResult (.rotl g d a b) d (fun _ _ _ x => shifted .rotl (x.reg a) ((x.reg b).toNat % 32)) noFlags) ∧
  (∀ g d a k n, LaneResult (.shfi g d a k n) d (fun _ _ _ x => shifted k (x.reg a) n) noFlags)) ∧
  ((∀ g d a, LaneResult (.popc g d a) d (fun _ _ _ x => BitVec.ofNat 32 ((List.range 32).countP fun i => (x.reg a).getLsbD i)) noFlags) ∧
  (∀ g d a, LaneResult (.clz g d a) d
    (fun _ _ _ x => BitVec.ofNat 32 ((List.range 32).countP fun i => decide ((x.reg a).toNat < 2 ^ i) || x.reg a == 0)) noFlags) ∧
  (∀ g d a, LaneResult (.brev g d a) d (fun _ _ _ x => bitwise fun i => (x.reg a).getLsbD (31 - i)) noFlags) ∧
  (∀ g d a ty pos len1, LaneResult (.bfx g d a ty pos len1) d
    (fun _ _ _ x => bitwise fun i => if i ≤ len1.val then (x.reg a).getLsbD (pos.val + i)
      else ty == .i32 && (x.reg a).getLsbD (pos.val + len1.val)) noFlags) ∧
  (∀ g d a b pos len1, LaneResult (.bfi g d a b pos len1) d
    (fun _ _ _ x => bitwise fun i => if pos.val ≤ i ∧ i ≤ pos.val + len1.val then (x.reg b).getLsbD (i - pos.val)
      else (x.reg a).getLsbD i) noFlags))

/-- MOV, LIMM, LANE and SEL: a copy, a literal, the lane's index, and the choice by the guard G, which SEL makes in every lane of its
issuing set (R207, R209). LEA forms the bref of the index s[HS][11:0] and the offset v[VO] + IMM x the width, modulo 2^52, in the pair
at VD, and checks nothing (R138, R148). TIDX gives the coordinate that SEL names, from the lane's index, GANGIDX, the role's first gang
and gang count, TEAMIDX and the shape (R216). -/
def Obligations.LaneMovesAndAddresses : Prop :=
  ((∀ g d a, LaneResult (.mov g d a) d (fun _ _ _ x => x.reg a) noFlags) ∧
  (∀ g d imm, LaneResult (.limm g d imm) d (fun _ _ _ _ => imm) noFlags) ∧
  (∀ g d, LaneResult (.lane g d) d (fun _ _ l _ => BitVec.ofNat 32 l) noFlags) ∧
  (∀ g d a b, LaneResult (.sel g d a b) d (fun _ _ _ x => if x.guard g then x.reg a else x.reg b) noFlags) ∧
  ∀ g d a b c s, (at' (.sel g d a b) c s).exec = laneList c.lanes) ∧
  (∀ (g : LGuard) (d : VReg) (hs : SReg) (vo : VReg) (wd : Width) (imm : BitVec 10) (k : Issue) (s : State),
    let i := Instr.lea g d hs vo wd imm
    ready i k s = true → ∃ t, exec i s = .next (settle k (begun i k s) t) ∧
      Moved (at' i k s) (begun i k s) t (Claims.gang k (begun i k s)) fun l x =>
        let off : Int := ((((Claims.gang k s).lane l).reg vo).toNat + imm.toInt * wd.bytes) % 2 ^ 52
        let ref : BitVec 64 := BitVec.ofNat 64 ((((Claims.gang k s).sreg hs).toNat % 4096) * 2 ^ 52 + off.toNat)
        (x.setReg d (ref.extractLsb' 0 32)).setReg (d.val + 1) (ref.extractLsb' 32 32)) ∧
  (∀ g d what xm ym, LaneResult (.tidx g d what xm ym) d (fun b a l _ =>
    let r := b.recordOf a.gang
    let gi := (b.gang a.gang).gangIdx
    let first := if gi < Rec.pgangs r then 0 else Rec.pgangs r
    let count := if gi < Rec.pgangs r then Rec.pgangs r else Rec.cgangs r
    let n := (gi - first) * 64 + l
    BitVec.ofNat 32 (match what.val with
      | 0 => l
      | 1 => gi * 64 + l
      | 2 => n
      | 3 => n % (xm.val + 1)
      | 4 => n / (xm.val + 1) % (ym.val + 1)
      | 5 => n / ((xm.val + 1) * (ym.val + 1))
      | 6 => (b.team (b.gang a.gang).team).teamIdx
      | _ => 64 * count)) noFlags)

/-- ICMP and FCMP write the guard GD by COMB from their predicate (signed unless TYPE is .n32; a NaN leaves FCMP's operands unordered); FCMP
raises NV for a signalling NaN alone; a write of g7 is discarded (R212, R48). g7 and z3 read 1 and discard writes; a write of another
guard changes that one alone (R48). -/
def Obligations.LaneComparesAndGuards : Prop :=
  ((∀ (g : LGuard) (gd : GReg) (a b : VReg) (ty : IntType) (p : Pred) (cb : Comb), GuardResult (.icmp g gd a b ty p cb) gd
    (fun x =>
      let u := if ty = .n32 then ((x.reg a).toNat : Int) else (x.reg a).toInt
      let v := if ty = .n32 then ((x.reg b).toNat : Int) else (x.reg b).toInt
      combined cb (predicate p u v) (x.guard gd)) fun _ => 0) ∧
  (∀ (g : LGuard) (gd : GReg) (a b : VReg) (ty : Bool) (p : FPred) (cb : Comb), GuardResult (.fcmp g gd a b ty p cb) gd
    (fun x => combined cb (FPred.holds p (fp32.read (x.reg a).toNat) (fp32.read (x.reg b).toNat)) (x.guard gd))
    fun x => if (fp32.read (x.reg a).toNat).signals ∨ (fp32.read (x.reg b).toNat).signals then nv else 0)) ∧
  ((∀ (x : Lane) (b : Bool), x.guard 7 = true ∧ x.setGuard 7 b = x) ∧
  (∀ (x : Lane) (n k : Nat) (b : Bool), n < 7 → k < 8 → (x.setGuard n b).guard k = if k = n then b else x.guard k) ∧
  (∀ (g : Gang) (b : Bool), g.zreg 3 = true ∧ g.setZ 3 b = g) ∧
  ∀ (g : Gang) (n k : Nat) (b : Bool), n < 3 → k < 4 → (g.setZ n b).zreg k = if k = n then b else g.zreg k)

/-- FADD, FSUB, FMUL, FMIN, FMAX, FFMA: one rounding of the exact result of the operands' values to FP32, and the conditions of every
executing lane raised (R207, R211, R24, R26). HADD2, HMUL2, HMAX2, HFMA2: each BF16 half by itself, both halves' conditions raised; PKBF
rounds a to the low half and b to the high half; UPBFL and UPBFH widen one half (R207, R211, R25). -/
def Obligations.LaneFloatingPoint : Prop :=
  ((∀ g d a b, FpResult (.fadd g d a b) d fun x => fp32.add (fp32.read (x.reg a).toNat) (fp32.read (x.reg b).toNat)) ∧
  (∀ g d a b, FpResult (.fsub g d a b) d fun x => fp32.add (fp32.read (x.reg a).toNat) (fp32.read (x.reg b).toNat).flip) ∧
  (∀ g d a b, FpResult (.fmul g d a b) d fun x => fp32.mul (fp32.read (x.reg a).toNat) (fp32.read (x.reg b).toNat)) ∧
  (∀ g d a b, FpResult (.fmin g d a b) d fun x => fp32.minmax false (x.reg a).toNat (x.reg b).toNat) ∧
  (∀ g d a b, FpResult (.fmax g d a b) d fun x => fp32.minmax true (x.reg a).toNat (x.reg b).toNat) ∧
  (∀ g d a b c ty negp negc, FpResult (.ffma g d a b c ty negp negc) d fun x =>
    fp32.fma negp negc (fp32.read (x.reg a).toNat) (fp32.read (x.reg b).toNat) (fp32.read (x.reg c).toNat)) ∧
  (∀ g d a, FpResult (.fabs g d a) d fun x =>
    if (fp32.read (x.reg a).toNat).isNaN then fp32.nanOf (fp32.read (x.reg a).toNat).signals else ((x.reg a).toNat % 2 ^ 31, 0)) ∧
  (∀ g d a, FpResult (.fneg g d a) d fun x =>
    if (fp32.read (x.reg a).toNat).isNaN then fp32.nanOf (fp32.read (x.reg a).toNat).signals
    else ((x.reg a ^^^ 0x80000000#32).toNat, 0))) ∧
  ((∀ g d a b, FpResult (.hadd2 g d a b) d fun x => bothHalves fun k =>
    bf16.add (bf16.read (half (x.reg a) k)) (bf16.read (half (x.reg b) k))) ∧
  (∀ g d a b, FpResult (.hmul2 g d a b) d fun x => bothHalves fun k =>
    bf16.mul (bf16.read (half (x.reg a) k)) (bf16.read (half (x.reg b) k))) ∧
  (∀ g d a b, FpResult (.hmax2 g d a b) d fun x => bothHalves fun k => bf16.minmax true (half (x.reg a) k) (half (x.reg b) k)) ∧
  (∀ g d a b c ty negp negc, FpResult (.hfma2 g d a b c ty negp negc) d fun x => bothHalves fun k =>
    bf16.fma negp negc (bf16.read (half (x.reg a) k)) (bf16.read (half (x.reg b) k)) (bf16.read (half (x.reg c) k))) ∧
  (∀ g d a b, FpResult (.pkbf g d a b) d fun x => bothHalves fun k => bf16.ofVal (fp32.read (if k = 0 then x.reg a else x.reg b).toNat)) ∧
  (∀ g d a, FpResult (.upbfl g d a) d fun x => fp32.ofVal (bf16.read (half (x.reg a) 0))) ∧
  (∀ g d a, FpResult (.upbfh g d a) d fun x => fp32.ofVal (bf16.read (half (x.reg a) 1))))

/-- CVTIF, CVTFI and CVT convert as R215 says, and CVTIF and CVTFI are CVT.F32.FROM_I32 and CVT.I32.FROM_F32. Between integers the value is
clamped to the destination's range; a floating value is rounded to an integer first, and the range test is made on that. FRCP, FRSQ,
FSQRT, FEXP2 and FLOG2 complete with one correctly rounded value, and their special operands give what R208's table says: zeros,
infinities, negative numbers and NaNs. -/
def Obligations.LaneConversionsAndFunctions : Prop :=
  ((∀ g d a, FpResult (.cvtif g d a) d fun x => fp32.round (decide ((x.reg a).toInt < 0)) (x.reg a).toInt.natAbs 0) ∧
  (∀ g d a, FpResult (.cvtfi g d a) d fun x => convert .i32 .f32 false (x.reg a).toNat) ∧
  (∀ g d a dst src rz, FpResult (.cvt g d a dst src rz) d fun x => convert dst src rz (x.reg a).toNat) ∧
  (∀ x : Word, convert .f32 .i32 false x.toNat = fp32.round (decide (x.toInt < 0)) x.toInt.natAbs 0) ∧
  (∀ x : Word, convert .i8 .i32 false x.toNat = ((BitVec.ofInt 32 (max (-128) (min 127 x.toInt))).toNat, 0)) ∧
  (∀ x : Word, convert .n16 .n32 false x.toNat = (min 65535 x.toNat, 0)) ∧
  (∀ (lo hi : Int) (rz neg : Bool) (m : Nat) (e : Int), lo ≤ hi →
    let n := toInteger rz neg m e
    toRange lo hi rz (.fin neg m e) =
      (max lo (min hi n.1), if n.1 < lo ∨ hi < n.1 then nv else if n.2 then nx else 0)) ∧
  ∀ (rz neg : Bool) (m : Nat) (e : Int),
    let n := toInteger rz neg m e
    let x : ℚ := (if neg then -1 else 1) * m * (2 : ℚ) ^ e
    (n.2 = true ↔ (n.1 : ℚ) ≠ x) ∧ (rz = true → |(n.1 : ℚ)| ≤ |x| ∧ |x| < |(n.1 : ℚ)| + 1) ∧
    (rz = false → |n.1 - x| ≤ 1 / 2 ∧ (|n.1 - x| = 1 / 2 → n.1 % 2 = 0))) ∧
  ((∀ g d a, FpResult (.frcp g d a) d fun x => frcp (x.reg a).toNat) ∧
  (∀ g d a, FpResult (.frsq g d a) d fun x => frsq (x.reg a).toNat) ∧
  (∀ g d a, FpResult (.fsqrt g d a) d fun x => fsqrt (x.reg a).toNat) ∧
  (∀ g d a, FpResult (.fexp2 g d a) d fun x => fexp2 (x.reg a).toNat) ∧
  (∀ g d a, FpResult (.flog2 g d a) d fun x => flog2 (x.reg a).toNat) ∧
  [frcp, frsq, fsqrt, fexp2, flog2].map (fun f => f 0x00000000) =
    [(0x7F800000, dz), (0x7F800000, dz), (0, 0), (0x3F800000, 0), (0xFF800000, dz)] ∧
  [frcp, frsq, fsqrt, fexp2, flog2].map (fun f => f 0x80000000) =
    [(0xFF800000, dz), (0xFF800000, dz), (0x80000000, 0), (0x3F800000, 0), (0xFF800000, dz)] ∧
  [frcp, frsq, fsqrt, fexp2, flog2].map (fun f => f 0x7F800000) =
    [(0, 0), (0, 0), (0x7F800000, 0), (0x7F800000, 0), (0x7F800000, 0)] ∧
  [frcp, frsq, fsqrt, fexp2, flog2].map (fun f => f 0xFF800000) =
    [(0x80000000, 0), (0x7FC00000, nv), (0x7FC00000, nv), (0, 0), (0x7FC00000, nv)] ∧
  (∀ (x m : Nat) (e : Int), fp32.read x = .fin true m e → m ≠ 0 →
    frsq x = (0x7FC00000, nv) ∧ fsqrt x = (0x7FC00000, nv) ∧ flog2 x = (0x7FC00000, nv)) ∧
  ∀ (x : Nat) (sg : Bool), fp32.read x = .nan sg → ∀ f ∈ [frcp, frsq, fsqrt, fexp2, flog2], f x = (0x7FC00000, if sg then nv else 0))

/-- Every rounding of the machine is RoundNE: the value kept is a nearest one of the format, an even one of two as near, infinite past the
largest finite value by half its last place or more; NX, UF and OF are raised exactly as R26 says (R10, R24, R26). -/
def Obligations.RoundingIsToNearestEven : Prop :=
  ∀ f ∈ [fp32, bf16, fp16], ∀ (m : Nat) (e : Int), m ≠ 0 → IsRounded f ((m : ℝ) * (2 : ℝ) ^ e) (f.roundMag m e)

/-- FRCP, FRSQ and FSQRT are correctly rounded: each is the exact reciprocal or root rounded once (R208). -/
def Obligations.ReciprocalAndRootsAreCorrectlyRounded : Prop :=
  ∀ (x m : Nat) (n : Bool) (e : Int), fp32.read x = .fin n m e → m ≠ 0 →
    (∃ r, IsRounded fp32 (1 / ((m : ℝ) * (2 : ℝ) ^ e)) r ∧ frcp x = (fp32.signed n r.1, r.2)) ∧
    (n = false → ∃ r, IsRounded fp32 (Real.sqrt ((m : ℝ) * (2 : ℝ) ^ e)) r ∧ fsqrt x = (fp32.signed false r.1, r.2)) ∧
    (n = false → ∃ r, IsRounded fp32 (1 / Real.sqrt ((m : ℝ) * (2 : ℝ) ^ e)) r ∧ frsq x = (fp32.signed false r.1, r.2))

/-! Across the gang (R218 to R223). -/

/-- SHFL and BCAST give each participating lane the source lane's register as it was, or its own where the source does not participate or
lies outside the gang (R218, R219, R222). VOTE: ALL, ANY and EQ give every participating lane one bit in VD, and in g[GD] where GW asks;
BALLOT gives it the set of the participating lanes whose register is not zero, in a pair (R220). REDL and SCANL complete: REDL gives
every participating lane the last value of the tree of R221, SCANL its own prefix, or with EXCL that of the lane below (the identity in
lane 0), and the conditions of the roundings that the written results depend on are raised. Where it touches what assumption 69 decides,
it states the model's choice. -/
def Obligations.LanesExchangeVoteAndReduce : Prop :=
  ((∀ g d a b mode wrel lit, LaneResult (.shfl g d a b mode wrel lit) d (fun s k l x =>
    let dist : Nat := if wrel then (if lit.val < 6 then 64 >>> lit.val else 0) else lit.val
    let src : Int := match mode with
      | .idx => (x.reg b).toNat % 128
      | .up => (l : Int) - dist
      | .down => l + dist
      | .xor => (l ^^^ dist : Nat)
    if 0 ≤ src ∧ src < 64 ∧ src.toNat ∈ k.exec then ((s.gang k.gang).lane src.toNat).reg a else x.reg a) noFlags) ∧
  (∀ g d a src first, LaneResult (.bcast g d a src first) d (fun s k l x =>
    let j := if first then k.exec.headD l else src.val
    if j ∈ k.exec then ((s.gang k.gang).lane j).reg a else x.reg a) noFlags)) ∧
  (∀ (g : LGuard) (d a : VReg) (mode : VoteMode) (gd : GReg) (gw : Bool) (k : Issue) (s : State),
    let i := Instr.vote g d a mode gd gw
    let b := begun i k s
    let part := (at' i k s).exec
    let v := fun l => ((Claims.gang k b).lane l).reg a
    ready i k s = true → ∃ t, exec i s = .next (settle k b t) ∧
      Moved (at' i k s) b t (Claims.gang k b) fun _ x =>
        match mode with
        | .ballot =>
          let set : BitVec 64 := BitVec.ofFnLE fun j : Fin 64 => decide (j.val ∈ part ∧ v j.val ≠ 0)
          (x.setReg d (set.extractLsb' 0 32)).setReg (d.val + 1) (set.extractLsb' 32 32)
        | _ =>
          let t : Bool := match mode with
            | .all => decide (∀ l ∈ part, v l ≠ 0)
            | .any => decide (∃ l ∈ part, v l ≠ 0)
            | _ => decide (∀ l ∈ part, ∀ m ∈ part, v l = v m)
          let y := x.setReg d (if t then 1 else 0)
          if gw then y.setGuard gd t else y) ∧
  ((∀ g d a r, LaneResult (.redl g d a r) d (fun s k _ _ => BitVec.ofNat 32 (reduce r (s.gang k.gang) k.exec a).1)
    fun s k => (reduce r (s.gang k.gang) k.exec a).2) ∧
  ∀ g d a r excl, LaneResult (.scanl g d a r excl) d
    (fun s k l _ => BitVec.ofNat 32 (if excl then (if l = 0 then Rop.identity r else ((scan r (s.gang k.gang) k.exec a).getD (l - 1) (0, 0)).1)
      else ((scan r (s.gang k.gang) k.exec a).getD l (0, 0)).1))
    fun s k => k.exec.foldl (fun f l => f ||| (scanAt r excl (scan r (s.gang k.gang) k.exec a) l).2) 0)

/-- For the integer operations the tree of R221 is the plain fold: REDL combines the registers of the participating lanes, SCANL those of
the lanes not above, or with EXCL below, each lane; no condition is raised. -/
def Obligations.IntegerReductionsAreFolds : Prop :=
  ∀ r ∈ [Rop.add, .min, .max, .umin, .umax, .and, .or, .xor], ∀ (g : Gang) (part : List Nat) (a : Nat),
    part.Nodup → (∀ l ∈ part, l < 64) →
    let fold := fun (ls : List Nat) => ls.foldl (fun x l => (Rop.apply r x ((g.lane l).reg a).toNat).1) (Rop.identity r)
    reduce r g part a = (fold part, 0) ∧
    ∀ l, l < 64 → scanAt r false (scan r g part a) l = (fold (part.filter (· ≤ l)), 0) ∧
      scanAt r true (scan r g part a) l = (fold (part.filter (· < l)), 0)

/-! The uniform set (R223 to R225), masks read, and the registers of R52. -/

/-- SADD, SSUB, SMUL, SADDI, SMIN, SMAX: modulo 2^32, the minimum and maximum signed or unsigned (R224). SAND, SOR, SXOR, SSHL, SSHR, SSAR,
SMOV, SLI and NOP (R224, R63). SCMP and SCMPI write the uniform guard ZD from their predicate, signed or unsigned (R225). RDLANE reads a
lane of the issuing set, or 0 where the lane is not in it (R223); MGET reads a mask into a pair (R279); TTEST reads a written token and
sets z[ZOUT], or gives 0 and clears it while the token is pending, never waiting (R183); YIELD moves its lanes past it (R286); CIRCRD
samples one word of the circle's record (R266); PERFRD reads one counter of the core (R344). -/
def Obligations.UniformScalars : Prop :=
  ((∀ z d a b, GangResult (.sadd z d a b) fun _ _ g => g.setS d (BitVec.ofNat 32 ((g.sreg a).toNat + (g.sreg b).toNat))) ∧
  (∀ z d a b, GangResult (.ssub z d a b) fun _ _ g => g.setS d (BitVec.ofInt 32 ((g.sreg a).toInt - (g.sreg b).toInt))) ∧
  (∀ z d a b, GangResult (.smul z d a b) fun _ _ g => g.setS d (BitVec.ofNat 32 ((g.sreg a).toNat * (g.sreg b).toNat))) ∧
  (∀ u d a imm, GangResult (.saddi u d a imm) fun _ _ g => g.setS d (BitVec.ofNat 32 ((g.sreg a).toNat + imm.toNat))) ∧
  (∀ z d a b uns, GangResult (.smin z d a b uns) fun _ _ g => g.setS d
    (if uns then BitVec.ofNat 32 (min (g.sreg a).toNat (g.sreg b).toNat) else BitVec.ofInt 32 (min (g.sreg a).toInt (g.sreg b).toInt))) ∧
  (∀ z d a b uns, GangResult (.smax z d a b uns) fun _ _ g => g.setS d
    (if uns then BitVec.ofNat 32 (max (g.sreg a).toNat (g.sreg b).toNat) else BitVec.ofInt 32 (max (g.sreg a).toInt (g.sreg b).toInt)))) ∧
  ((∀ z d a b, GangResult (.sand z d a b) fun _ _ g => g.setS d (bitwise fun i => (g.sreg a).getLsbD i && (g.sreg b).getLsbD i)) ∧
  (∀ z d a b, GangResult (.sor z d a b) fun _ _ g => g.setS d (bitwise fun i => (g.sreg a).getLsbD i || (g.sreg b).getLsbD i)) ∧
  (∀ z d a b, GangResult (.sxor z d a b) fun _ _ g => g.setS d (bitwise fun i => (g.sreg a).getLsbD i != (g.sreg b).getLsbD i)) ∧
  (∀ z d a b, GangResult (.sshl z d a b) fun _ _ g => g.setS d (shifted .shl (g.sreg a) ((g.sreg b).toNat % 32))) ∧
  (∀ z d a b, GangResult (.sshr z d a b) fun _ _ g => g.setS d (shifted .shr (g.sreg a) ((g.sreg b).toNat % 32))) ∧
  (∀ z d a b, GangResult (.ssar z d a b) fun _ _ g => g.setS d (shifted .sar (g.sreg a) ((g.sreg b).toNat % 32))) ∧
  (∀ z d a, GangResult (.smov z d a) fun _ _ g => g.setS d (g.sreg a)) ∧
  (∀ u d imm, GangResult (.sli u d imm) fun _ _ g => g.setS d imm) ∧
  ∀ z, GangResult (.nop z) fun _ _ g => g) ∧
  ((∀ z zd a b p uns, GangResult (.scmp z zd a b p uns) fun _ _ g => g.setZ zd
    (predicate p (if uns then ((g.sreg a).toNat : Int) else (g.sreg a).toInt) (if uns then ((g.sreg b).toNat : Int) else (g.sreg b).toInt))) ∧
  ∀ u zd a p uns imm, GangResult (.scmpi u zd a p uns imm) fun _ _ g => g.setZ zd
    (predicate p (if uns then ((g.sreg a).toNat : Int) else (g.sreg a).toInt) (if uns then (imm.toNat : Int) else imm.toInt))) ∧
  ((∀ u d r ln first, GangResult (.rdlane u d r ln first) fun _ a g =>
    let l := if first then (laneList a.set).headD 64 else ln.val
    g.setS d (if l ∈ laneList a.set then (g.lane l).reg r else 0)) ∧
  (∀ u d m, GangResult (.mget u d m) fun _ _ g =>
    (g.setS d ((g.mask m).extractLsb' 0 32)).setS (d.val + 1) ((g.mask m).extractLsb' 32 32)) ∧
  (∀ z d a zo, GangResult (.ttest z d a zo) fun _ _ g =>
    if Tbl.mem g.tokens a then (g.setS d 0).setZ zo false else (g.setS d (g.sreg a)).setZ zo true) ∧
  (∀ z, GangResult (.yield z) fun _ a g => { g with yielded := some a.next }) ∧
  (∀ u d circle word, GangResult (.circrd u d circle word) fun s _ g =>
    g.setSpair d (circleWord (s.circle circle) word)) ∧
  ∀ u d k, GangResult (.perfrd u d k) fun s a g => g.setSpair d (Tbl.get 0 (s.coreDev a.core).perf k))

/-- SYSRD reads a register of R52, or with D a pair at one instant; each register of the gang, the team, the grid, the core and the device
has the value R52 gives it. SYSWR writes the register its number names, zero fields forced to zero, and nothing else; a write of a
read-only register has no effect (R53). A pool boundary takes effect only where the three boundaries stay legal and every resident
team's runs stay inside their regions, and a change of B2 or B3 drops the core cache (R125, R122); LEASE_NS is kept from 256 to 16 384
(R164); a write of a selector clears its counter (R344); a write of SAMPLE_CTL loads the LFSR, steps it, and begins an interval (R345).
Where it touches what assumptions 5, 32, 65 and 84 decide, it states the model's choice. -/
def Obligations.SpecialRegisters : Prop :=
  ((∀ u d n dbl, GangResult (.sysrd u d n dbl) fun s a g =>
    if dbl then (g.setS d (BitVec.ofNat 32 (s.sysRead a.gang n.toNat))).setS (d.val + 1) (BitVec.ofNat 32 (s.sysRead a.gang (n.toNat + 1)))
    else g.setS d (BitVec.ofNat 32 (s.sysRead a.gang n.toNat))) ∧
  ∀ (s : State) (gk : Nat),
    let g := s.gang gk
    let r := s.recordOf gk
    let core := s.core (gk / 64)
    (∀ n ∈ sysNumbers, s.sysRead gk n = match n with
      | 0x000 => 64
      | 0x001 => gk / 64
      | 0x002 => gk / 64 / 8
      | 0x003 => gk / 64 / 48
      | 0x004 => Rec.gridId r
      | 0x005 => (s.team g.team).teamIdx
      | 0x006 => g.gangIdx
      | 0x007 => if g.gangIdx < Rec.pgangs r then 0 else 1
      | 0x008 => Rec.pgangs r + 16 * Rec.cgangs r
      | 0x009 => Rec.teamsField r
      | 0x00A => Rec.depth r
      | 0x010 => s.dev.dtime % 2 ^ 32
      | 0x011 => s.dev.dtime / 2 ^ 32 % 2 ^ 32
      | 0x012 => s.dev.cycle % 2 ^ 32
      | 0x013 => s.dev.cycle / 2 ^ 32 % 2 ^ 32
      | 0x018 => core.b1
      | 0x019 => core.b2
      | 0x01A => core.b3
      | 0x01C => s.dev.host.leaseNs
      | 0x01D => g.fflags.toNat
      | 0x020 => g.t.cause % 128
      | 0x021 => g.t.tpc
      | 0x022 => g.t.tresume
      | 0x023 => g.t.addr % 2 ^ 32
      | 0x024 => g.t.addr / 2 ^ 32 % 2 ^ 32
      | 0x025 => (g.t.lanes.extractLsb' 0 32).toNat
      | 0x026 => (g.t.lanes.extractLsb' 32 32).toNat
      | 0x027 => g.t.info
      | 0x028 => (s.grid (s.gridOf gk)).thandler
      | 0x030 => s.dev.host.assayN
      | 0x031 => (s.coreDev (gk / 64)).assayStat
      | 0x048 => (s.coreDev (gk / 64)).sampleCtl
      | 0x050 => s.dev.sec.debug % 16 + s.dev.sec.lcstate % 4 * 256
      | n => Tbl.get 0 (s.coreDev (gk / 64)).perfSel (n - 0x040))) ∧
  ((∀ (u : UGuard) (sa : SReg) (n : BitVec 12) (k : Issue) (s : State), ready (.syswr u sa n) k s = true →
    ∃ t, exec (.syswr u sa n) s = .next (settle k (begun (.syswr u sa n) k s)
        (t.sysWrite (key k) n.toNat ((Claims.gang k s).sreg sa).toNat)) ∧
      Moved (at' (.syswr u sa n) k s) (begun (.syswr u sa n) k s) t (Claims.gang k (begun (.syswr u sa n) k s)) (fun _ x => x)) ∧
  ∀ (s : State) (gk v : Nat),
    let core := s.core (gk / 64)
    let legal := fun b1 b2 b3 : Nat =>
      b1 % 1024 = 0 ∧ b2 % 1024 = 0 ∧ b3 % 1024 = 0 ∧ b1 ≤ b2 ∧ b2 + 65536 ≤ b3 ∧ b3 ≤ 1572864 ∧
      ∀ j, j < 16 → (s.team (gk / 64 * 16 + j)).live = true →
        let x := s.team (gk / 64 * 16 + j)
        let r := (s.grid x.grid).record
        x.regRun + Rec.freg r ≤ b1 ∧ b1 ≤ x.stashRun ∧ x.stashRun + Rec.fstash r ≤ b2 ∧ b3 ≤ x.saveRun ∧ x.saveRun + Rec.fsave r ≤ 1572864
    let moved := fun (t : State) (b1 b2 b3 : Nat) => (¬ legal b1 b2 b3 → t = s) ∧
      (legal b1 b2 b3 → t = s.setCore (gk / 64) { core with
        b1 := b1, b2 := b2, b3 := b3, cache := if b2 = core.b2 ∧ b3 = core.b3 then core.cache else [] })
    moved (s.sysWrite gk 0x018 v) (v % 2 ^ 21) core.b2 core.b3 ∧
    moved (s.sysWrite gk 0x019 v) core.b1 (v % 2 ^ 21) core.b3 ∧
    moved (s.sysWrite gk 0x01A v) core.b1 core.b2 (v % 2 ^ 21) ∧
    (let ctl := v % 2 ^ 32 - v % 2 ^ 16 / 2 ^ 5 * 2 ^ 5
     let seed := v % 2 ^ 32 / 2 ^ 16 * 2 ^ 16 + 0xACE1
     let l := seed / 2 ^^^ 0x80200003
     s.sysWrite gk 0x048 (v % 2 ^ 32) = s.setCoreDev (gk / 64) { s.coreDev (gk / 64) with
       sampleCtl := ctl, lfsr := l, sampleAt := s.dev.cycle + (2 ^ (ctl / 2 % 16 + 7) + l % 2 ^ (ctl / 2 % 16 + 8)) }) ∧
    s.sysWrite gk 0x01D v = s.modGang gk (fun g => { g with fflags := BitVec.ofNat 5 v }) ∧
    s.sysWrite gk 0x021 v = s.modGang gk (fun g => { g with t := { g.t with tpc := v - v % 4 } }) ∧
    s.sysWrite gk 0x022 v = s.modGang gk (fun g => { g with t := { g.t with tresume := v - v % 4 } }) ∧
    s.sysWrite gk 0x028 v = s.modGrid (s.gridOf gk) (fun g => { g with thandler := v - v % 4 }) ∧
    s.sysWrite gk 0x01C v = s.setHost (fun h => { h with leaseNs := max 256 (min 16384 (v % 2 ^ 15)) }) ∧
    (∀ n, n < 8 → s.sysWrite gk (0x040 + n) v = s.setCoreDev (gk / 64) { s.coreDev (gk / 64) with
      perfSel := Tbl.set (s.coreDev (gk / 64)).perfSel n (v % 2 ^ 16), perf := Tbl.set (s.coreDev (gk / 64)).perf n 0 }) ∧
    ∀ n ∈ sysNumbers, n ∉ [0x018, 0x019, 0x01A, 0x01C, 0x01D, 0x021, 0x022, 0x028, 0x040, 0x041, 0x042, 0x043, 0x044, 0x045, 0x046,
      0x047, 0x048] → s.sysWrite gk n v = s)

/-! The checks of R65, guards and traps. -/

/-- A word whose encoding is not admitted, or that names a lane register at or above its role's budget or a tile at or above the team's
count, raises RESERVED_FIELD before anything else of it happens, whatever its guard (R50, R65); a barrier does so once the gang has
reconverged at it (R283). A word inside a lookahead window that names a register the window's access still owes raises LOOKAHEAD_HAZARD
in the lanes that owe it, whatever its guard (R65, R68). A word whose operands are pending, in a window that has ended or must drain, or
by a token, waits at issue: nothing changes but the ages of its lanes, and the slot stays in hand (R68, R69, R71, R272). A collective
word whose guard holds and whose issuing set is not every non-exited lane of its gang raises PARTIAL_GANG; BARA and BARW are held to
reconverge instead, before any other check of theirs (R65, R282, R283). -/
def Obligations.ChecksBeforeTheEffect : Prop :=
  (∀ (i : Instr) (c : Issue) (s : State), i.isCode = true → s.cur = some c → c.again = false → whole i c s = true →
    s.windowWait (key c) (issuing i c s) i = false → (i.wf = false ∨ s.fits (key c) i = false) →
    exec i s = .next (raised i c s { s with cur := none } { s with cur := none } (issuing i c s) cRESERVED 0 0)) ∧
  (∀ (i : Instr) (c : Issue) (s : State), i.isCode = true → s.cur = some c → c.again = false → whole i c s = true →
    s.windowWait (key c) (issuing i c s) i = false → i.wf = true → s.fits (key c) i = true →
    (privileged i = true → (Claims.gang c s).hmode = true) → s.hazards (key c) (issuing i c s) i ≠ 0 →
    exec i s = .next (raised i c s { s with cur := none } { s with cur := none } (s.hazards (key c) (issuing i c s) i) cLOOKAHEAD 0 0)) ∧
  (∀ (i : Instr) (c : Issue) (s : State), i.isCode = true → s.cur = some c → c.again = false → whole i c s = true →
    (s.windowWait (key c) (issuing i c s) i = true ∨
      (i.wf = true ∧ s.fits (key c) i = true ∧ (privileged i = true → (Claims.gang c s).hmode = true) ∧
        s.hazards (key c) (issuing i c s) i = 0 ∧ s.available (key c) i = false)) →
    ∃ t, exec i s = .next t ∧ OnlyGang (at' i c s) { s with cur := some ⟨c.core, c.slot, issuing i c s, c.pc, false⟩ } t ∧
      t.gang (key c) = { Claims.gang c s with lanes := (t.gang (key c)).lanes } ∧
      ∀ l, (t.gang (key c)).lane l =
        if l ∈ laneList (issuing i c s) then { (Claims.gang c s).lane l with age := 0 } else (Claims.gang c s).lane l) ∧
  (∀ (i : Instr) (c : Issue) (s : State), i.isCode = true → collective i = true →
    (admitted i c s = true → (at' i c s).exec ≠ [] → issuing i c s ≠ (Claims.gang c s).nonExited →
      exec i s = .next (raised i c s { s with cur := none } { s with cur := none } (issuing i c s) cPARTIAL 0 0)) ∧
    (reconverges i = true → s.cur = some c → c.again = false → issuing i c s ≠ (Claims.gang c s).nonExited →
      ∃ t, exec i s = .next (settle c { s with cur := none } t) ∧ Blocked (at' i c s) { s with cur := none } t .reconv))

/-- Exactly ERET and SYSWR of a Handler register are privileged (R64), and outside handler mode they raise PRIVILEGED (R65). -/
def Obligations.PrivilegedWordsTrapInUserMode : Prop :=
  (∀ i : Instr, privileged i = true ↔
    (∃ z skip, i = .eret z skip) ∨ ∃ u sa n, i = .syswr u sa n ∧ n.toNat ∈
      [0x018, 0x019, 0x01A, 0x01C, 0x021, 0x022, 0x028, 0x040, 0x041, 0x042, 0x043, 0x044, 0x045, 0x046, 0x047, 0x048]) ∧
  ∀ (i : Instr) (c : Issue) (s : State), i.isCode = true → s.cur = some c → c.again = false →
    s.windowWait (key c) (issuing i c s) i = false → i.wf = true → s.fits (key c) i = true → privileged i = true →
    (Claims.gang c s).hmode = false →
    exec i s = .next (raised i c s { s with cur := none } { s with cur := none } (issuing i c s) cPRIVILEGED 0 0)

/-- With its guard false in every issuing lane, or its uniform guard false, an admitted word moves its lanes past it, and nothing else
happens: no register, flag, token, engine or memory changes (R67). Its encoding checks are made all the same: a reserved field, a
privileged word outside handler mode and a register that an open window owes raise their causes. -/
def Obligations.FalseGuardsOnlyAdvance : Prop :=
  (∀ (i : Instr) (c : Issue) (s : State), i.isCode = true → admitted i c s = true → (at' i c s).exec = [] →
    ∃ t, exec i s = .next (settle c { s with cur := none } t) ∧
      Moved (at' i c s) { s with cur := none } t (Claims.gang c s) fun _ x => x) ∧
  ∀ (i : Instr) (c : Issue) (s : State), i.isCode = true → s.cur = some c → c.again = false → whole i c s = true →
    s.windowWait (key c) (issuing i c s) i = false → (at' i c s).exec = [] →
    let raises := fun (m : Lanes) (cause : Nat) => exec i s = .next (raised i c s { s with cur := none } { s with cur := none } m cause 0 0)
    (i.wf = false ∨ s.fits (key c) i = false → raises (issuing i c s) cRESERVED) ∧
    (i.wf = true → s.fits (key c) i = true → privileged i = true → (Claims.gang c s).hmode = false → raises (issuing i c s) cPRIVILEGED) ∧
    (i.wf = true → s.fits (key c) i = true → (privileged i = true → (Claims.gang c s).hmode = true) →
      s.hazards (key c) (issuing i c s) i ≠ 0 → raises (s.hazards (key c) (issuing i c s) i) cLOOKAHEAD)

/-- Taking a trap: a fault that nothing keeps from the handler writes the six trap registers, H, handler mode and the trap count, moves
every lane of H to THANDLER with its windows closed, and writes the frame into the save area; nothing else but the core's counters
changes (R314, R316). -/
def Obligations.TrapsEnterTheHandler : Prop :=
  ∀ (s : State) (gk : Nat) (v : Trap), takesTrap gk s v.lanes = true → Trapped gk s (s.raise gk v) v

/-- A fault raised in a gang with no handler halts the context and is recorded; so does one of a running handler's own lanes, as nested
(R319). Where it touches what assumption 61 decides, it states the model's choice. -/
def Obligations.FaultsWithoutAHandlerHalt : Prop :=
  ∀ (s : State) (gk : Nat) (v : Trap), s.ctx.halt = none →
    ((s.gang gk).hmode = true ∧ v.lanes &&& (s.gang gk).hset ≠ 0 ∨
      (s.gang gk).hmode = false ∧ ¬(s.dev.pre.req = true ∧ s.dev.pre.done = false) ∧ (s.grid (s.gridOf gk)).thandler = 0) →
    ∃ h, (s.takeTrap gk v).ctx.halt = some h ∧ h.cause = v.cause ∧ h.nested = (s.gang gk).hmode ∧ h.core = gk / 64 ∧
      h.gangIdx = (s.gang gk).gangIdx ∧ h.gridId = s.gridIdOf gk ∧ h.trap = v ∧ h.time = s.dev.dtime % 2 ^ 64 ∧ h.broadcast = false

/-- TRAP raises SOFTWARE_TRAP with s[SA] in TADDR and its code in TINFO (R317), and BKPT raises BREAKPOINT with its code in TINFO where no
debugger stops the gang (R318): the handler is entered, TPC at the instruction and TRESUME after it. BKPT stops its gang for an attached
debugger where DEBUG_FEATURES opens it, with its lanes at the BKPT (R318, R341). -/
def Obligations.TrapAndBkpt : Prop :=
  ((∀ (z : ZReg) (sa : SReg) (code : Fin 16) (c : Issue) (s : State), let i := Instr.trap z sa code
    ready i c s = true → takesTrap (key c) (begun i c s) (issuing i c s) = true →
    ∃ t, exec i s = .next t ∧ ∃ u, Trapped (key c) u t
        ⟨0x31, c.pc, (at' i c s).next, ((Claims.gang c s).sreg sa).toNat, issuing i c s, code, (begun i c s).ctx.nextId⟩ ∧
      OnlyGang (at' i c s) (begun i c s) u ∧ { u.gang (key c) with lanes := [] } = { Claims.gang c (begun i c s) with lanes := [] }) ∧
  ∀ (z : ZReg) (code : Fin 16) (c : Issue) (s : State), let i := Instr.bkpt z code
    ready i c s = true → (s.dev.sec.debug % 2 = 0 ∨ s.dev.sec.attached = false) →
    takesTrap (key c) (begun i c s) (issuing i c s) = true →
    ∃ t, exec i s = .next t ∧ ∃ u, Trapped (key c) u t
        ⟨0x30, c.pc, (at' i c s).next, 0, issuing i c s, code, (begun i c s).ctx.nextId⟩ ∧
      OnlyGang (at' i c s) (begun i c s) u ∧ { u.gang (key c) with lanes := [] } = { Claims.gang c (begun i c s) with lanes := [] }) ∧
  (∀ (z : ZReg) (code : Fin 16) (c : Issue) (s : State), let i := Instr.bkpt z code
    ready i c s = true → s.dev.sec.debug % 2 = 1 → s.dev.sec.attached = true →
    ∃ t u, exec i s = .next (settle c (begun i c s) t) ∧ Blocked (at' i c s) (begun i c s) u .debug ∧
      t = u.modGang (key c) fun g => { g with stopped := true })

/-- ERET ends handler mode: lanes of the issuing set that the trap named go back to TPC to retry it, and then on to TRESUME, or with SKIP to
TRESUME at once; the other lanes of the issuing set go to TRESUME, and the other lanes of H to the offset after the ERET; the frame
shows handler mode ended (R318, R316). Where it touches what assumption 21 decides, it states the model's choice. -/
def Obligations.EretReturnsFromTheHandler : Prop :=
  ∀ (z : ZReg) (skip : Bool) (c : Issue) (s : State), let i := Instr.eret z skip
    ready i c s = true → (Claims.gang c s).held = [] → (Claims.gang c s).retry = false →
    ∃ t, exec i s = .next t ∧
      let g := Claims.gang c s
      let g' := t.gang (key c)
      let retries := fun l => decide (skip = false ∧ g.t.lanes.getLsbD l = true)
      g' = { g with hmode := false, lanes := g'.lanes, retry := !skip && g.t.lanes &&& issuing i c s != 0 } ∧
      (∀ l, l ∈ laneList (issuing i c s) → g'.lane l =
        if retries l then { g.lane l with pc := g.t.tpc, resumeAt := some g.t.tresume }
        else { g.lane l with pc := g.t.tresume }) ∧
      (∀ l, l ∉ laneList (issuing i c s) → l ∈ laneList g.hset → (g.lane l).cond ≠ .exited → (g'.lane l).pc = (at' i c s).next ∧
        (g'.lane l).cond = .running) ∧
      (∀ l, l ∉ laneList (issuing i c s) → l ∉ laneList g.hset → g'.lane l = g.lane l) ∧
      (t.core (key c / 64)).pool = (s.core (key c / 64)).pool.writeBytes ((s.team g.team).saveRun + 256 * g.gangIdx) (State.frameBytes { g with hmode := false }) ∧
      ∀ k, k ≠ key c → t.gang k = s.gang k

/-! Control flow (R274 to R287). -/

/-- BR, BRA, BRX and JMPU take the lanes whose guard holds to their targets: the branch's own offset and the displacement modulo 2^32, or
the offset in a register, which is a multiple of 4 here; the other lanes of the issuing set go to the next offset (R274 to R276). BRC
counts s[SD] down once and branches while the count is not 0 (R276). A BRX or JMPU to an offset that is no multiple of 4 raises
MISALIGNED, in the lanes whose target it is or whole (R276). Where it touches what assumption 21 decides, it states the model's choice. -/
def Obligations.Branches : Prop :=
  ((∀ (g : LGuard) (disp : Word) (c : Issue) (s : State), ready (.br g disp) c s = true →
    JumpResult (.br g disp) c s (fun _ => target c disp) fun _ x => x) ∧
  (∀ (u : UGuard) (disp : Word) (c : Issue) (s : State), ready (.bra u disp) c s = true →
    JumpResult (.bra u disp) c s (fun _ => target c disp) fun _ x => x) ∧
  (∀ (g : LGuard) (va : VReg) (c : Issue) (s : State), ready (.brx g va) c s = true →
    (∀ l ∈ (at' (.brx g va) c s).exec, (((Claims.gang c s).lane l).reg va).toNat % 4 = 0) →
    JumpResult (.brx g va) c s (fun l => (((Claims.gang c s).lane l).reg va).toNat) fun _ x => x) ∧
  ∀ (u : UGuard) (sa : SReg) (c : Issue) (s : State), ready (.jmpu u sa) c s = true → ((Claims.gang c s).sreg sa).toNat % 4 = 0 →
    JumpResult (.jmpu u sa) c s (fun _ => ((Claims.gang c s).sreg sa).toNat) fun _ x => x) ∧
  (∀ (u : UGuard) (d : SReg) (disp : Word) (c : Issue) (s : State), let i := Instr.brc u d disp
    ready i c s = true →
    let n := (Claims.gang c s).sreg d - 1
    ∃ t, exec i s = .next (settle c (begun i c s) t) ∧
      Moved (at' i c s) (begun i c s) t ((Claims.gang c (begun i c s)).setS d n) fun l x =>
        if n = 0 then x else jumped (at' i c s) ((Claims.gang c s).lane l) (target c disp) x) ∧
  ((∀ (g : LGuard) (va : VReg) (c : Issue) (s : State), let i := Instr.brx g va
    let bad := (at' i c s).exec.filter fun l => (((Claims.gang c s).lane l).reg va).toNat % 4 != 0
    ready i c s = true → ∀ l, bad.head? = some l →
    ∃ t, exec i s = .next (raised i c s (begun i c s) t (laneSet bad) cMISALIGNED
        (bref (Rec.codeBuf (s.recordOf (key c))) (((Claims.gang c s).lane l).reg va).toNat) 0) ∧
      Moved (at' i c s) (begun i c s) t (Claims.gang c (begun i c s)) fun l x =>
        jumped (at' i c s) ((Claims.gang c s).lane l) (((Claims.gang c s).lane l).reg va).toNat x) ∧
  ∀ (u : UGuard) (sa : SReg) (c : Issue) (s : State), let i := Instr.jmpu u sa
    ready i c s = true → ((Claims.gang c s).sreg sa).toNat % 4 ≠ 0 →
    exec i s = .next (raised i c s (begun i c s) (begun i c s) (issuing i c s) cMISALIGNED
      (bref (Rec.codeBuf (s.recordOf (key c))) ((Claims.gang c s).sreg sa).toNat) 0))

/-- CALL and CALLU push the next offset on the executing lanes' call stacks and take them to the target, where every stack has room; an
entry of depth 8 or more goes to the team's save area (R276, R277). RET takes each lane of the issuing set to the top of its own call
stack, which loses it (R276, R277). A push past the stack's depth or a pop of an empty one raises BOUNDS with TADDR 0 and CSTACK in
TINFO: in the lanes of a CALL whose stacks are full, and of the whole issuing set of CALLU and RET, with no stack changed (R276, R277).
Where it touches what assumption 21 decides, it states the model's choice. -/
def Obligations.CallsAndReturns : Prop :=
  (∀ (i : Instr) (disp : Word) (c : Issue) (s : State), ((∃ g, i = .call g disp) ∨ ∃ u, i = .callu u disp) →
    ready i c s = true →
    let g := Claims.gang c s
    let a := at' i c s
    let r := s.recordOf (key c)
    let e := (Rec.fsave r - 4096) / (4 * (64 * Rec.ngangs r))
    (∀ l ∈ a.exec, (g.lane l).stack.length < 8 + e) →
    ∃ t, exec i s = .next (settle c (begun i c s) t) ∧
      t.gang (key c) = { g with lanes := (t.gang (key c)).lanes } ∧
      (∀ l, (t.gang (key c)).lane l = laneAfter a (fun l x =>
        { jumped a (g.lane l) (target c disp) x with stack := a.next :: (g.lane l).stack }) l (g.lane l)) ∧
      t.core (key c / 64) = { s.core (key c / 64) with pool := a.exec.foldl (fun p l =>
        let d := (g.lane l).stack.length
        if d < 8 then p
        else p.writeBytes ((s.team g.team).saveRun + 4096 + 4 * ((g.gangIdx * 64 + l) * e + d - 8)) (toBytes 4 a.next)) (s.core (key c / 64)).pool } ∧
      (∀ k, k ≠ key c → t.gang k = s.gang k) ∧ (∀ k, k ≠ key c / 64 → t.core k = s.core k) ∧
      t = { begun i c s with ctx := { (begun i c s).ctx with gangs := t.ctx.gangs, cores := t.ctx.cores } }) ∧
  (∀ (z : ZReg) (c : Issue) (s : State), let i := Instr.ret z
    ready i c s = true → (∀ l ∈ laneList (issuing i c s), ((Claims.gang c s).lane l).stack ≠ []) →
    JumpResult i c s (fun l => ((Claims.gang c s).lane l).stack.headD 0) fun _ x => { x with stack := x.stack.tail }) ∧
  ((∀ (u : UGuard) (disp : Word) (c : Issue) (s : State), let i := Instr.callu u disp
    ready i c s = true → (∃ l ∈ (at' i c s).exec, (begun i c s).stackDepth (key c) ≤ ((Claims.gang c s).lane l).stack.length) →
    exec i s = .next (raised i c s (begun i c s) (begun i c s) (issuing i c s) cBOUNDS 0 iCSTACK)) ∧
  (∀ (z : ZReg) (c : Issue) (s : State), let i := Instr.ret z
    ready i c s = true → (∃ l ∈ (at' i c s).exec, ((Claims.gang c s).lane l).stack = []) →
    exec i s = .next (raised i c s (begun i c s) (begun i c s) (issuing i c s) cBOUNDS 0 iCSTACK)) ∧
  ∀ (g : LGuard) (disp : Word) (c : Issue) (s : State), let i := Instr.call g disp
    let full := (at' i c s).exec.filter fun l => decide ((begun i c s).stackDepth (key c) ≤ ((Claims.gang c s).lane l).stack.length)
    ready i c s = true → full ≠ [] →
    ∃ t, exec i s = .next (raised i c s (begun i c s) t (laneSet full) cBOUNDS 0 iCSTACK) ∧
      ∀ l ∈ full, ((t.gang (key c)).lane l).stack = ((Claims.gang c s).lane l).stack)

/-- JOIN, LEAVE and BREAK add the issuing set to a mask or take it out, BREAK branching, and every WAITM on a changed mask is evaluated
again; MSET writes a mask from a pair, exited lanes cleared, and raises MASK_ERROR of its issuing set where a lane waits on it, with
nothing changed (R278, R279). WAITM blocks its issuing set at itself, then its mask is evaluated; where the issuing set is not within
the mask it raises MASK_ERROR of the lanes outside, with nothing changed (R279, R280). Evaluating a mask again leaves no WAITM on it
that should release: every lane of the mask blocked there. It releases every lane blocked on the mask at an offset where every lane of
the mask is blocked, and a lane at another offset only after a release with CLR, which clears the mask and so releases every lane
blocked on it; a released lane runs at the offset after its WAITM. A release with CLR clears the mask, one without leaves it; no other
lane, no other mask and nothing else of the gang changes (R279, R280). -/
def Obligations.MasksChangeBlockAndRelease : Prop :=
  ((∀ (z : ZReg) (m : MReg) (c : Issue) (s : State), let i := Instr.join z m
    ready i c s = true → ∃ t, exec i s = .next (settle c (begun i c s) (t.modGang (key c) fun g => g.settleMask m 65)) ∧
      Moved (at' i c s) (begun i c s) t
        ((Claims.gang c (begun i c s)).setMask m ((Claims.gang c s).mask m ||| issuing i c s)) fun _ x => x) ∧
  (∀ (z : ZReg) (m : MReg) (c : Issue) (s : State), let i := Instr.leave z m
    ready i c s = true → ∃ t, exec i s = .next (settle c (begun i c s) (t.modGang (key c) fun g => g.settleMask m 65)) ∧
      Moved (at' i c s) (begun i c s) t
        ((Claims.gang c (begun i c s)).setMask m ((Claims.gang c s).mask m &&& ~~~ issuing i c s)) fun _ x => x) ∧
  (∀ (u : UGuard) (set : BitVec 12) (disp : Word) (c : Issue) (s : State), let i := Instr.break u set disp
    let ms := (List.range 12).filter fun k => set.getLsbD k
    ready i c s = true → ∃ t, exec i s = .next (settle c (begun i c s) (t.modGang (key c) fun g => ms.foldl (fun g m => g.settleMask m 65) g)) ∧
      Moved (at' i c s) (begun i c s) t
        (ms.foldl (fun g m => g.setMask m (g.mask m &&& ~~~ issuing i c s)) (Claims.gang c (begun i c s)))
        fun l x => jumped (at' i c s) ((Claims.gang c s).lane l) (target c disp) x) ∧
  ∀ (u : UGuard) (sa : SReg) (m : MReg) (c : Issue) (s : State), let i := Instr.mset u sa m
    let waits := ∃ l clr, l < 64 ∧ ((Claims.gang c s).lane l).cond = .blocked ∧ ((Claims.gang c s).lane l).wait = .waitm m clr
    ready i c s = true →
    (¬waits → ∃ t, exec i s = .next (settle c (begun i c s) t) ∧
      Moved (at' i c s) (begun i c s) t ((Claims.gang c (begun i c s)).setMask m
        (((Claims.gang c s).sreg (sa.val + 1) ++ (Claims.gang c s).sreg sa) &&& (Claims.gang c s).nonExited)) fun _ x => x) ∧
    (waits → exec i s = .next (raised i c s (begun i c s) (begun i c s) (issuing i c s) cMASK 0 0))) ∧
  (∀ (z : ZReg) (m : MReg) (clr : Bool) (c : Issue) (s : State), let i := Instr.waitm z m clr
    let out := issuing i c s &&& ~~~ (Claims.gang c s).mask m
    ready i c s = true →
    (out = 0 → ∃ t, exec i s = .next (settle c (begun i c s) (t.modGang (key c) fun g => g.settleMask m 65)) ∧
      Blocked (at' i c s) (begun i c s) t (.waitm m clr)) ∧
    (out ≠ 0 → exec i s = .next (raised i c s (begun i c s) (begun i c s) out cMASK 0 0))) ∧
  (∀ (g : Gang) (m : Nat), let g' := g.settleMask m 65
    let at_ := fun (l : Nat) (clr : Bool) => l < 64 ∧ (g.lane l).cond = .blocked ∧ (g.lane l).wait = .waitm m clr
    let met := fun (o : Nat) => ∀ k, k < 64 → (g.mask m).getLsbD k = true → (g.lane k).pc = o ∧ ∃ clr, at_ k clr
    let freed := fun (l : Nat) => g'.lane l = (g.lane l).advance (((g.lane l).pc + 4) % 2 ^ 32)
    (∀ l clr, at_ l clr → met (g.lane l).pc → freed l) ∧
    (∀ l clr, at_ l clr → met (g.lane l).pc → (∀ k clr', at_ k clr' → (g.lane k).pc = (g.lane l).pc → clr' = true) →
      ∀ k clr', at_ k clr' → freed k) ∧
    (∀ l clr, at_ l clr → (g'.lane l).cond ≠ .blocked → met (g.lane l).pc ∨ ∃ k, at_ k true ∧ met (g.lane k).pc) ∧
    (∀ l clr, l < 64 → (g'.lane l).cond = .blocked → (g'.lane l).wait = .waitm m clr →
      ∃ k, k < 64 ∧ (g'.mask m).getLsbD k = true ∧ ¬((g'.lane k).cond = .blocked ∧ (g'.lane k).pc = (g'.lane l).pc ∧
        ∃ clr', (g'.lane k).wait = .waitm m clr')) ∧
    (∀ l, g'.lane l = g.lane l ∨ ∃ clr, at_ l clr ∧ freed l) ∧
    (g'.mask m = g.mask m ∨ g'.mask m = 0) ∧
    ((∀ l clr, l < 64 → (g.lane l).cond = .blocked → (g.lane l).wait = .waitm m clr → clr = false) → g'.mask m = g.mask m) ∧
    ((∀ l clr, l < 64 → (g.lane l).cond = .blocked → (g.lane l).wait = .waitm m clr → clr = true) →
      (∃ l, l < 64 ∧ (g.lane l).cond = .blocked ∧ (g'.lane l).cond = .running) → g'.mask m = 0) ∧
    (∀ k, k ≠ m → g'.mask k = g.mask k) ∧
    g' = { g with m := g'.m, lanes := g'.lanes })

/-- REFILL gives the oldest items of the core's queue to the executing lanes in ascending order, one each, in their VD; a lane that finds
the queue empty goes to the exit label with VD unchanged (R284). -/
def Obligations.RefillTakesItemsInOrder : Prop :=
  ∀ (g : LGuard) (d : VReg) (disp : Word) (c : Issue) (s : State), let i := Instr.refill g d disp
    ready i c s = true →
    let a := at' i c s
    let items := (s.core c.core).items
    ∃ t, exec i s = .next (settle c (begun i c s) t) ∧
      t.core c.core = { s.core c.core with items := items.drop a.exec.length } ∧
      t.gang (key c) = { Claims.gang c s with lanes := (t.gang (key c)).lanes } ∧
      (∀ l, (t.gang (key c)).lane l = laneAfter a (fun l x => match items[a.exec.idxOf l]? with
        | some v => x.setReg d v
        | none => jumped a ((Claims.gang c s).lane l) (target c disp) x) l ((Claims.gang c s).lane l)) ∧
      (∀ k, k ≠ key c → t.gang k = s.gang k) ∧ (∀ k, k ≠ c.core → t.core k = s.core k) ∧ t.dev = s.dev

/-- EXIT ends its lanes: they have no stack and no window, and are in no mask; lanes outside the set change only by a release that the exit
brings about; with the gang's last lane the gang retires, and its slot leaves the team (R285). NAP blocks its issuing set until DTIME at
issue and its nanoseconds, a NAP of 0 not at all (R287). -/
def Obligations.ExitAndNap : Prop :=
  (∀ (z : ZReg) (c : Issue) (s : State), let i := Instr.exit z
    ready i c s = true → (Claims.gang c s).retry = false →
    ∃ t, exec i s = .next t ∧
      (∀ l ∈ laneList (issuing i c s), ((t.gang (key c)).lane l).cond = .exited ∧ ((t.gang (key c)).lane l).stack = [] ∧
        ((t.gang (key c)).lane l).wins = []) ∧
      (∀ m, m < 12 → (t.gang (key c)).mask m &&& issuing i c s = 0) ∧
      (∀ l, l ∉ laneList (issuing i c s) → (t.gang (key c)).lane l = (Claims.gang c s).lane l ∨
        ((Claims.gang c s).lane l).wait ≠ .none ∧ ((t.gang (key c)).lane l).cond = .running) ∧
      (∀ k, k ≠ key c → t.gang k = s.gang k) ∧
      ((Claims.gang c s).nonExited &&& ~~~ issuing i c s = 0 → (t.gang (key c)).live = false ∧
        (t.team (Claims.gang c s).team).gangSlots = (s.team (Claims.gang c s).team).gangSlots.erase (key c % 64))) ∧
  (∀ (u : UGuard) (ns : Word) (c : Issue) (s : State), let i := Instr.nap u ns
    ready i c s = true →
    ∃ t, exec i s = .next (settle c (begun i c s) t) ∧
      (ns = 0 → Moved (at' i c s) (begun i c s) t (Claims.gang c (begun i c s)) fun _ x => x) ∧
      (ns ≠ 0 → Blocked (at' i c s) (begun i c s) t (.nap (s.dev.dtime + ns.toNat))))

/-! Memory instructions (R137 to R159). -/

/-- LD, LDS, ATOM, ATOMS, SLD, IDIV and IREM put one access in flight, with one request per executing lane, or one of the uniform stream
with the issuing set; the offsets are exact (R138), operands and expected values are read at issue (R155), and a quotient or remainder
is the one of R214. ST, STS, SST and RED whose requests pass their checks put one access in flight that holds the operands read at
issue; through a write graph the store goes out as beats, each with the lanes that write in it, and the GEN check of a beat whose page
is missing is still to be made (R84, R105, R142, R145, R149, R157). An SST that fails a check traps whole; of an ST, an STS and a RED,
the lanes that fail trap with the first one's cause and address, and exactly the others store (R143). PF puts an access in flight that
no lane waits for and moves its issuing set on; its service changes which copies caches hold and what the homes remember of them, and no
memory, no register, no lane and no stash, and it never faults (R147). Where it touches what assumptions 1, 63 and 71 decide, it states
the model's choice. -/
def Obligations.MemoryWordsGoInFlight : Prop :=
  ((∀ (g : LGuard) (vd : VReg) (hs : SReg) (vo : VReg) (la : Fin 16) (wd : Width) (pol : Policy) (imm : BitVec 10),
    Owed (.ld g vd hs vo la wd pol imm) la
      (fun b a => { a.access b .load with handle := ((b.gang a.gang).sreg hs).toNat, wd := wd, pol := pol, reg := vd })
      fun b a l => ((((b.gang a.gang).lane l).reg vo).toNat + imm.toInt * wd.bytes, 0, 0)) ∧
  (∀ (g : LGuard) (vd : VReg) (hs : SReg) (vo : VReg) (la : Fin 16) (wd : Width) (imm : BitVec 10),
    Owed (.lds g vd hs vo la wd imm) la (fun b a => { a.access b .lds with wd := wd, reg := vd })
      fun b a l => (((b.gang a.gang).sreg hs).toNat + (((b.gang a.gang).lane l).reg vo).toNat + imm.toInt * wd.bytes, 0, 0)) ∧
  (∀ (g : LGuard) (vd va : VReg) (hs : SReg) (vo : VReg) (la : Fin 16) (wd : Width) (op : Aop) (sc : Scope),
    Owed (.atom g vd va hs vo la wd op sc) la
      (fun b a => { a.access b .atom with handle := ((b.gang a.gang).sreg hs).toNat, wd := wd, aop := op, scope := sc, reg := vd })
      fun b a l => let x := (b.gang a.gang).lane l; ((x.reg vo).toNat, x.wide va wd, x.wide vd wd)) ∧
  (∀ (g : LGuard) (vd va : VReg) (hs : SReg) (vo : VReg) (la : Fin 16) (wd : Width) (op : Aop) (sc : Scope),
    Owed (.atoms g vd va hs vo la wd op sc) la (fun b a => { a.access b .atoms with wd := wd, aop := op, scope := sc, reg := vd })
      fun b a l => let x := (b.gang a.gang).lane l
        (((b.gang a.gang).sreg hs).toNat + (x.reg vo).toNat, x.wide va wd, x.wide vd wd)) ∧
  (∀ (u : UGuard) (sd sa sb : SReg) (la : Fin 16) (wd : Width) (pol : Policy) (imm : BitVec 11) (c : Issue) (s : State),
    let i := Instr.sld u sd sa sb la wd pol imm
    let b := begun i c s
    ready i c s = true → ∃ t, exec i s = .next (settle c b t) ∧ Launched (at' i c s) b t
      { (at' i c s).access b .sld with handle := ((Claims.gang c b).sreg sa).toNat, wd := wd, pol := pol, reg := sd, la := la }
      [(64, ((Claims.gang c b).sreg sb).toNat + imm.toInt * wd.bytes, 0, (issuing i c s).toNat)]
      fun x => { x with wins := x.wins ++ [⟨b.ctx.nextId, la⟩] }) ∧
  (∀ (g : LGuard) (d x y : VReg) (ty : IntType) (la : Fin 16),
    Owed (.idiv g d x y ty la) la (fun b a => { a.access b .div with reg := d })
      fun b a l =>
        let old := (b.gang a.gang).lane l
        let num := fun (w : Word) => if ty = .n32 then (w.toNat : Int) else w.toInt
        (0, if old.reg y = 0 then 0xFFFFFFFF else (BitVec.ofInt 32 ((num (old.reg x)).tdiv (num (old.reg y)))).toNat, 0)) ∧
  (∀ (g : LGuard) (d x y : VReg) (ty : IntType) (la : Fin 16),
    Owed (.irem g d x y ty la) la (fun b a => { a.access b .div with reg := d })
      fun b a l =>
        let old := (b.gang a.gang).lane l
        let num := fun (w : Word) => if ty = .n32 then (w.toNat : Int) else w.toInt
        (0, if old.reg y = 0 then (old.reg x).toNat else (BitVec.ofInt 32 ((num (old.reg x)).tmod (num (old.reg y)))).toNat, 0))) ∧
  ((∀ (g : LGuard) (vd : VReg) (hs : SReg) (vo : VReg) (wd : Width) (pol : Policy) (imm : BitVec 10) (c : Issue) (s : State),
    let i := Instr.st g vd hs vo wd pol imm
    let a := at' i c s
    let b := begun i c s
    let h := ((Claims.gang c b).sreg hs).toNat
    let off := fun l => (((((Claims.gang c b).lane l).reg vo).toNat : Int) + imm.toInt * wd.bytes)
    let check := fun l => b.storeCheck (b.gridIdOf (key c)) h (off l) wd.bytes (Width.align wd)
    let x := { a.access b .store with handle := h, wd := wd, pol := pol, ent := b.entryRaw (h % 4096) }
    let good := a.exec.filter fun l => (check l).isNone
    let value := fun l => ((Claims.gang c b).lane l).wide vd wd
    let goes := fun (t : State) =>
      (good = [] → Moved a b t (Claims.gang c b) fun _ x => x) ∧
      (good ≠ [] → (b.entry (h % 4096)).millWrites = false → Launched a b t x (good.map fun l => (l, off l, value l, 0)) id) ∧
      (good ≠ [] → (b.entry (h % 4096)).millWrites = true → ∃ w : Tbl (BitVec 64),
        (∀ k l, l < 64 → ((Tbl.get 0 w k).getLsbD l = true ↔ l ∈ good ∧ 64 * (k : Int) < off l + wd.bytes ∧ off l < 64 * (k + 1))) ∧
        Launched a b t { x with wrote := w, gate := good.flatMap fun l => b.ungated x ⟨l, (off l).toNat, value l, 0⟩ }
          ((beatReqs (good.map fun l => ((off l).toNat, toBytes wd.bytes (value l)))).map fun r => (r.lane, r.offset, r.data, r.expect)) id)
    ready i c s = true →
    ((∀ l ∈ a.exec, check l = none) → ∃ t, exec i s = .next (settle c b t) ∧ goes t) ∧
    ∀ l e, a.exec.find? (fun l => (check l).isSome) = some l → check l = some e →
      ∃ t, exec i s = .next (raised i c s b t (laneSet (a.exec.filter fun l => (check l).isSome)) e.cause e.addr e.info) ∧ goes t) ∧
  (∀ (g : LGuard) (vd : VReg) (hs : SReg) (vo : VReg) (wd : Width) (imm : BitVec 10) (c : Issue) (s : State),
    let i := Instr.sts g vd hs vo wd imm
    let a := at' i c s
    let b := begun i c s
    let off := fun l => ((((Claims.gang c b).sreg hs).toNat : Int) + (((Claims.gang c b).lane l).reg vo).toNat + imm.toInt * wd.bytes)
    let team := (Claims.gang c b).team
    let check := fun l => (b.stashCheck team (off l) wd.bytes (Width.align wd)).or
      ((b.stashReadOnly team (off l).toNat wd.bytes).map fun _ => stashErr cRIGHTS (off l).toNat)
    let good := a.exec.filter fun l => (check l).isNone
    let goes := fun (t : State) =>
      (good = [] → Moved a b t (Claims.gang c b) fun _ x => x) ∧
      (good ≠ [] → Launched a b t { a.access b .sts with wd := wd }
        (good.map fun l => (l, off l, ((Claims.gang c b).lane l).wide vd wd, 0)) id)
    ready i c s = true →
    ((∀ l ∈ a.exec, check l = none) → ∃ t, exec i s = .next (settle c b t) ∧ goes t) ∧
    ∀ l e, a.exec.find? (fun l => (check l).isSome) = some l → check l = some e →
      ∃ t, exec i s = .next (raised i c s b t (laneSet (a.exec.filter fun l => (check l).isSome)) e.cause e.addr e.info) ∧ goes t) ∧
  (∀ (u : UGuard) (sd sa sb : SReg) (wd : Width) (pol : Policy) (imm : BitVec 11) (c : Issue) (s : State),
    let i := Instr.sst u sd sa sb wd pol imm
    let a := at' i c s
    let b := begun i c s
    let h := ((Claims.gang c b).sreg sa).toNat
    let off := (((Claims.gang c b).sreg sb).toNat : Int) + imm.toInt * wd.bytes
    let check := b.storeCheck (b.gridIdOf (key c)) h off wd.bytes (Width.align wd)
    let x := { a.access b .store with handle := h, wd := wd, pol := pol, ent := b.entryRaw (h % 4096) }
    let value := if wd.regs = 2 then (Claims.gang c b).spair sd else ((Claims.gang c b).sreg sd).toNat % 2 ^ (8 * wd.bytes)
    ready i c s = true →
    (check = none → (b.entry (h % 4096)).millWrites = false →
      ∃ t, exec i s = .next (settle c b t) ∧
        Launched a b t x [(64, off, value, 0)] id) ∧
    (check = none → (b.entry (h % 4096)).millWrites = true →
      ∃ t, exec i s = .next (settle c b t) ∧
        Launched a b t { x with gate := b.ungated x ⟨64, off.toNat, value, 0⟩ }
          ((beatReqs [(off.toNat, toBytes wd.bytes value)]).map fun r => (r.lane, r.offset, r.data, r.expect)) id) ∧
    ∀ e, check = some e → exec i s = .next (raised i c s b b (issuing i c s) e.cause e.addr e.info)) ∧
  (∀ (g : LGuard) (va : VReg) (hs : SReg) (vo : VReg) (wd : Width) (op : Aop) (sc : Scope) (c : Issue) (s : State),
    let i := Instr.red g va hs vo wd op sc
    let a := at' i c s
    let b := begun i c s
    let h := ((Claims.gang c b).sreg hs).toNat
    let off := fun l => ((((Claims.gang c b).lane l).reg vo).toNat : Int)
    let check := fun l => b.atomCheck (b.gridIdOf (key c)) h (off l) wd.bytes op
    let good := a.exec.filter fun l => (check l).isNone
    let goes := fun (t : State) =>
      (good = [] → Moved a b t (Claims.gang c b) fun _ x => x) ∧
      (good ≠ [] → Launched a b t { a.access b .red with handle := h, wd := wd, aop := op, scope := sc, ent := b.entryRaw (h % 4096) }
        (good.map fun l => (l, off l, ((Claims.gang c b).lane l).wide va wd, 0)) id)
    ready i c s = true →
    ((∀ l ∈ a.exec, check l = none) → ∃ t, exec i s = .next (settle c b t) ∧ goes t) ∧
    ∀ l e, a.exec.find? (fun l => (check l).isSome) = some l → check l = some e →
      ∃ t, exec i s = .next (raised i c s b t (laneSet (a.exec.filter fun l => (check l).isSome)) e.cause e.addr e.info) ∧ goes t)) ∧
  ((∀ (g : LGuard) (hs : SReg) (vo : VReg) (wd : Width) (pol : Policy) (imm : BitVec 10) (c : Issue) (s : State),
    let i := Instr.pf g hs vo wd pol imm
    let a := at' i c s
    let b := begun i c s
    ready i c s = true →
    ∃ t, exec i s = .next (settle c b t) ∧
      Launched a b t { a.access b .prefetch with handle := ((Claims.gang c b).sreg hs).toNat, wd := wd, pol := pol }
        (a.exec.map fun l => (l, ((((Claims.gang c b).lane l).reg vo).toNat : Int) + imm.toInt * wd.bytes, 0, 0)) id) ∧
  ∀ (s : State) (id : Nat) (x : Access), s.access? id = some x → x.kind = .prefetch → x.faults = [] → (s.gang x.gang).waitTrap = [] →
    (∀ l, ∀ w ∈ ((s.gang x.gang).lane l).wins, w.acc ≠ id) →
    ∃ t, exec (.loadResult id) s = .next t ∧ t.dev.mem = s.dev.mem ∧ (∀ k, t.gang k = s.gang k) ∧
      (∀ k, { t.core k with cache := [] } = { s.core k with cache := [] }) ∧ t.ctx.teams = s.ctx.teams ∧ t.ctx.works = s.ctx.works ∧
      t.ctx.misses = s.ctx.misses ∧ ∀ y, t.access? id = some y → y.faults = [])

/-- The operations of R150 on n = 4 or 8 bytes: sums modulo 2^8n, the bitwise ones, the signed and unsigned extremes, exchange and
compare-and-swap; the floating ones are those of the lane words on one word (R206, R220). ATOMIC_PERFORM of an ATOM writes the new value
over the old at its place and returns the old to its lane: at the home with a WCT after every lease, or, at scopes within the cluster,
with the line in the cluster's custody (R153 to R155). An ATOMS does so in its team's scratch stash (R156). A RED writes and returns
nothing (R157). STORE_PERFORM writes the operand's bytes at their place in memory, with a WCT after every lease on the line, or in the
team's scratch stash (R120, R145, R146). SIGNAL_ADD adds to a 64-bit signal, stopping at its largest value (R257, R259). CUSTODY_RETURN
brings a line home: it is in custody no more, reads as before, and its WCT joins what a FENCE.rel of device scope of its users waits for
(R154, R174). MILL_WRITE_BEAT writes what the graph makes of a whole beat, a tap graph the beat itself (R105, R106). Nothing else in
memory changes. Where it touches what assumptions 1, 2, 33 and 62 decide, it states the model's choice. -/
def Obligations.WritesArePerformed : Prop :=
  (∀ (n old a x : Nat), (n = 4 ∨ n = 8) → old < 2 ^ (8 * n) → a < 2 ^ (8 * n) →
    let w := 8 * n
    let v := BitVec.ofNat w
    (v (State.aopApply .add n old a x) = v old + v a ∧ v (State.aopApply .and n old a x) = v old &&& v a ∧
      v (State.aopApply .or n old a x) = v old ||| v a ∧ v (State.aopApply .xor n old a x) = v old ^^^ v a) ∧
    ((v (State.aopApply .min n old a x)).toInt = min (v old).toInt (v a).toInt ∧
      (v (State.aopApply .max n old a x)).toInt = max (v old).toInt (v a).toInt ∧
      State.aopApply .umin n old a x = min old a ∧ State.aopApply .umax n old a x = max old a) ∧
    State.aopApply .xchg n old a x = a ∧ State.aopApply .cas n old a x = (if old = x then a else old) ∧
    (∀ op : Aop, op ≠ .fadd → op ≠ .fmin → op ≠ .fmax → op ≠ .hadd2 → State.aopApply op n old a x < 2 ^ (8 * n)) ∧
    State.aopApply .fadd n old a x = (fmtAdd fp32 old a).1 ∧ State.aopApply .hadd2 n old a x = (halves (fmtAdd bf16) old a).1 ∧
    State.aopApply .fmin n old a x = (fp32.minmax false old a).1 ∧ State.aopApply .fmax n old a x = (fp32.minmax true old a).1) ∧
  ((∀ (s : State) (id : Nat) (x : Access) (r : Req) (e : Entry) (p : Piece), let b := { s with eng := some id }
    let n := x.wd.bytes
    Due s id x r → x.kind = .atom → x.ent = [] → r.offset = r.off →
    b.checkParts x.gridId x.handle r.offset n ⟨rR ||| rW ||| rATOM, n, true, false⟩ = .ok (e, [p]) → e.kind ≠ 5 →
    e.millrd = noGraph → e.millwr = noGraph → (e.kind = 7 → x.aop = .add ∨ x.aop = .xchg ∨ x.aop = .cas) →
    Placed b id x.handle r.off n e p →
    let old := ofBytes (s.dev.mem.readBytes p.loc n)
    let new := toBytes n (State.aopApply x.aop n old r.data r.expect)
    ((e.kind ≠ 1 ∨ 3 < State.scopeRank x.scope) → b.custodyBlocks (x.core / 8) p.loc false = false →
      ∃ t, exec (.atomicPerform id) s = .next t ∧ Delivered id x r old s t ∧ Stored s t p.loc new ∧ WctNoted s t x.gang pLSU (p.loc / 128)) ∧
    (e.kind = 1 → State.scopeRank x.scope ≤ 3 → Tbl.find? s.ctx.custody (p.loc / 128) = none →
      (s.ctx.custody.filter fun c => c.2.cluster == x.core / 8).length < 256 →
      ∃ t, exec (.atomicPerform id) s = .next t ∧ Delivered id x r old s t ∧ Stored s t p.loc new ∧
        Tbl.find? t.ctx.custody (p.loc / 128) = some ⟨x.core / 8, s.now, false, [(x.gang, x.grid)]⟩)) ∧
  (∀ (s : State) (id : Nat) (x : Access) (r : Req), Due s id x r → x.kind = .atoms → scratch s x.team →
    s.stashCheck x.team r.offset x.wd.bytes x.wd.bytes = none →
    let old := ofBytes (s.stashBytes x.team r.offset.toNat x.wd.bytes)
    ∃ t, exec (.atomicPerform id) s = .next t ∧ Delivered id x r old s t ∧ t.dev = s.dev ∧
      stashStored s t x.team r.offset.toNat (toBytes x.wd.bytes (State.aopApply x.aop x.wd.bytes old r.data r.expect))) ∧
  (∀ (s : State) (id : Nat) (x : Access) (r : Req) (p : Piece), let b := { s with eng := some id }
    let n := x.wd.bytes
    let e := b.entryOf x
    Due s id x r → x.kind = .red → Tbl.mem s.ctx.misses (b.reqVa x r / 2 ^ 16) = false → e.kind ≠ 5 →
    Placed b id x.handle r.off n e p → (e.kind ≠ 1 ∨ 3 < State.scopeRank x.scope) → b.custodyBlocks (x.core / 8) p.loc false = false →
    ∃ t, exec (.atomicPerform id) s = .next t ∧ Written id s t ∧
      Stored s t p.loc (toBytes n (State.aopApply x.aop n (ofBytes (s.dev.mem.readBytes p.loc n)) r.data 0)) ∧
      WctNoted s t x.gang x.path (p.loc / 128))) ∧
  ((∀ (s : State) (id : Nat) (x : Access) (r : Req) (p : Piece), let b := { s with eng := some id }
    let e := b.entryOf x
    Due s id x r → x.kind = .store → b.beatAccess x = false → e.kind ≠ 5 →
    Placed b id x.handle r.off x.wd.bytes e p → b.custodyBlocks (x.core / 8) p.loc false = false →
    ∃ t, exec (.storePerform id) s = .next t ∧ Written id s t ∧ Stored s t p.loc (toBytes x.wd.bytes r.data) ∧
      WctNoted s t x.gang x.path (p.loc / 128)) ∧
  (∀ (s : State) (id : Nat) (x : Access) (r : Req), Due s id x r → x.kind = .sts → scratch s x.team →
    ∃ t, exec (.storePerform id) s = .next t ∧ Written id s t ∧ t.dev = s.dev ∧
      stashStored s t x.team r.off (toBytes x.wd.bytes r.data)) ∧
  (∀ (s : State) (id : Nat) (x : Access) (r : Req) (p : Piece), let b := { s with eng := some id }
    let e := b.entryOf x
    Due s id x r → x.kind = .signal → x.wd = .d → Tbl.mem s.ctx.misses (b.reqVa x r / 2 ^ 16) = false → e.kind ≠ 5 →
    Placed b id x.handle r.off 8 e p → (e.kind ≠ 1 ∨ 3 < State.scopeRank x.scope) → b.custodyBlocks (x.core / 8) p.loc false = false →
    ∃ t, exec (.signalAdd id) s = .next t ∧ Written id s t ∧
      Stored s t p.loc (toBytes 8 (min (ofBytes (s.dev.mem.readBytes p.loc 8) + r.data) (2 ^ 64 - 1))) ∧
      WctNoted s t x.gang x.path (p.loc / 128)) ∧
  (∀ (s : State) (line : Nat) (cu : Custody), Tbl.find? s.ctx.custody line = some cu → s.dev.lostAt (128 * line) = false →
    ∃ t, exec (.custodyReturn line) s = .next t ∧ Tbl.find? t.ctx.custody line = none ∧
      (∀ k, k ≠ line → Tbl.find? t.ctx.custody k = Tbl.find? s.ctx.custody k) ∧ (∀ a, t.dev.mem.read a = s.dev.mem.read a) ∧
      ∀ u ∈ cu.users, (s.gang u.1).live = true → s.gridOf u.1 = u.2 →
        s.now < (Tbl.get StoreSet.none (t.gang u.1).stores State.returnKey).wct) ∧
  (∀ (s : State) (id : Nat) (x : Access) (r : Req) (p : Piece), let b := { s with eng := some id }
    let slot := (b.entryOf x).millwr
    let img := (s.millSlot slot).image
    let k := r.off / 64
    let back := b.backing (b.entryOf x) x.handle k slot
    let be := if (b.entryOf x).kind = 3 then b.entry back.1 else b.entryOf x
    let run := runGraph img (s.millPart ((chanOf p.loc).getD 0) slot) (lanesOf (toBytes 64 r.data)) [] 0 k
    let out := if imgMode img = 3 then toBytes 64 r.data else narrow back.2.2.2 (run.result img)
    Due s id x r → r.lane = 0 → r.expect = 2 ^ 64 - 1 → b.beatAccess x = true → imgMode img ≠ 1 → (s.millSlot slot).draining = none →
    (∀ m ∈ s.ctx.mills, m.2.ctxs = []) → be.kind = 1 → b.place be back.1 back.2.1 back.2.2.1 = .ok p →
    (k ∈ x.gate → ∃ g, b.gateOf (b.entryOf x) x.handle r.off true = .ok g) →
    b.beatBefore id back.1 back.2.1 back.2.2.1 = false → b.atHome [p] = .ok [p] → out ≠ [] →
    p.loc / 128 = (p.loc + out.length - 1) / 128 → run.failed = false → s.dev.lostAt p.loc = false →
    ∃ t, exec (.millWriteBeat id) s = .next t ∧ Written id s t ∧ Stored s t p.loc out ∧
      WctNoted s t x.gang x.path (p.loc / 128)))

/-- LOAD_RESULT gives a request of an LD or SLD of plain memory the bytes at its place, little end first, where it reads them at their home:
as they stand, or as they stood at an instant after all that the load comes after (R165, R169 to R171); LDS gets the bytes of its team's
scratch stash, each of them old or new where an engine of another path wrote it with no FENCE since (R173), and a division its result.
No byte of memory changes (R139, R145, R146, R214). A load whose checks fail traps the lane it serves (R70, R143): the cause and the
address of the check, TPC at the load, TRESUME where the lane stands, or with no window the offset after the load, WINDOW in TINFO where
the load had a window; nothing is written to its registers. Where it touches what assumptions 1, 63, 68 and 82 decide, it states the
model's choice. -/
def Obligations.LoadsAreServed : Prop :=
  ((∀ (s : State) (id : Nat) (x : Access) (r : Req) (e : Entry) (p : Piece), let b := { s with eng := some id }
    Due s id x r → x.kind = .load ∨ x.kind = .sld →
    b.checkParts x.gridId x.handle r.offset x.wd.bytes ⟨rR, Width.align x.wd, false, false⟩ = .ok (e, [p]) →
    e.kind ≠ 5 → e.kind ≠ 6 → e.milled false = false →
    Placed b id x.handle r.offset.toNat x.wd.bytes e p → b.custodyBlocks (x.core / 8) p.loc true = false →
    (x.pol = .nl ∨ 2 ≤ p.attr ∨ (Tbl.find? s.ctx.custody (p.loc / 128)).isSome = true ∨ cacheOf s x.core (p.loc / 128) = none) →
    let l := if x.kind = .sld then 64 else r.lane
    ∃ k t, let v := ofBytes (mayRead s x.gang l (Tbl.get 0 x.after l) p.loc x.wd.bytes k)
      exec (.loadResult id) s = .next t ∧ t.dev.mem = s.dev.mem ∧ (t.gang x.gang).stores = (s.gang x.gang).stores ∧
      (x.kind = .load → Delivered id x r v s t) ∧
      (x.kind = .sld → t.access? id = none ∧ (∀ k, k ≠ x.gang → t.gang k = s.gang k) ∧
        t.gang x.gang = { (if x.wd.regs = 2 then (s.gang x.gang).setSpair x.reg v else (s.gang x.gang).setS x.reg (BitVec.ofNat 32 v)) with
          lanes := (t.gang x.gang).lanes } ∧
        ∀ l, l < 64 → (t.gang x.gang).lane l = { (s.gang x.gang).lane l with
          wins := ((s.gang x.gang).lane l).wins.filter fun w => w.acc != id })) ∧
  (∀ (s : State) (id : Nat) (x : Access) (r : Req), Due s id x r → x.kind = .lds → scratch s x.team →
    s.stashCheck x.team r.offset x.wd.bytes (Width.align x.wd) = none →
    ∃ t, exec (.loadResult id) s = .next t ∧ Delivered id x r (ofBytes (s.stashBytes x.team r.offset.toNat x.wd.bytes)) s t ∧
      t.dev = s.dev ∧ t.ctx.cores = s.ctx.cores ∧ (t.gang x.gang).stores = (s.gang x.gang).stores) ∧
  (∀ (s : State) (id : Nat) (x : Access) (r : Req), Due s id x r → x.kind = .lds →
    (s.team x.team).maps = [] → (∀ i, ((s.team x.team).sector i).poison = false) →
    s.stashCheck x.team r.offset x.wd.bytes (Width.align x.wd) = none →
    ∃ t bs, exec (.loadResult id) s = .next t ∧ Delivered id x r (ofBytes bs) s t ∧ bs.length = x.wd.bytes ∧
      ∀ k, k < x.wd.bytes → bs.getD k 0 = (s.stashBytes x.team r.offset.toNat x.wd.bytes).getD k 0 ∨
        ∃ y ∈ s.ctx.stashOld, y.gang = x.gang ∧ y.team = x.team ∧ y.path ≠ pLSU ∧ y.off ≤ r.offset.toNat + k ∧
          r.offset.toNat + k < y.off + y.bytes.length ∧ bs.getD k 0 = y.bytes.getD (r.offset.toNat + k - y.off) 0) ∧
  (∀ (s : State) (id : Nat) (x : Access) (r : Req), Due s id x r → x.kind = .div →
    ∃ t, exec (.loadResult id) s = .next t ∧ Delivered id x r (r.data % 2 ^ 32) s t ∧
      t.dev = s.dev ∧ t.ctx.cores = s.ctx.cores ∧ (t.gang x.gang).stores = (s.gang x.gang).stores)) ∧
  (∀ (s : State) (id : Nat) (x : Access) (r : Req) (e : Err), let b := { s with eng := some id }
    Due s id x r → x.kind = .load → r.lane < 64 → ((s.gang x.gang).lane r.lane).cond ≠ .exited →
    (∀ w ∈ ((s.gang x.gang).lane r.lane).wins, w.acc = id) → (s.gang x.gang).hmode = false → (s.grid (s.gridOf x.gang)).thandler ≠ 0 →
    (s.dev.pre.req = false ∨ s.dev.pre.done = true) →
    b.checkParts x.gridId x.handle r.offset x.wd.bytes ⟨rR, Width.align x.wd, false, false⟩ = .fail e →
    ∃ t, exec (.loadResult id) s = .next t ∧ t.access? id = none ∧ t.dev.mem = s.dev.mem ∧
      (t.gang x.gang).t = ⟨e.cause, x.pc, (if x.la = 0 then (x.pc + 8) % 2 ^ 32 else ((s.gang x.gang).lane r.lane).pc), e.addr, laneBit r.lane,
        e.info ||| (if x.la > 0 then 0x100 else 0)⟩ ∧
      (t.gang x.gang).hmode = true ∧ (t.gang x.gang).hset = laneBit r.lane ∧
      ((t.gang x.gang).lane r.lane).pc = (s.grid (s.gridOf x.gang)).thandler ∧
      ((t.gang x.gang).lane r.lane).v = ((s.gang x.gang).lane r.lane).v)

/-! The stash (R126 to R134). -/

/-- STMAP maps a region of the stash whose checks pass; sectors of it are clean (R132). STUNMAP holds its lanes; its completion removes the
region, its bytes staying as scratch, and its lanes go on (R133). STFLUSH hands the dirty sectors of the mapped regions in its range, or
with INV the fetched ones too, to its engine; with none dirty its token is written at once, INV's sectors needing a new fetch (R134). A
region that is not mapped, or a range that breaks a rule, traps (R131 to R134). A sector goes home (R127, R128): after a write-back of a
plainly mapped sector each dirty byte stands at its home with the value the stash holds, no other byte of memory has changed, and the
sector is clean. STFLUSH_COMPLETE does so for its sectors, counts those that were dirty, and writes its token once device time has
reached their WCTs (R134). Where it touches what assumptions 34 and 59 decide, it states the model's choice. -/
def Obligations.StashRegionsAndSectors : Prop :=
  ((∀ (u : UGuard) (sa sb sc : SReg) (lines : BitVec 14) (mode : MapMode) (c : Issue) (s : State),
    let i := Instr.stmap u sa sb sc lines mode
    let b := begun i c s
    let g := Claims.gang c b
    let h := (g.sreg sa).toNat
    let off : Nat := (g.sreg sb).toNat
    let so := (g.sreg sc).toNat
    let n := 128 * lines.toNat
    ready i c s = true →
    (b.stmapCheck (b.gridIdOf (key c)) g.team h off so n mode = none → b.stashPending b.ctx.nextId g.team so n AccKind.stash = false →
      ∃ t, exec i s = .next (settle c b (t.modTeam g.team fun m => { m with
          maps := m.maps ++ [⟨so, n, h % 4096, off, mode⟩],
          sectors := m.sectors.filter fun x => x.1 < so / 64 || (so + n) / 64 ≤ x.1 })) ∧
        Moved (at' i c s) b t g fun _ x => x) ∧
    ∀ e, b.stmapCheck (b.gridIdOf (key c)) g.team h off so n mode = some e →
      exec i s = .next (raised i c s b b (issuing i c s) e.cause e.addr e.info)) ∧
  (∀ (u : UGuard) (sa : SReg) (drop : Bool) (c : Issue) (s : State),
    let i := Instr.stunmap u sa drop
    let b := begun i c s
    let so := ((Claims.gang c b).sreg sa).toNat
    ready i c s = true →
    ((∃ r ∈ (b.team (Claims.gang c b).team).maps, r.so = so) → ∃ t, exec i s = .next (settle c b t) ∧
      Held (at' i c s) b t ⟨.stunmap so drop, key c, issuing i c s, c.pc, [], none⟩) ∧
    ((∀ r ∈ (b.team (Claims.gang c b).team).maps, r.so ≠ so) →
      exec i s = .next (raised i c s b b (issuing i c s) 0x19 (so + 0xFFFFFFFF * 2 ^ 32) 1))) ∧
  (∀ (s : State) (id so : Nat) (drop : Bool) (h : Hold) (r : Region),
    let team := (s.gang h.gang).team
    Tbl.find? s.ctx.holds id = some h → h.kind = .stunmap so drop → (s.gang h.gang).live = true →
    ((s.team team).maps.find? fun r => r.so == so) = some r →
    s.stashInUse id team so r.n = false → s.stashPending id team so r.n AccKind.stash = false →
    (drop = true ∨ ∀ x ∈ (s.team team).sectors, x.2.dirty = 0) →
    ∃ t, exec (.stunmapComplete id) s = .next t ∧ Released id h s t ∧ t.dev = s.dev ∧ t.ctx.cores = s.ctx.cores ∧
      t.team team = { s.team team with
        maps := (s.team team).maps.filter fun r => r.so != so,
        sectors := (s.team team).sectors.filter fun x => x.1 < so / 64 || (so + r.n) / 64 ≤ x.1 }) ∧
  (∀ (u : UGuard) (sd sa sb : SReg) (all inv : Bool) (c : Issue) (s : State),
    let i := Instr.stflush u sd sa sb all inv
    let a := at' i c s
    let b := begun i c s
    let g := Claims.gang c b
    let f := b.fstash g.team
    let lo := if all then 0 else (g.sreg sa).toNat
    let n := if all then f else (g.sreg sb).toNat
    let t := b.team g.team
    let is := (t.mappedSectors lo (lo + n)).filter fun k => (t.sector k).dirty != 0 || (inv && (t.sector k).expiry.isSome)
    ready i c s = true → (∀ y ∈ b.ctx.accs, y.2.team ≠ g.team) →
    ((all = true ∨ lo % 128 = 0 ∧ n % 128 = 0) → lo + n ≤ f → (∃ k ∈ is, (t.sector k).dirty ≠ 0) →
      Starts i c s sd 0x032 (.stflush is inv 0 lo n)) ∧
    ((all = true ∨ lo % 128 = 0 ∧ n % 128 = 0) → lo + n ≤ f → (∀ k ∈ is, (t.sector k).dirty = 0) → g.live = true →
      (∀ y ∈ b.ctx.accs, y.2.work ≠ some b.ctx.nextId) →
      ∃ v, exec i s = .next (settle c b v) ∧ TokenWritten b.ctx.nextId (a.work b sd 0x032 (.stflush is inv 0 lo n)) 0 0 v ∧
        ∀ k, (v.team g.team).sector k = if k ∈ is then { t.sector k with expiry := none } else t.sector k) ∧
    (all = false → ¬(lo % 128 = 0 ∧ n % 128 = 0) →
      exec i s = .next (raised i c s b b (issuing i c s) cMISALIGNED (lo + 0xFFFFFFFF * 2 ^ 32) 0)) ∧
    (all = false → lo % 128 = 0 ∧ n % 128 = 0 → f < lo + n →
      exec i s = .next (raised i c s b b (issuing i c s) cBOUNDS (lo + 0xFFFFFFFF * 2 ^ 32) 0)))) ∧
  ((∀ (s t : State) (gridId slot team i : Nat) (r : Region) (e : Entry) (p : Piece) (w : StoreSet),
    (s.team team).regionAt (64 * i) = some r → ((s.team team).sector i).dirty ≠ 0 → s.milled r.handle true = false →
    s.entry (r.handle % 4096) = e → s.place e r.handle (r.off + (64 * i - r.so)) 64 = .ok p →
    s.writeBack gridId slot team i = (t, .ok w) → w.err = none →
    ((t.team team).sector i).dirty = 0 ∧ s.now < w.wct ∧
    (∀ j, j < 64 → t.dev.mem.read (p.loc + j) = if ((s.team team).sector i).dirty.getLsbD j then
      (s.core (teamCore team)).pool.read ((s.team team).stashRun + 64 * i + j) else s.dev.mem.read (p.loc + j)) ∧
    ∀ a, a < p.loc ∨ p.loc + 64 ≤ a → t.dev.mem.read a = s.dev.mem.read a) ∧
  (∀ (s u : State) (id i count lo n : Nat) (inv : Bool) (w : Work) (y : StoreSet), let b := { s with eng := some id }
    s.work? id = some w → w.job = .stflush [i] inv count lo n → w.fin = none → w.stall = none → s.awaits id = false → count + 1 < 2 ^ 24 →
    s.stashPending id w.team (64 * i) 64 AccKind.dirties = false → ((s.team w.team).sector i).dirty ≠ 0 →
    b.writeBack w.gridId (w.gang % 64) w.team i = (u, .ok y) → y.err = none → s.now < y.wct →
    ∃ t v d, exec (.stflushComplete id) s = .next t ∧ t.dev.mem = u.dev.mem ∧ ((t.team w.team).sector i).dirty = 0 ∧
      t.work? id = some v ∧ v.fin = some (w.cause, count + 1, w.faultAt) ∧ v.due = some d ∧ y.wct ≤ d) ∧
  (∀ (s : State) (id cause count addr d : Nat) (is : List Nat) (inv : Bool) (m lo n : Nat) (w : Work),
    s.work? id = some w → w.job = .stflush is inv m lo n → w.fin = some (cause, count, addr) → w.due = some d → d ≤ s.now →
    w.orphan = false → (s.gang w.gang).live = true → (∀ y ∈ s.ctx.accs, y.2.work ≠ some id) →
    ∃ t, exec (.stflushComplete id) s = .next t ∧ TokenWritten id w cause count t ∧
      Tbl.get 0 (t.gang w.gang).engFault w.tok = if cause = 0 then Tbl.get 0 (s.gang w.gang).engFault w.tok else addr))

/-! Ordering (R172 to R183). -/

/-- FENCE holds its lanes; a release sends the team's dirty sectors on their way home, and from cluster scope asks the cluster's custody
lines back (R128, R154, R175). SIGADD puts its add in flight, after a release's fence holds its lanes, and traps with nothing added
where its signal fails a check (R259). A fence is over when no access of its gang is in flight, every WCT of the gang's store sets has
passed, and no custody line holds an atomic of the gang (R174, R175): its lanes then go on, after the add of a SIGADD.rel is in flight.
While an earlier access on a path it names is not performed, a WCT of those paths that its scope covers has not passed, or, from device
scope on the LSU path, a custody line holds an atomic of the gang or is still on its way home, the lanes stay held and nothing changes
(R154, R174, R175). A release that finds an error of the gang's stores traps instead at the fence, with DEFERRED and the path in TINFO,
and takes the error out of its set (R176). Where it touches what assumptions 35, 43 and 62 decide, it states the model's choice. -/
def Obligations.FencesHoldAndComplete : Prop :=
  (let begins := fun (i : Instr) (c : Issue) (s : State) (rel : Bool) (paths : Nat) (scope : Scope) (kind : State → HoldKind) =>
    let b := begun i c s
    ∃ v t, exec i s = .next (settle c b t) ∧ Held (at' i c s) v t ⟨kind b, key c, issuing i c s, c.pc, [], none⟩ ∧
      v = { b with ctx := { b.ctx with accs := v.ctx.accs, custody := v.ctx.custody, nextId := v.ctx.nextId } } ∧ (rel = false → v = b) ∧
      (rel = true → paths % 2 = 1 → 2 ≤ State.scopeRank scope → let m := b.team (Claims.gang c b).team
        ∀ k sec, Tbl.find? m.sectors k = some sec → sec.dirty ≠ 0 → (m.regionAt (64 * k)).isSome = true →
          ∃ y, v.access? b.ctx.nextId = some y ∧ y.kind = .writeBack ∧ y.team = (Claims.gang c b).team ∧ ∃ r ∈ y.reqs, r.lane = k) ∧
      (rel = true → 3 ≤ State.scopeRank scope → ∀ line cu, Tbl.find? v.ctx.custody line = some cu → cu.cluster = c.core / 8 → cu.ret = true)
  (∀ (u : UGuard) (paths : BitVec 7) (scope : Scope) (rel acq : Bool) (c : Issue) (s : State), let i := Instr.fence u paths scope rel acq
    ready i c s = true → begins i c s rel paths.toNat scope fun _ => .fence paths.toNat scope rel acq) ∧
  (∀ (u : UGuard) (sa sb sc : SReg) (d rel : Bool) (paths : BitVec 7) (c : Issue) (s : State),
    let i := Instr.sigadd u sa sb sc d rel paths
    let a := at' i c s
    let b := begun i c s
    let g := Claims.gang c b
    let h := (g.sreg sa).toNat
    let off : Nat := (g.sreg sb).toNat
    let v := if d then g.spair sc else (g.sreg sc).toNat
    ready i c s = true →
    (∀ e, b.signalCheck (b.gridIdOf (key c)) h off = some e → exec i s = .next (raised i c s b b (issuing i c s) e.cause e.addr e.info)) ∧
    (b.signalCheck (b.gridIdOf (key c)) h off = none →
    (rel = false → ∃ t, exec i s = .next (settle c b t) ∧ Launched a b t
      { a.access b .signal with path := pFABRIC, handle := h, wd := .d, scope := b.pointScope h, ent := b.entryRaw (h % 4096) }
      [(64, off, v, 0)] id) ∧
    (rel = true → begins i c s true paths.toNat (b.pointScope h) fun b => .sigadd paths.toNat (b.pointScope h) h off v)))) ∧
  (let passed := fun (s : State) (h : Hold) =>
    quiet s h.gang ∧ (∀ k, (Tbl.get StoreSet.none (s.gang h.gang).stores k).wct ≤ s.now) ∧
      ∀ y ∈ s.ctx.custody, (h.gang, s.gridOf h.gang) ∉ y.2.users
  let standing := fun (s : State) (id : Nat) (h : Hold) => ∃ l, l < 64 ∧ ((s.gang h.gang).lane l).hold = some id
  let outstanding := fun (s : State) (id : Nat) (h : Hold) (paths : Nat) (scope : Scope) (rel acq : Bool) =>
    let wct := fun k => (Tbl.get StoreSet.none (s.gang h.gang).stores k).wct
    (∃ y ∈ s.ctx.accs, y.1 < id ∧ y.2.gang = h.gang ∧ y.2.orphan = false ∧ y.2.work = none ∧ bit paths y.2.path = true ∧
      (y.2.kind.loads = true ∧ (acq = true ∨ rel = true ∧ y.2.kind.writes = false) ∨
        rel = true ∧ y.2.kind.writes = true ∧ (scope = .system ∨ s.accSystem y.2 = false))) ∨
    (rel = true ∧ 3 ≤ State.scopeRank scope ∧ ∃ p sys, p < 7 ∧ bit paths p = true ∧ (sys = true → scope = .system) ∧
      s.now < wct (State.setKey p sys)) ∨
    (rel = true ∧ 4 ≤ State.scopeRank scope ∧ bit paths 0 = true ∧
      (s.now < wct State.returnKey ∨ ∃ y ∈ s.ctx.custody, (h.gang, s.gridOf h.gang) ∈ y.2.users))
  (∀ (s : State) (id paths : Nat) (scope : Scope) (rel acq : Bool) (h : Hold), Tbl.find? s.ctx.holds id = some h →
    (h.kind = .fence paths scope rel acq ∨ (∃ buf off v, h.kind = .sigadd paths scope buf off v) ∧ rel = true ∧ acq = false) →
    standing s id h → outstanding s id h paths scope rel acq → exec (.fenceComplete id) s = .next s) ∧
  (∀ (s : State) (id paths : Nat) (scope : Scope) (rel acq : Bool) (h : Hold),
    Tbl.find? s.ctx.holds id = some h → h.kind = .fence paths scope rel acq → passed s h → standing s id h →
    (rel = false ∨ ∀ k, (Tbl.get StoreSet.none (s.gang h.gang).stores k).err = none) →
    ∃ t, exec (.fenceComplete id) s = .next t ∧ Released id h s t ∧ t.dev = s.dev) ∧
  (∀ (s : State) (id paths : Nat) (scope : Scope) (buf off v : Nat) (h : Hold),
    Tbl.find? s.ctx.holds id = some h → h.kind = .sigadd paths scope buf off v → passed s h → standing s id h →
    (∀ k, (Tbl.get StoreSet.none (s.gang h.gang).stores k).err = none) →
    ∃ t y, exec (.fenceComplete id) s = .next t ∧ Released id h s t ∧ t.dev = s.dev ∧ t.access? s.ctx.nextId = some y ∧
      y.kind = .signal ∧ y.gang = h.gang ∧ y.handle = buf ∧ y.wd = .d ∧ y.reqs = [⟨64, off, v, 0⟩]) ∧
  (∀ (s : State) (id : Nat) (scope : Scope) (acq : Bool) (h : Hold) (x : StoreSet) (e : Err),
    Tbl.find? s.ctx.holds id = some h → h.kind = .fence 1 scope true acq → scope ≠ .system → passed s h → standing s id h →
    Tbl.get StoreSet.none (s.gang h.gang).stores (State.setKey pLSU false) = x → x.err = some e →
    (∀ l, l < 64 → ((s.gang h.gang).lane l).hold = some id → ((s.gang h.gang).lane l).wins = []) →
    (s.gang h.gang).hmode = false → (s.gang h.gang).waitTrap = [] → (s.grid (s.gridOf h.gang)).thandler ≠ 0 →
    (s.dev.pre.req = false ∨ s.dev.pre.done = true) →
    ∃ t, exec (.fenceComplete id) s = .next t ∧ (t.gang h.gang).hmode = true ∧ (t.gang h.gang).t.cause = e.cause ∧
      (t.gang h.gang).t.tpc = h.pc ∧ (t.gang h.gang).t.addr = e.addr ∧
      (t.gang h.gang).t.info = (e.info ||| 0x200 ||| (if x.logged then 0x40 else 0)) ∧
      (∀ l, l < 64 → ((t.gang h.gang).hset.getLsbD l = true ↔ ((s.gang h.gang).lane l).hold = some id)) ∧
      (Tbl.get StoreSet.none (t.gang h.gang).stores (State.setKey pLSU false)).err = none))

/-- SIGWAIT reads its signal at issue: at its target or above, the value is in the pair and the guard is set, and the lanes go on, every later access of the gang coming after it; below,
they block until its deadline (R260), at which SIGWAIT_DEADLINE reads once more and returns whatever the value. -/
def Obligations.SigwaitReturnsOrBlocks : Prop :=
  let read := fun (gk : Nat) (w : State) =>
    { w with eng := none, ctx := { w.ctx with replies := Tbl.erase w.ctx.replies (gangAsk gk) } }
  let after := fun (gk : Nat) (met : Prop) (v w : State) =>
    (met → w = (v.orderedNow gk).stashOrdered gk) ∧ (¬met → w = v)
  (∀ (u : UGuard) (sd sa sb sc : SReg) (zo : ZReg) (bexp : Fin 32) (c : Issue) (s w : State) (bs : List Byte) (e : Entry),
    let i := Instr.sigwait u sd sa sb sc zo bexp
    let a := at' i c s
    let b := begun i c s
    let g := Claims.gang c b
    let h := (g.sreg sa).toNat
    let off : Nat := (g.sreg sb).toNat
    let x := { a.access b .load with handle := h, wd := .d, pol := .nl, reqs := [⟨64, off, 0, 0⟩] }
    ready i c s = true → (∀ l ∈ a.exec, (g.lane l).wait = .none) →
    b.check (b.gridIdOf (key c)) h off 8 ⟨rR, 8, false, false⟩ = .ok e → e.kind ≠ 5 →
    b.earlierOverlap b.ctx.nextId x ⟨64, off, 0, 0⟩ = false →
    { b with eng := some (gangAsk (key c)) }.serveLoad b.ctx.nextId x ⟨64, off, 0, 0⟩ = (w, .data bs) →
    let v := read (key c) w
    (g.spair sc ≤ ofBytes bs → ∃ t u, after (key c) True v u ∧ exec i s = .next (settle c b t) ∧
      Moved a u t (((Claims.gang c v).setSpair sd (ofBytes bs)).setZ zo true) fun _ x => x) ∧
    (ofBytes bs < g.spair sc → v.now = b.now →
      ∃ t, exec i s = .next (settle c b t) ∧ Blocked a v t (.sigwait (s.dev.dtime + 2 ^ bexp.val)))) ∧
  (∀ (s f w : State) (core slot o d : Nat) (m : Lanes) (u : UGuard) (sd sa sb sc : SReg) (zo : ZReg) (bexp : Fin 32)
      (bs : List Byte) (e : Entry),
    let gk := gangKey core slot
    let a : At := ⟨core, slot, m, laneList m, o, (o + 8) % 2 ^ 32, true⟩
    let b := { f with cur := none }
    let g := b.gang gk
    let h := (g.sreg sa).toNat
    let off : Nat := (g.sreg sb).toNat
    let x := { a.access b .load with handle := h, wd := .d, pol := .nl, reqs := [⟨64, off, 0, 0⟩] }
    (s.gang gk).blockedIn (fun w => match w with | .sigwait d => decide (d ≤ s.now) | _ => false) = some (m, o) →
    (s.gang gk).stopped = false → m ≠ 0 →
    s.fetch gk o = (f, .instr (.sigwait u sd sa sb sc zo bexp)) → f.ctx.gangs = s.ctx.gangs → g.retry = false →
    b.available gk (.sigwait u sd sa sb sc zo bexp) = true →
    (∀ l ∈ laneList m, (g.lane l).wait = .sigwait d) → d ≤ b.now → w.now = b.now →
    b.check (b.gridIdOf gk) h off 8 ⟨rR, 8, false, false⟩ = .ok e → e.kind ≠ 5 →
    b.earlierOverlap b.ctx.nextId x ⟨64, off, 0, 0⟩ = false →
    { b with eng := some (gangAsk gk) }.serveLoad b.ctx.nextId x ⟨64, off, 0, 0⟩ = (w, .data bs) →
    let v := read gk w
    ∃ t u, after gk (g.spair sc ≤ ofBytes bs) v u ∧ exec (.sigwaitDeadline core slot) s = .next t ∧
      Moved a u t (((v.gang gk).setSpair sd (ofBytes bs)).setZ zo (decide (g.spair sc ≤ ofBytes bs))) fun _ x => x)

/-- TWAIT blocks its lanes while its token is pending; once it is written, the engine's writes join the gang's store sets and the lanes go
on, or with CHK a token with a cause traps with that cause and the engine's fault address and detail (R183, R173). NAP_EXPIRE lets the
lanes of every NAP of the gang whose time has come go on, each after its NAP, and changes nothing else (R287). CPERMIT adds permits up
to 65535 (R190). Where it touches what assumptions 30 and 66 decide, it states the model's choice. -/
def Obligations.TokensNapsAndPermits : Prop :=
  (∀ (z : ZReg) (sa : SReg) (chk : Bool) (c : Issue) (s : State),
    let i := Instr.twait z sa chk
    let a := at' i c s
    let b := begun i c s
    let r := b.readToken (key c) sa
    let v := (Claims.gang c b).sreg sa
    ready i c s = true →
    (Tbl.mem (Claims.gang c b).tokens sa = true → ∃ t, exec i s = .next (settle c b t) ∧ Blocked a b t (.twait sa)) ∧
    (Tbl.mem (Claims.gang c b).tokens sa = false →
      ((chk = false ∨ v.getLsbD 31 = false ∨ v.extractLsb' 24 7 = 0) → ∃ t, exec i s = .next (settle c b t) ∧
        Moved a r t (Claims.gang c r) (fun _ x => x) ∧ Tbl.find? (t.gang (key c)).unread sa = none ∧
        ((Claims.gang c s).live = true → ∀ y ∈ Tbl.get [] (Claims.gang c s).unread sa,
          y.2.wct ≤ (Tbl.get StoreSet.none (t.gang (key c)).stores y.1).wct)) ∧
      (chk = true → v.getLsbD 31 = true → v.extractLsb' 24 7 ≠ 0 →
        exec i s = .next (raised i c s b r (issuing i c s) (v.extractLsb' 24 7).toNat (Tbl.get 0 (Claims.gang c b).engFault sa)
          (Tbl.get 0 (Claims.gang c b).engInfo sa))))) ∧
  (∀ (s : State) (core slot : Nat), let gk := gangKey core slot
    ∃ t, exec (.napExpire core slot) s = .next t ∧ OnlyGang ⟨core, slot, 0, [], 0, 0, true⟩ s t ∧
      t.gang gk = { s.gang gk with lanes := (t.gang gk).lanes } ∧
      ∀ l, l < 64 →
        (∀ d, ((s.gang gk).lane l).cond = .blocked → ((s.gang gk).lane l).wait = .nap d → d ≤ s.now →
          (t.gang gk).lane l = ((s.gang gk).lane l).advance ((((s.gang gk).lane l).pc + 8) % 2 ^ 32)) ∧
        ((∀ d, d ≤ s.now → ¬(((s.gang gk).lane l).cond = .blocked ∧ ((s.gang gk).lane l).wait = .nap d)) →
          (t.gang gk).lane l = (s.gang gk).lane l)) ∧
  ∀ (z : ZReg) (sa : SReg) (k : Fin 16) (c : Issue) (s : State),
    let i := Instr.cpermit z sa k
    let b := begun i c s
    let g := Claims.gang c b
    ready i c s = true → quiet b (key c) →
    ∃ t, exec i s = .next (settle c b (t.modTeam g.team fun m => { m with
        permits := Tbl.set m.permits k (min (Tbl.get 0 m.permits k + (g.sreg sa).toNat % 2 ^ 16) 65535) })) ∧
      Moved (at' i c s) b t g fun _ x => x

/-! Barriers (R309 to R311) and deadlock (R281). -/

/-- BARI writes a fresh object of N arrivals; BARA arrives, gives the phase it arrived in, and the last arrival starts the next phase; BARW
returns the object's word once the phase has moved on, the gang's later accesses coming after it, and otherwise blocks, at most for its cycles, after which BARW_TIMEOUT reads it a
last time. BARA on an object without INIT raises UNINIT, and past the arrivals left OVERRUN, after its effect (R309 to R311). These are of
TEAM scope in a scratch stash. DEADLOCK_DETECT traps a WAITM that can never be met, once its lanes have the results their windows are owed (R281, R314). -/
def Obligations.BarriersPhaseByPhase : Prop :=
  (∀ (u : UGuard) (sa sb sc : SReg) (c : Issue) (s : State),
    let i := Instr.bari u sa sb sc .team
    let b := begun i c s
    let g := Claims.gang c b
    let so : Nat := (g.sreg sa).toNat + (g.sreg sb).toNat
    let n := (g.sreg sc).toNat
    ready i c s = true → quiet b (key c) → scratch b g.team → b.stashCheck g.team so 16 16 = none →
    (n ≤ 4095 → ∃ v t, exec i s = .next (settle c b t) ∧
      stashStored b v g.team so (toBytes 4 (n + n * 2 ^ 12 + 2 ^ 29) ++ List.replicate 12 0) ∧ v.ctx.gangs = b.ctx.gangs ∧ v.dev = b.dev ∧
      Moved (at' i c s) v t (Claims.gang c b) fun _ x => x) ∧
    (4095 < n → exec i s = .next (raised i c s b b (issuing i c s) cBOUNDS 0 0))) ∧
  (∀ (u : UGuard) (sd sa sb sc : SReg) (n : Fin 4096) (c : Issue) (s : State),
    let i := Instr.bara u sd sa sb sc .team n
    let b := begun i c s
    let g := Claims.gang c b
    let so : Nat := (g.sreg sa).toNat + (g.sreg sb).toNat
    let k := if n.val = 0 then (g.sreg sc).toNat else n.val
    let o := BarObj.parse (b.stashBytes g.team so 16)
    let last := decide (0 < k) && k == o.pending && o.cbytes == 0
    ready i c s = true → quiet b (key c) → scratch b g.team → b.stashCheck g.team so 16 16 = none → k ≤ 4095 →
    (Tbl.get StoreSet.none g.stores (State.setKey pLSU false)).err = none →
    (o.init = true → k ≤ o.pending → ∃ v t, exec i s = .next (settle c b t) ∧
      stashStored b v g.team so ({ o with
        pending := if last then o.expect else o.pending - k, phase := if last then (o.phase + 1) % 16 else o.phase } : BarObj).bytes ∧
      v.ctx.gangs = b.ctx.gangs ∧ v.dev = b.dev ∧
      Moved (at' i c s) v t (g.setS sd (BitVec.ofNat 32 o.phase)) fun _ x => x) ∧
    (o.init = true → o.pending < k → ∃ v, exec i s = .next (raised i c s b (v.modGang (key c) fun g => g.setS sd (BitVec.ofNat 32 o.phase))
        (issuing i c s) cOVERRUN (so % 2 ^ 32 + 0xFFFFFFFF * 2 ^ 32) 0) ∧ v.ctx.gangs = b.ctx.gangs ∧
      stashStored b v g.team so ({ o with
        overrun := true, ocore := if o.overrun then o.ocore else c.core, ogang := if o.overrun then o.ogang else g.gangIdx,
        ophase := if o.overrun then o.ophase else o.phase, pending := o.expect, phase := (o.phase + 1) % 16 } : BarObj).bytes) ∧
    (o.init = false → exec i s = .next (raised i c s b b (issuing i c s) cUNINIT (so % 2 ^ 32 + 0xFFFFFFFF * 2 ^ 32) 0))) ∧
  (∀ (u : UGuard) (sd sa sb sc : SReg) (zo : ZReg) (bexp : Fin 32) (c : Issue) (s : State),
    let i := Instr.barw u sd sa sb sc .team zo bexp
    let a := at' i c s
    let b := begun i c s
    let g := Claims.gang c b
    let so : Nat := (g.sreg sa).toNat + (g.sreg sb).toNat
    let bs := b.stashBytes g.team so 16
    ready i c s = true → quiet b (key c) → scratch b g.team → b.stashCheck g.team so 16 16 = none →
    (∀ l ∈ a.exec, (g.lane l).wait = .none) →
    let o := BarObj.parse bs
    (o.phase ≠ (g.sreg sc).toNat % 16 → ∃ t, exec i s = .next (settle c b t) ∧
      Moved a ((b.orderedNow (key c)).phaseSeen (key c) so o.phase) t ((g.setS sd (BitVec.ofNat 32 o.word)).setZ zo true) fun _ x => x) ∧
    (o.phase = (g.sreg sc).toNat % 16 → ∃ t, exec i s = .next (settle c b t) ∧
      Blocked a b t (.barw (if bexp.val = 31 then none else some (s.dev.cycle + 2 ^ bexp.val))))) ∧
  (∀ (s f : State) (core slot p d : Nat) (m : Lanes) (u : UGuard) (sd sa sb sc : SReg) (zo : ZReg) (bexp : Fin 32),
    let gk := gangKey core slot
    let b := { f with cur := none }
    let g := b.gang gk
    let so : Nat := (g.sreg sa).toNat + (g.sreg sb).toNat
    let o := BarObj.parse (b.stashBytes g.team so 16)
    (s.gang gk).blockedIn (fun w => match w with | .barw (some d) => decide (d ≤ s.dev.cycle) | _ => false) = some (m, p) →
    (s.gang gk).stopped = false → m ≠ 0 →
    s.fetch gk p = (f, .instr (.barw u sd sa sb sc .team zo bexp)) → f.ctx.gangs = s.ctx.gangs → g.retry = false →
    b.available gk (.barw u sd sa sb sc .team zo bexp) = true →
    (∀ l ∈ laneList m, (g.lane l).wait = .barw (some d)) → d ≤ b.dev.cycle →
    quiet b gk → scratch b g.team → b.stashCheck g.team so 16 16 = none →
    ∃ t, exec (.barwTimeout core slot) s = .next t ∧
      Moved ⟨core, slot, m, laneList m, p, (p + 8) % 2 ^ 32, true⟩
        (if o.phase = (g.sreg sc).toNat % 16 then b else (b.orderedNow gk).phaseSeen gk so o.phase) t
        ((g.setS sd (BitVec.ofNat 32 o.word)).setZ zo (o.phase != (g.sreg sc).toNat % 16)) fun _ x => x) ∧
  ∀ (s : State) (core slot l m : Nat) (clr : Bool), let gk := gangKey core slot
    let g := s.gang gk
    (laneList g.deadlockSet).find? (fun k => (g.lane k).wait == .reconv) = none → (laneList g.deadlockSet).head? = some l →
    (g.lane l).wait = .waitm m clr → g.live = true → g.waitTrap = [] →
    let set := g.waitingAt m (g.lane l).pc
    (s.windowPending gk set = false → g.hmode = false → (s.grid (s.gridOf gk)).thandler ≠ 0 → (s.dev.pre.req = false ∨ s.dev.pre.done = true) →
      ∃ t, exec (.deadlockDetect core slot) s = .next t ∧ (t.gang gk).hmode = true ∧ (t.gang gk).t.cause = 0x0A ∧
        (t.gang gk).t.tpc = (g.lane l).pc ∧ (t.gang gk).hset = set ∧ ∀ k, k ∉ laneList set → (t.gang gk).lane k = g.lane k) ∧
    (s.windowPending gk set = true → ∃ t, exec (.deadlockDetect core slot) s = .next t ∧
      t.gang gk = { g with waitTrap := [⟨0x0A, (g.lane l).pc, ((g.lane l).pc + 4) % 2 ^ 32, 0, set, 0, s.ctx.nextId⟩] } ∧
      ∀ k, k ≠ gk → t.gang k = s.gang k)

/-! Triggers (R267 to R270), launches by device code (R301 to R304), accumulator tiles (R243, R244). -/

/-- TRIGSET whose image is read and whose checks pass arms its entry with the image, due at once where the signal stands at THRESH or above
(R268, R269). TRIGCLR gives the entry's state word, {STATE, CAUSE, FIRES}, and without PEEK disarms it (R268). TRIGGER_FIRE of a due
transfer starts the action as engine work in the requester's name, counts the fire, and with REARM 0 the entry is SPENT (R269). Where it
touches what assumptions 42 and 81 decide, it states the model's choice. -/
def Obligations.TriggersArmAndFire : Prop :=
  (∀ (u : UGuard) (sa sb sc : SReg) (c : Issue) (s f w : State) (img : List Byte) (e e' : Entry) (loc v : Nat),
    let i := Instr.trigset u sa sb sc
    let b := begun i c s
    let g := Claims.gang c b
    let gid := b.gridIdOf (key c)
    let h := (g.sreg sa).toNat
    let off : Nat := (g.sreg sb).toNat
    let k := (g.sreg sc).toNat
    let ref := numAt img 0 8
    let m := { f with eng := none }.setCtx fun x => { x with replies := Tbl.erase x.replies (gangAsk (key c)) }
    let r := { w with eng := none }.setCtx fun x => { x with replies := Tbl.erase x.replies (gangAsk (key c)) }
    ready i c s = true → b.check gid h off 64 ⟨rR, 64, false, false⟩ = .ok e → k < 1024 →
    { b with eng := some (gangAsk (key c)) }.memRead gid h off 64 ⟨rR, 64, false, false⟩ = (f, .ok img) →
    Img.malformed img = false → m.check gid (ref / 2 ^ 52) (ref % 2 ^ 52 : Nat) 8 ⟨rR, 8, false, false⟩ = .ok e' → e'.kind = 1 →
    b.passesOwn (at' i c s) h off 64 = false → m.gridIdOf (key c) = gid →
    (w = { m with eng := some (gangAsk (key c)) } ∧ w.readSignal ref = .ok (loc, v)) →
    ∃ t, exec i s = .next (settle c b (t.setTrigger k
        { image := img, state := .armed, fires := 0, cause := 0, gridId := gid, grid := r.gridOf (key c),
          gridSeq := (r.grid (r.gridOf (key c))).seq, stamp := s.ticks, due := if numAt img 8 8 ≤ v then some (r.lineWct loc) else none, look := false })) ∧
      Moved (at' i c s) r t (Claims.gang c r) fun _ x => x) ∧
  (∀ (u : UGuard) (sd sa : SReg) (peek : Bool) (c : Issue) (s : State),
    let i := Instr.trigclr u sd sa peek
    let b := begun i c s
    let k := ((Claims.gang c b).sreg sa).toNat
    let x := b.trigger k
    let state := match x.state with | .idle => 0 | .armed => 1 | .spent => 2 | .faulted => 3
    ready i c s = true → k < 1024 →
    ∃ t, exec i s = .next (settle c b (if peek then t else t.setTrigger k { x with state := .idle, due := none, look := false })) ∧
      Moved (at' i c s) b t ((Claims.gang c b).setS sd (BitVec.ofNat 32 (min x.fires 65535 + x.cause % 128 * 2 ^ 16 + state * 2 ^ 24)))
        fun _ x => x) ∧
  ∀ (s : State) (k : Fin 1024) (x : Trigger) (d op10 : Nat) (job : Job), s.trigger k = x → x.state = .armed → x.due = some d → d ≤ s.now →
    (∀ y ∈ s.ctx.triggers, y.1 < k.val → y.2.due ≠ some d) → Img.action x.image ≠ 2 → s.triggerJob x = .ok (op10, job) →
    (∃ op src dst n ch sig left adds, job = .xfer op src dst n ch sig left adds ∧ n ≠ 0) → Img.rearm x.image = 0 →
    ∃ t w, exec (.triggerFire k) s = .next t ∧ t.trigger k = { x with state := .spent, fires := min (x.fires + 1) 65535, due := none } ∧
      t.work? s.ctx.nextId = some w ∧ w.job = job ∧ w.op10 = op10 ∧ w.trigger = some (k.val, x.stamp, x.gridSeq) ∧ w.gridId = x.gridId ∧ w.orphan = true ∧
      t.ctx.gangs = s.ctx.gangs ∧ t.dev = s.dev

/-- SPAWN checks its record and TIMEAT the record it reads as an LSU load, with the time of its pair as RELEASE, CREF by the issuing gang's
grid id; the child's DEPTH is one more than the grid's, and 7 traps; the lanes then block until the fence of the launch is over and the
record has entered (R301 to R303), when SPAWN_ENTER gives it the lowest free grid-table entry and lets them go on. IQFILL appends to the
core's queue, as far as it has room, consecutive numbers or the words of the stash, and gives how many (R304). Where it touches what
assumption 46 decides, it states the model's choice. -/
def Obligations.ChildGridsAndItems : Prop :=
  let child := fun (r r' : List Byte) (d : Nat) => r'.length = r.length ∧ Rec.depth r' = d + 1 ∧ ∀ k, k ≠ 0x16 → r'[k]? = r[k]?
  let blocks := fun (i : Instr) (c : Issue) (s u : State) (w : Wait) (r : List Byte) =>
    ∃ (v t : State) (r' : List Byte), exec i s = .next (settle c (begun i c s) t) ∧ child r r' (Rec.depth (u.recordOf (key c))) ∧
      v = { u with ctx := { u.ctx with accs := v.ctx.accs, custody := v.ctx.custody, nextId := v.ctx.nextId } } ∧
      t = { v with ctx := { v.ctx with gangs := t.ctx.gangs, holds := t.ctx.holds, nextId := v.ctx.nextId + 1 } } ∧
      Tbl.find? t.ctx.holds v.ctx.nextId = some ⟨.spawn r', key c, issuing i c s, c.pc, [], none⟩ ∧
      (∀ k, k ≠ key c → t.gang k = u.gang k) ∧ t.gang (key c) = { u.gang (key c) with lanes := (t.gang (key c)).lanes } ∧
      ∀ l, (t.gang (key c)).lane l = if l ∈ laneList (issuing i c s) then
        { (u.gang (key c)).lane l with hold := some v.ctx.nextId, cond := .blocked, wait := w } else (u.gang (key c)).lane l
  (∀ (u : UGuard) (sa : SReg) (c : Issue) (s : State),
    let i := Instr.spawn u sa
    let b := begun i c s
    let r := (List.range 16).flatMap fun m => toBytes 4 ((Claims.gang c b).sreg (sa.val + m)).toNat
    let d := Rec.depth (b.recordOf (key c))
    ready i c s = true →
    (d < 7 → b.recordCheck (b.gridIdOf (key c)) (Rec.withDepth r (d + 1)) false = none → blocks i c s b .spawn r) ∧
    (d = 7 → exec i s = .next (raised i c s b b (issuing i c s) cDEPTH 0 0))) ∧
  (∀ (u : UGuard) (sa sb : SReg) (c : Issue) (s f : State) (r : List Byte),
    let i := Instr.timeat u sa sb
    let b := begun i c s
    let g := Claims.gang c b
    let ref := g.spair sa
    let h := ref / 2 ^ 52
    let off := ref % 2 ^ 52
    let e := b.entry (h % 4096)
    let away := h < 4096 ∧ e.kind = 5 ∧ b.remoteCopy c.core 0 e.data off 64 = none
    let q := { b with eng := some (gangAsk (key c)) }
    let x := { (at' i c s).access b .sld with handle := h, pol := .none, reqs := [⟨64, off, 0, 0⟩] }
    let v := { f with eng := none }.setCtx fun x => { x with replies := Tbl.erase x.replies (gangAsk (key c)) }
    let r' := patch r 0x38 (toBytes 8 (g.spair sb))
    let d := Rec.depth (v.recordOf (key c))
    ready i c s = true → r.length = 64 →
    (away ∧ q.memRead (b.gridIdOf (key c)) h off 64 ⟨rR, 8, false, false⟩ = (f, .ok r) ∨
      ¬away ∧ q.serveRange b.ctx.nextId x ⟨64, off, 0, 0⟩ 64 8 = (f, .data r)) →
    b.passesOwn (at' i c s) h off 64 = false →
    (d < 7 → v.recordCheck (v.gridIdOf (key c)) (Rec.withDepth r' (d + 1)) false = none → blocks i c s v .timeat r') ∧
    (d = 7 → exec i s = .next (raised i c s b v (issuing i c s) cDEPTH 0 0))) ∧
  (∀ (s : State) (id k : Nat) (h : Hold) (r : List Byte),
    Tbl.find? s.ctx.holds id = some h → h.kind = .spawn r → (∃ l, l < 64 ∧ ((s.gang h.gang).lane l).hold = some id) →
    quiet s h.gang → (∀ k, (Tbl.get StoreSet.none (s.gang h.gang).stores k).wct ≤ s.now) →
    (∀ k, (Tbl.get StoreSet.none (s.gang h.gang).stores k).err = none) → (∀ y ∈ s.ctx.custody, (h.gang, s.gridOf h.gang) ∉ y.2.users) →
    Rec.release r ≤ s.now → 0 < s.openEntries → k < 256 → Tbl.find? s.ctx.grids k = none → (∀ j, j < k → (Tbl.find? s.ctx.grids j).isSome = true) →
    ∃ t, exec (.spawnEnter id) s = .next t ∧ Released id h s t ∧ t.dev = s.dev ∧
      (∀ j, j ≠ k → Tbl.find? t.ctx.grids j = Tbl.find? s.ctx.grids j) ∧
      t.grid k = { Grid.absent with
        record := r, unended := Rec.teams r, thandler := Rec.hoff r, spawnCore := some (h.gang / 64), crefId := s.gridIdOf h.gang,
        seq := s.ctx.seq + 1 }) ∧
  ∀ (u : UGuard) (sd sa sb : SReg) (sq : Bool) (c : Issue) (s : State),
    let i := Instr.iqfill u sd sa sb sq
    let b := begun i c s
    let g := Claims.gang c b
    let first := (g.sreg sa).toNat
    let n := (g.sreg sb).toNat
    let items := (b.core c.core).items
    let m := min n (1024 - items.length)
    let item := fun (k : Nat) => BitVec.ofNat 32 (if sq then first + k else ofBytes (b.stashBytes g.team (first + 4 * k) 4))
    ready i c s = true →
    (sq = false → quiet b (key c) ∧ scratch b g.team ∧ b.stashCheck g.team first (4 * n) 4 = none ∧
      Tbl.find? b.ctx.replies (gangAsk (key c)) = none ∧ b.eng = none) →
    ∃ t, exec i s = .next (settle c b t) ∧
      t.core c.core = { b.core c.core with items := items ++ (List.range m).map item } ∧
      (∀ k, k ≠ c.core → t.core k = b.core k) ∧ (∀ k, k ≠ key c → t.gang k = b.gang k) ∧ t.dev = b.dev ∧
      t.gang (key c) = { g.setS sd (BitVec.ofNat 32 m) with lanes := (t.gang (key c)).lanes } ∧
      ∀ l, (t.gang (key c)).lane l = laneAfter (at' i c s) (fun _ x => x) l (g.lane l)

/-- CZERO makes its tile and its status word zero; CSTAT gives the status word and with CLR clears its flags and keeps its step count;
neither runs while an earlier job of the team on the tile is under way (R229, R243, R244). The words of the Loom drop another gang's
HOLD latch and hand over their jobs: QSCALE, QSPLIT, QDEQ, CLD and CST after their checks (R239, R243); MMB and MOUT with their half of
a staging slot, free or open for the same step of the team, marked issued (R228, R231, R234); MJOIN with the open slot of its team
joining (R236); MLOOP with its slots reserved (R237). -/
def Obligations.LoomWordsAndTiles : Prop :=
  ((∀ (u : UGuard) (ct : CReg) (c : Issue) (s : State),
    let i := Instr.czero u ct
    let b := begun i c s
    let team := (Claims.gang c b).team
    ready i c s = true → b.tileBusy b.ctx.nextId team ct = false →
    ∃ t, exec i s = .next (settle c b t) ∧ t.tile c.core (b.physTile team ct) = ⟨[], 0⟩ ∧
      (∀ k, k ≠ b.physTile team ct → t.tile c.core k = b.tile c.core k) ∧ (∀ k, k ≠ c.core → t.core k = b.core k) ∧
      { t.core c.core with acc := [], latch := none } = { b.core c.core with acc := [], latch := none } ∧
      (∀ k, k ≠ key c → t.gang k = b.gang k) ∧ t.dev = b.dev ∧
      t.gang (key c) = { Claims.gang c b with lanes := (t.gang (key c)).lanes } ∧
      ∀ l, (t.gang (key c)).lane l = laneAfter (at' i c s) (fun _ x => x) l ((Claims.gang c b).lane l)) ∧
  ∀ (u : UGuard) (sd : SReg) (ct : CReg) (clr : Bool) (c : Issue) (s : State),
    let i := Instr.cstat u sd ct clr
    let b := begun i c s
    let team := (Claims.gang c b).team
    let x := b.tile c.core (b.physTile team ct)
    ready i c s = true → b.tileBusy b.ctx.nextId team ct = false →
    ∃ t, exec i s = .next (settle c b t) ∧
      t.tile c.core (b.physTile team ct) = { x with status := if clr then x.status / 2 ^ 16 * 2 ^ 16 else x.status } ∧
      (∀ k, k ≠ b.physTile team ct → t.tile c.core k = b.tile c.core k) ∧ (∀ k, k ≠ c.core → t.core k = b.core k) ∧
      (∀ k, k ≠ key c → t.gang k = b.gang k) ∧ t.dev = b.dev ∧
      t.gang (key c) = { (Claims.gang c b).setS sd (BitVec.ofNat 32 x.status) with lanes := (t.gang (key c)).lanes } ∧
      ∀ l, (t.gang (key c)).lane l = laneAfter (at' i c s) (fun _ x => x) l ((Claims.gang c b).lane l)) ∧
  (let freed := fun (b : State) (c : Issue) => b.modCore c.core fun x => { x with latch := x.latch.filter fun l => l.gang == key c }
  (∀ (i : Instr) (c : Issue) (s : State), let b := begun i c s
    let g := Claims.gang c b
    let r := fun (k : Nat) => (g.sreg k).toNat
    let gid := b.gridIdOf (key c)
    ready i c s = true →
    (∀ u sd sa sb sc bf, i = .qscale u sd sa sb sc bf →
      b.quantCheck gid g.team (r sa) (r sb) (r (sb.val + 1)) (if bf then 2 else 4) (some (r sc)) = none →
      ∃ t, exec i s = .next (settle c b t) ∧
        Begun (at' i c s) (freed b c) t sd 0x050 (.qscale (r sa) (r (sa.val + 1)) (r sb) (r (sb.val + 1)) (r sc) bf)) ∧
    (∀ u sd sa sb bf, i = .qsplit u sd sa sb bf →
      b.quantCheck gid g.team (r sa) (r sb) (r (sb.val + 1)) (if bf then 2 else 4) none = none →
      ∃ t, exec i s = .next (settle c b t) ∧
        Begun (at' i c s) (freed b c) t sd 0x051 (.qsplit (r sa) (r (sa.val + 1)) (r sb) (r (sb.val + 1)) bf [])) ∧
    (∀ u sd sa sb pq bf, i = .qdeq u sd sa sb pq bf →
      b.quantCheck gid g.team (r sa) (r sb) (r (sb.val + 1)) (if bf then 2 else 4) none = none →
      ∃ t, exec i s = .next (settle c b t) ∧
        Begun (at' i c s) (freed b c) t sd 0x052 (.qdeq (r sa) (r (sa.val + 1)) (r sb) (r (sb.val + 1)) pq bf)) ∧
    (∀ u sd sa sb ct bf, i = .cld u sd sa sb ct bf → b.accCheck g.team (r sa) (r sb) (if bf then 2 else 4) = none →
      ∃ t, exec i s = .next (settle c b t) ∧ Begun (at' i c s) (freed b c) t sd 0x058 (.cld (r sa) (r sb) ct bf)) ∧
    (∀ u sd sa sb ct bf clr, i = .cst u sd sa sb ct bf clr → b.accCheck g.team (r sa) (r sb) (if bf then 2 else 4) = none →
      ∃ t, exec i s = .next (settle c b t) ∧ Begun (at' i c s) (freed b c) t sd 0x059 (.cst (r sa) (r sb) ct bf clr))) ∧
  (∀ (dense : Bool) (u : UGuard) (sd sa sb : SReg) (k : Fin 4) (hold table : Bool) (c : Issue) (s : State),
    let i := if dense then Instr.mmb u sd sa sb k hold table else Instr.mout u sd sa sb k table
    let b := begun i c s
    let g := Claims.gang c b
    let id : StepId := ⟨(List.range 8).map fun n => g.sreg (sa.val + n), if table then some ((List.range 4).map fun n => g.sreg (sb.val + n)) else none⟩
    let x := b.slot c.core k
    let mark := fun (y : Slot) => if dense then { y with mmbIssued := true } else { y with moutIssued := true }
    ready i c s = true → b.stepCheck (b.gridIdOf (key c)) id.block = none → x.reserved = none →
    (dense = true ∨ b.gleanerFull c.core = false) →
    (x.state = .free ∨ x.state ≠ .free ∧ x.owner = g.team ∧ x.step = id ∧ (if dense then x.mmbIssued else x.moutIssued) = false) →
    ∃ t v, exec i s = .next (settle c b t) ∧
      Begun (at' i c s) v t sd (if dense then 0x053 else 0x054) (if dense then .mmb id k hold else .mout id k) ∧
      v = { b with ctx := { b.ctx with cores := v.ctx.cores } } ∧ (∀ n, n ≠ c.core → v.core n = b.core n) ∧
      v.slot c.core k = mark (if x.state = .free then { Slot.free with state := .opened, owner := g.team, step := id } else x) ∧
      (∀ n, n ≠ k.val → v.slot c.core n = b.slot c.core n) ∧
      (∀ l, (v.core c.core).latch = some l → l.gang = key c ∧ (dense = true → l.fields = State.holdFields id.block ∨ hold = true)) ∧
      { v.core c.core with slots := [], latch := none } = { b.core c.core with slots := [], latch := none }) ∧
  (∀ (u : UGuard) (sd : SReg) (k : Fin 4) (ct : CReg) (c : Issue) (s : State),
    let i := Instr.mjoin u sd k ct
    let b := begun i c s
    let x := b.slot c.core k
    ready i c s = true → x.reserved = none →
    (x.state = .opened → x.owner = (Claims.gang c b).team → ∃ t, exec i s = .next (settle c b t) ∧
      Begun (at' i c s) ((freed b c).modCore c.core fun y => { y with slots := Tbl.set y.slots k { x with state := .joining } }) t sd 0x055 (.mjoin k ct)) ∧
    (x.state = .free → exec i s = .next (raised i c s b b (issuing i c s) cMALFORMED 0 1))) ∧
  ∀ (u : UGuard) (sd sa sb sc : SReg) (ct : CReg) (s0 : Fin 4) (two table : Bool) (c : Issue) (s : State),
    let i := Instr.mloop u sd sa sb sc ct s0 two table
    let b := begun i c s
    let g := Claims.gang c b
    let id : StepId := ⟨(List.range 8).map fun n => g.sreg (sa.val + n), if table then some ((List.range 4).map fun n => g.sreg (sc.val + n)) else none⟩
    let lw := (List.range 4).map fun n => g.sreg (sb.val + n)
    let mine := fun (n : Nat) => n = s0.val ∨ two = true ∧ n = s0.val ^^^ 1
    ready i c s = true → b.loopCheck (b.gridIdOf (key c)) g.team id.block (State.parseLoop lw) = none →
    (∀ n, mine n → (b.slot c.core n).reserved = none ∧ (b.slot c.core n).state = .free) →
    ∃ t v, exec i s = .next (settle c b t) ∧ Begun (at' i c s) v t sd 0x056 (.mloop id lw ct s0 two 0 []) ∧
      v = { b with ctx := { b.ctx with cores := v.ctx.cores } } ∧ (∀ n, n ≠ c.core → v.core n = b.core n) ∧
      (∀ n, mine n → v.slot c.core n = { Slot.free with reserved := some g.team }) ∧ (∀ n, ¬mine n → v.slot c.core n = b.slot c.core n) ∧
      { v.core c.core with slots := [], latch := none } = { b.core c.core with slots := [], latch := none })

/-! Engines (R71, R184 to R203, R226 to R264): what each asynchronous word does at issue. -/

/-- CPY, GATH, SCAT, SINTER, MDEC, MILLLD, MILLBIND and MILLSTAT, whose checks pass and whose unit has room, hand their engine the job their
registers describe, and their token is pending; a check that fails traps with nothing begun (R111, R115, R116, R187, R195 to R197,
R201). PUT, GET and PUTRED whose checks pass hand the fabric engine a transfer in chunks of 4 KiB times a power of 4; one of no bytes
ends at once, with cause and count 0 (R253 to R255). MCST and a PUTRED to a circle hand it the circle's record, or, where the circle is
not ACTIVE, end with CIRCLE_BROKEN (R263, R264). A check that fails traps with nothing begun (R254). Where it touches what assumptions
15 and 40 decide, it states the model's choice. -/
def Obligations.EngineAndFabricWordsStart : Prop :=
  (let checked := fun (i : Instr) (c : Issue) (s : State) (check : Option Err) (ok : Prop) =>
    (check = none → ok) ∧
    ∀ e, check = some e → exec i s = .next (raised i c s (begun i c s) (begun i c s) (issuing i c s) e.cause e.addr e.info)
  let whole := fun (s : State) (c : Issue) (h off n rights align : Nat) => match s.check (s.gridIdOf (key c)) h off n ⟨rights, align, false, false⟩ with
    | .error x => some (errAt x h off)
    | .ok _ => none
  (∀ (u : UGuard) (sd sa : SReg) (c : Issue) (s : State), let i := Instr.cpy u sd sa
    let b := begun i c s
    let d := (List.range 16).map fun k => (Claims.gang c b).sreg (sa.val + k)
    ready i c s = true → checked i c s (b.walkCheck (b.gridIdOf (key c)) (Claims.gang c b).team (parseWalk d))
      (b.countWorks (fun w => w.op10 == 0x040 && w.core / 8 == c.core / 8) < 16 → Starts i c s sd 0x040 (.carter d 0 [] 0 false))) ∧
  (∀ (u : UGuard) (sd sa sb sc : SReg) (wd : Width) (c : Issue) (s : State), let i := Instr.gath u sd sa sb sc wd
    let b := begun i c s
    let r := fun (k : Nat) => ((Claims.gang c b).sreg k).toNat
    ready i c s = true → checked i c s (b.gatherCheck (Claims.gang c b).team (r sb) (r (sb.val + 1)) (r sc) wd.bytes)
      (b.gleanerFull c.core = false → Starts i c s sd 0x041 (.gath (r sa) (r (sa.val + 1)) (r sb) (r (sb.val + 1)) (r sc) wd 0 0))) ∧
  (∀ (u : UGuard) (sd sa sb sc : SReg) (wd : Width) (op : ScatOp) (c : Issue) (s : State), let i := Instr.scat u sd sa sb sc wd op
    let b := begun i c s
    let r := fun (k : Nat) => ((Claims.gang c b).sreg k).toNat
    ready i c s = true → checked i c s (b.gatherCheck (Claims.gang c b).team (r sb) (r (sb.val + 1)) (r sc) wd.bytes)
      (b.gleanerFull c.core = false → Starts i c s sd 0x042 (.scat (r sa) (r (sa.val + 1)) (r sb) (r (sb.val + 1)) (r sc) wd op 0 0))) ∧
  (∀ (u : UGuard) (sd sa sb sc : SReg) (emit : Bool) (c : Issue) (s : State), let i := Instr.sinter u sd sa sb sc emit
    let b := begun i c s
    let r := fun (k : Nat) => ((Claims.gang c b).sreg k).toNat
    ready i c s = true → checked i c s (b.sinterCheck (b.gridIdOf (key c)) (Claims.gang c b).team (r sa) (r (sa.val + 2)) (r (sa.val + 3)) (r sb)
      (r (sb.val + 1)) (r sc) (r (sc.val + 1)) emit)
      (b.gleanerFull c.core = false → Starts i c s sd 0x043 (.sinter (r sa) (r (sa.val + 1)) (r (sa.val + 2)) (r (sa.val + 3)) (r sb)
        (r (sb.val + 1)) (r sc) (r (sc.val + 1)) emit 0 0 0))) ∧
  (∀ (u : UGuard) (sd sa sb sc : SReg) (n : Fin 8) (any : Bool) (c : Issue) (s f : State),
    let i := Instr.mdec u sd sa sb sc n any
    let b := begun i c s
    let r := fun (k : Nat) => ((Claims.gang c b).sreg k).toNat
    let v := { f with eng := none }.setCtx fun x => { x with replies := Tbl.erase x.replies (gangAsk (key c)) }
    let check := { b with eng := some (gangAsk (key c)) }.mdecCheck (b.gridIdOf (key c)) (r sa) (r sb) (r sc) (r (sc.val + 1))
    ready i c s = true →
    (∀ e, check.2 = .fail e → exec i s = .next (raised i c s b b (issuing i c s) e.cause e.addr e.info)) ∧
    ∀ d, check = (f, .ok d) → (if any then (∃ k, k < 8 ∧ b.decoderBusy k = false) else b.decoderBusy n = false) →
    ∃ k t, k < 8 ∧ b.decoderBusy k = false ∧ (any = false → k = n.val) ∧ (any = true → ∀ j, j < k → b.decoderBusy j = true) ∧
      exec i s = .next (settle c b t) ∧ Begun (at' i c s) v t sd 0x044 (.mdec (r sa) (r sb) (r sc) (r (sc.val + 1)) k [] 0)) ∧
  (∀ (u : UGuard) (sd sa sb : SReg) (slot : Fin 8) (gen : Byte) (c : Issue) (s : State), let i := Instr.millld u sd sa sb slot gen
    let b := begun i c s
    let h := ((Claims.gang c b).sreg sa).toNat
    let off : Nat := ((Claims.gang c b).sreg sb).toNat
    ready i c s = true → checked i c s (whole b c h off 1280 rR 128) (Starts i c s sd 0x045 (.millld h off slot gen.toNat))) ∧
  (∀ (u : UGuard) (sd sa : SReg) (slot : Fin 8) (wr unbind : Bool) (c : Issue) (s : State), let i := Instr.millbind u sd sa slot wr unbind
    let b := begun i c s
    let h := ((Claims.gang c b).sreg sa).toNat
    ready i c s = true → checked i c s (b.ownCheck (b.gridIdOf (key c)) h) (Starts i c s sd 0x046 (.millbind h slot wr unbind))) ∧
  ∀ (u : UGuard) (sd sa sb : SReg) (slot : Fin 8) (clr : Bool) (c : Issue) (s : State), let i := Instr.millstat u sd sa sb slot clr
    let b := begun i c s
    let h := ((Claims.gang c b).sreg sa).toNat
    let off : Nat := ((Claims.gang c b).sreg sb).toNat
    ready i c s = true → checked i c s (whole b c h off 64 rW 64) (Starts i c s sd 0x047 (.millstat h off slot clr))) ∧
  (let starts := fun (i : Instr) (c : Issue) (s : State) (sd : SReg) (op10 n : Nat) (job : Job) =>
    let b := begun i c s
    (n ≠ 0 → Starts i c s sd op10 job) ∧
    (n = 0 → (Claims.gang c b).live = true → (∀ y ∈ b.ctx.accs, y.2.work ≠ some b.ctx.nextId) → ∃ t, exec i s = .next (settle c b t) ∧
      TokenWritten b.ctx.nextId ((at' i c s).work b sd op10 job) 0 0 t)
  let chunked := fun (n : Nat) (chunk : Fin 4) =>
    let c := 4096 * 4 ^ chunk.val
    (c, (List.range ((n + c - 1) / c)).map fun k => c * k)
  let checked := fun (i : Instr) (c : Issue) (s : State) (check : Option Err) (ok : Prop) =>
    (check = none → ok) ∧
    ∀ e, check = some e → exec i s = .next (raised i c s (begun i c s) (begun i c s) (issuing i c s) e.cause e.addr e.info)
  (∀ (u : UGuard) (sd sa sb sc : SReg) (ss sig : Bool) (chunk : Fin 4) (c : Issue) (s : State), let i := Instr.put u sd sa sb sc ss sig chunk
    let b := begun i c s
    let g := Claims.gang c b
    let r := fun (k : Nat) => (g.sreg (sa.val + k)).toNat
    let n := (g.sreg sb).toNat
    let gid := b.gridIdOf (key c)
    let src : Side := if ss then ⟨true, 0, r 1⟩ else ⟨false, r 0, r 1⟩
    let sp := if sig then some ((g.sreg sc).toNat, (g.sreg (sc.val + 1)).toNat) else none
    ready i c s = true → checked i c s ((((b.srcCheck gid g.team src n false).or (b.dstCheck gid g.team ⟨false, r 2, r 3⟩ n false)).or
        (countCheck n 4 false)).or (sp.bind fun x => b.signalCheck gid x.1 x.2))
      (starts i c s sd 0x060 n (.xfer .put src ⟨false, r 2, r 3⟩ n (chunked n chunk).1 sp (chunked n chunk).2 []))) ∧
  (∀ (u : UGuard) (sd sa sb sc : SReg) (ds sig : Bool) (chunk : Fin 4) (c : Issue) (s : State), let i := Instr.get u sd sa sb sc ds sig chunk
    let b := begun i c s
    let g := Claims.gang c b
    let r := fun (k : Nat) => (g.sreg (sa.val + k)).toNat
    let n := (g.sreg sb).toNat
    let gid := b.gridIdOf (key c)
    let dst : Side := if ds then ⟨true, 0, r 3⟩ else ⟨false, r 2, r 3⟩
    let sp := if sig then some ((g.sreg sc).toNat, (g.sreg (sc.val + 1)).toNat) else none
    ready i c s = true → checked i c s ((((b.srcCheck gid g.team ⟨false, r 0, r 1⟩ n true).or (b.dstCheck gid g.team dst n true)).or
        (countCheck n 4 false)).or (sp.bind fun x => b.signalCheck gid x.1 x.2))
      (starts i c s sd 0x061 n (.xfer .get ⟨false, r 0, r 1⟩ dst n (chunked n chunk).1 sp (chunked n chunk).2 []))) ∧
  (∀ (u : UGuard) (sd sa sb sc : SReg) (op : Aop) (d sig : Bool) (chunk : Fin 4) (ss circ : Bool) (circle : Fin 64) (c : Issue) (s : State),
    let i := Instr.putred u sd sa sb sc op d sig chunk ss circ circle
    let b := begun i c s
    let g := Claims.gang c b
    let r := fun (k : Nat) => (g.sreg (sa.val + k)).toNat
    let n := (g.sreg sb).toNat
    let gid := b.gridIdOf (key c)
    let el := if d then 8 else 4
    let src : Side := if ss then ⟨true, 0, r 1⟩ else ⟨false, r 0, r 1⟩
    let sp := if sig then some ((g.sreg sc).toNat, (g.sreg (sc.val + 1)).toNat) else none
    let job := Job.circle ⟨BitVec.ofNat 64 (bref (r 2) (r 3)), [], some (op, d), 0, b.dev.host.devnum, 0⟩ circle src n false none
    ready i c s = true → checked i c s ((((b.srcCheck gid g.team src n false).or (b.redCheck gid ⟨false, r 2, r 3⟩ n el op circ)).or
        (countCheck n el circ)).or (sp.bind fun x => b.signalCheck gid x.1 x.2))
      ((circ = false → starts i c s sd 0x062 n (.xfer (.red op d) src ⟨false, r 2, r 3⟩ n (chunked n chunk).1 sp (chunked n chunk).2 [])) ∧
        (circ = true → (b.circle circle).state = .active → Starts i c s sd 0x062 job) ∧
        (circ = true → (b.circle circle).state ≠ .active → g.live = true → (∀ y ∈ b.ctx.accs, y.2.work ≠ some b.ctx.nextId) →
          ∃ t, exec i s = .next (settle c b t) ∧ TokenWritten b.ctx.nextId ((at' i c s).work b sd 0x062 job) cBROKEN 0 t))) ∧
  ∀ (u : UGuard) (sd sa sb : SReg) (circle : Fin 64) (c : Issue) (s : State), let i := Instr.mcst u sd sa sb circle
    let b := begun i c s
    let g := Claims.gang c b
    let h := (g.sreg sa).toNat
    let off : Nat := (g.sreg (sa.val + 1)).toNat
    let so : Nat := (g.sreg sb).toNat
    let n := (g.sreg (sb.val + 1)).toNat
    let job := Job.circle ⟨BitVec.ofNat 64 (bref h off), [], none, 0, b.dev.host.devnum, 0⟩ circle ⟨true, 0, so⟩ n false none
    let target : Option Err := match b.check (b.gridIdOf (key c)) h off n ⟨rW ||| rMCST, 4, false, false⟩ with
      | .error x => some (errAt x h off)
      | .ok e => if e.kind = 1 then none else some (errAt cHANDLE h off)
    let count : Option Err := if n % 4 = 0 ∧ 4 ≤ n ∧ n ≤ 4096 then none else some ⟨cBOUNDS, 0, 0⟩
    ready i c s = true → checked i c s ((target.or (b.stashCheck g.team so n 4)).or count)
    (((b.circle circle).state = .active → Starts i c s sd 0x063 job) ∧
    ((b.circle circle).state ≠ .active → g.live = true → (∀ y ∈ b.ctx.accs, y.2.work ≠ some b.ctx.nextId) →
      ∃ t, exec i s = .next (settle c b t) ∧ TokenWritten b.ctx.nextId ((at' i c s).work b sd 0x063 job) cBROKEN 0 t)))

/-! Jobs of engines (R71, R184 to R203, R226 to R248). -/

/-- GATH_COMPLETE goes on from its position by one element or more: it places in ascending order each element that an index names, and zeros
where an index is all ones, and counts the former; with the last the job ends (R195, R198). SCAT_COMPLETE writes the bytes of an element
at the place its index names, with a WCT past every lease (R196); a reducing SCAT sends the reductions of a stretch of its elements, in
order, and after the last its token waits for them. SINTER_COMPLETE of two strictly ascending streams goes on by a comparison or more:
it counts their common words above the bound and with EMIT places them in order up to its capacity; at the end of a stream it places the
count and ends (R197). CARTER_TILE_START takes a permit of every destination team, where the walk asks for permits, and takes the walk's
next tile in hand (R188 to R190). CARTER_TILE_END of a tile of a walk from memory moves a part of what is left of it, at one event or
several as the Carter's order is free (R13, R188): it places the part's rows in its team's stash in order; with its last part the tile
leaves the Carter's hand, and with the last tile the token is written with the walk's cause (R188, R193). Of the bytes a tile has left,
the part and what it leaves hold each exactly. MDEC_COMPLETE takes a unit up once its descriptor, its bytes and its buffers pass the
engine's checks, with the reference store as it stands and the units since the session's reset; it then writes the rows of the picture
in order, one or more at a time; and with no row left it writes the reference store, the session's word, status and private bytes, the
session has one unit more, and the token follows (R200 to R203). What a decoder makes of a unit is free (Config.decodeStatus and its
like). Where it touches what assumptions 8, 9, 15, 17, 22, 26, 62 and 91 decide, it states the model's choice. -/
def Obligations.GleanerCarterAndMediaJobs : Prop :=
  (let null := 0xFFFFFFFF
  let index := fun (s : State) (w : Work) (idx i : Nat) => ofBytes (s.stashBytes w.team (idx + 4 * i) 4)
  let from' := fun (i m : Nat) => (List.range m).drop i
  (∀ (s : State) (id : Nat) (w : Work) (h base idx n data i cnt : Nat) (wd : Width) (bs : Nat → List Byte),
    let x := index s w idx
    let e := wd.bytes
    let named := fun (m : Nat) => cnt + ((from' i m).filter fun k => x k != null).length
    Working s id w → w.job = .gath h base idx n data wd i cnt → i ≤ n → scratch s w.team → Stands s w w.team idx (4 * n) →
    (idx + 4 * n ≤ data ∨ data + n * e ≤ idx) → (∀ k, i ≤ k → k < n → x k ≠ null → ReadsAs s id w.gridId h (base + x k * e) e ⟨rR, State.elemAlign e, false, false⟩ (bs k)) →
    ∃ t m, exec (.gathComplete id) s = .next t ∧ (i < n → i < m) ∧ m ≤ n ∧ sameDev s t ∧
      Pooled s t w.team ((from' i m).map fun k => (data + k * e, if x k = null then toBytes e 0 else bs k)) ∧
      (m = n → Ended id w 0 (named n) s t) ∧
      (m < n → t.ctx.gangs = s.ctx.gangs ∧ t.work? id = some { w with job := .gath h base idx n data wd m (named m) })) ∧
  (∀ (s : State) (id : Nat) (w : Work) (h base idx data : Nat) (wd : Width) (e : Entry) (p : Piece),
    let b := { s with eng := some id }
    let x := index s w idx 0
    let off := base + x * wd.bytes
    Working s id w → w.job = .scat h base idx 1 data wd .st 0 0 → scratch s w.team → Stands s w w.team idx 4 → Stands s w w.team data wd.bytes →
    id ∉ s.ctx.redHold → x ≠ null →
    b.check w.gridId h off wd.bytes ⟨rW, State.elemAlign wd.bytes, false, false⟩ = .ok e → (e.kind = 1 ∨ e.kind = 4 ∨ e.kind = 7) →
    b.milled h true = false → Placed b id h off wd.bytes e p → Tbl.mem s.ctx.custody (p.loc / 128) = false →
    ∃ t, exec (.scatComplete id) s = .next t ∧ Ended id w 0 1 s t ∧ Stored s t p.loc (s.stashBytes w.team data wd.bytes) ∧
      t.ctx.cores = s.ctx.cores) ∧
  (∀ (s : State) (id : Nat) (w : Work) (h base idx n data i cnt : Nat) (wd : Width) (op : ScatOp),
    let b := { s with eng := some id }
    let x := index s w idx
    let e := wd.bytes
    let named := fun (m : Nat) => (from' i m).filter fun k => x k != null
    Working s id w → w.job = .scat h base idx n data wd op i cnt → op ≠ .st → i < n → scratch s w.team → Stands s w w.team idx (4 * n) →
    Stands s w w.team data (n * e) →
    (∀ k ∈ named n, b.atomCheck w.gridId h ((base + x k * e : Nat) : Int) e (State.ScatOp.aop op) = none ∧
      ((b.entry (h % 4096)).kind = 5 ∨ ∃ p, b.place (b.entry (h % 4096)) h (base + x k * e) e = .ok p)) →
    ∃ t m, exec (.scatComplete id) s = .next t ∧ i < m ∧ m ≤ n ∧ t.dev = s.dev ∧ t.ctx.cores = s.ctx.cores ∧
      (∀ k, k ≠ s.ctx.nextId → t.access? k = s.access? k) ∧
      (m < n → t.ctx.gangs = s.ctx.gangs ∧ t.work? id = some { w with job := .scat h base idx n data wd op m (cnt + (named m).length) }) ∧
      (m = n → named n = [] → Ended id w 0 (min cnt (2 ^ 24 - 1)) s t) ∧
      (named m ≠ [] → t.ctx.gangs = s.ctx.gangs ∧
        (m = n → t.work? id = some { w with fin := some (0, min (cnt + (named n).length) (2 ^ 24 - 1), 0) }) ∧
        ∃ y, t.access? s.ctx.nextId = some y ∧ y.kind = .red ∧ y.handle = h ∧ y.wd = wd ∧ y.aop = State.ScatOp.aop op ∧ y.scope = .device ∧
          y.work = some id ∧ y.reqs = (named m).map fun k => ⟨k, base + x k * e, ofBytes (s.stashBytes w.team (data + k * e) e), 0⟩)) ∧
  ∀ (s : State) (id : Nat) (w : Work) (h bound out cap offA offB a b : Nat) (emit : Bool) (xs ys : List Nat),
    let common := fun (k : Nat) => (xs.take k).filter fun x => decide (bound < x) && ys.contains x
    let even := fun (a b : Nat) => ∀ x, x ∈ xs → x ∈ ys → (x ∈ xs.take a ↔ x ∈ ys.take b)
    let words := fun (k : Nat) => if emit then
        ((((common k).take cap).zipIdx.drop (common a).length).map fun (y : Nat × Nat) => (out + 8 + 4 * y.2, toBytes 4 y.1)) else []
    let reads := fun (off : Nat) (zs : List Nat) => ∀ i x, zs[i]? = some x →
      x < 2 ^ 32 ∧ ReadsAs s id w.gridId h (off + 4 * i) 4 ⟨rR, 4, false, false⟩ (toBytes 4 x)
    Working s id w → w.job = .sinter h bound out cap offA xs.length offB ys.length emit a b (common a).length → scratch s w.team →
    xs.Pairwise (· < ·) → ys.Pairwise (· < ·) → reads offA xs → reads offB ys → even a b →
    ∃ t a' b', exec (.sinterComplete id) s = .next t ∧ even a' b' ∧ a ≤ a' ∧ b ≤ b' ∧
      (a < xs.length → b < ys.length → a + b < a' + b') ∧ sameDev s t ∧
      (a' < xs.length → b' < ys.length → Pooled s t w.team (words a') ∧ t.ctx.gangs = s.ctx.gangs ∧
        t.work? id = some { w with job := .sinter h bound out cap offA xs.length offB ys.length emit a' b' (common a').length }) ∧
      (xs.length ≤ a' ∨ ys.length ≤ b' → Pooled s t w.team (words a' ++ [(out, toBytes 8 (common a').length)]) ∧
        Ended id w 0 (min (common a').length 0xFFFFFF) s t)) ∧
  ((∀ (s : State) (id : Nat) (w : Work) (d : List Word) (next first : Nat) (hand : List TileInHand) (ts : List Nat),
    let x := parseWalk d
    Working s id w → w.job = .carter d next hand first false → next < x.ext 3 → x.bar = false → s.walkTeams w x = (ts, false) → ts.Nodup →
    (x.permit = true → ∀ t ∈ ts, 1 ≤ Tbl.get 0 (s.team t).permits x.pctr) →
    ∃ t, exec (.carterTileStart id) s = .next t ∧ t.dev = s.dev ∧ t.ctx.gangs = s.ctx.gangs ∧ t.ctx.cores = s.ctx.cores ∧
      t.work? id = some { w with job := .carter d (next + 1) (hand ++ [⟨next, ts, none, s.ticks, State.tileRows x next⟩]) first false } ∧
      (∀ k, x.permit = true → k ∈ ts → t.team k =
        { s.team k with permits := Tbl.set (s.team k).permits x.pctr (Tbl.get 0 (s.team k).permits x.pctr - 1) }) ∧
      ∀ k, x.permit = false ∨ k ∉ ts → t.team k = s.team k) ∧
  (∀ (s : State) (id : Nat) (w : Work) (d : List Word) (next i3 first team born : Nat) (rows : List TileRow) (bs : TileRow → List Byte),
    let x := parseWalk d
    let took := s.tileTake x rows
    Working s id w → w.job = .carter d next [⟨i3, [team], none, born, rows⟩] first false → x.dir = 0 → x.bar = false → scratch s team →
    (∀ r ∈ took.1, ReadsAs (s.modWork id fun w => { w with born := born }) id w.gridId x.memh r.src r.n needR (bs r) ∧
      r.dst + r.n ≤ s.fstash team) →
    ∃ t, exec (.carterTileEnd id i3) s = .next t ∧ sameDev s t ∧ Pooled s t team (took.1.map fun r => (r.dst, bs r)) ∧
      (took.2 ≠ [] → t.ctx.gangs = s.ctx.gangs ∧
        t.work? id = some { w with job := .carter d next [⟨i3, [team], none, born, took.2⟩] first false }) ∧
      (took.2 = [] → next < x.ext 3 → t.ctx.gangs = s.ctx.gangs ∧ t.work? id = some { w with job := .carter d next [] first false }) ∧
      (took.2 = [] → x.ext 3 ≤ next → Ended id w w.cause 0 s t)) ∧
  ∀ (s : State) (x : Walkd) (rows : List TileRow), 0 < x.e → (∀ r ∈ rows, 0 < r.n ∧ x.e ∣ r.n) →
    let took := s.tileTake x rows
    let moves := fun (rs : List TileRow) (a b : Nat) => ∃ r ∈ rs, ∃ i < r.n, a = r.src + i ∧ b = r.dst + i
    (rows ≠ [] → took.1 ≠ []) ∧ (∀ r ∈ took.1 ++ took.2, 0 < r.n ∧ x.e ∣ r.n) ∧
      (∀ a b, moves rows a b ↔ moves took.1 a b ∨ moves took.2 a b) ∧
      (rows.map (·.n)).sum = (took.1.map (·.n)).sum + (took.2.map (·.n)).sum) ∧
  ((∀ (s : State) (id : Nat) (w : Work) (h off uo ul k row : Nat) (b unit store : List Byte),
    let d := parseSession b
    let e := { s with eng := some id }
    let refs := if d.reset then [] else store :: Tbl.get [] s.ctx.sessions (bref h off)
    let x := decoded d refs unit
    Working s id w → w.job = .mdec h off uo ul k [] row → s.sessionWaits id w h off = false →
    ReadsAs s id w.gridId h off 128 ⟨rR, 128, false, false⟩ b → d.bad = false → ReadsAs s id w.gridId d.bsh uo ul needR unit →
    e.mdecBuffer w.gridId d.refh d.refoff d.refsize (rR ||| rW) = none →
    (d.reset = false → ReadsAs s id w.gridId d.refh d.refoff d.refsize needR store) → e.mdecPlanes w.gridId d x.pw x.ph = none →
    ∃ t, exec (.mdecComplete id) s = .next t ∧ t.work? id = some { w with job := .mdec h off uo ul k (b :: unit :: refs) 0 } ∧
      sameDev s t ∧ t.ctx.gangs = s.ctx.gangs ∧ t.ctx.cores = s.ctx.cores ∧ t.ctx.accs = s.ctx.accs) ∧
  (∀ (s : State) (id : Nat) (w : Work) (h off uo ul k row : Nat) (b unit : List Byte) (refs : List (List Byte)) (v : Nat → State),
    let d := parseSession b
    let x := decoded d refs unit
    let left := (d.rows x).drop row
    let depth := if x.ten then 10 else 8
    let px := fun (i a c : Nat) => sampleValue depth (Config.decodeSample d.codec refs unit i a c % 2 ^ depth)
    Working s id w → w.job = .mdec h off uo ul k (b :: unit :: refs) row → left ≠ [] → v 0 = { s with eng := some id } →
    (∀ j i r p, left[j]? = some (i, r) → (d.sized x.pw x.ph)[i]? = some p →
      (v j).engWrite id w p.1.h [planeRow d.layout p.1 p.2.1 p.2.2 (px i) r] 1 = (v (j + 1), .ok ())) →
    (∀ j, ∃ y, (v j).work? id = some y) →
    ∃ t m, exec (.mdecComplete id) s = .next t ∧ 1 ≤ m ∧ m ≤ left.length ∧ t.dev = (v m).dev ∧ t.ctx.gangs = (v m).ctx.gangs ∧
      t.ctx.cores = (v m).ctx.cores ∧ t.ctx.accs = (v m).ctx.accs ∧
      ∀ y, (v m).work? id = some y → t.work? id = some { y with job := .mdec h off uo ul k (b :: unit :: refs) (row + m) }) ∧
  ∀ (s u1 u2 : State) (id : Nat) (w : Work) (h off uo ul k row : Nat) (b unit : List Byte) (refs : List (List Byte)),
    let d := parseSession b
    let x := decoded d refs unit
    let order := Config.decodeOrder d.codec refs unit
    let status := toBytes 4 (boolNat x.shown + 2 * boolNat x.mono + 4 * boolNat x.ten + 16 * x.err) ++ toBytes 2 x.pw ++ toBytes 2 x.ph ++
      toBytes 4 order.1.toNat ++ toBytes 4 order.2.toNat
    let word := toBytes 4 (numAt b 0 4 - 32 * boolNat d.reset)
    Working s id w → w.job = .mdec h off uo ul k (b :: unit :: refs) row → (d.rows x).length ≤ row →
    { s with eng := some id }.engWrite id w d.refh [(d.refoff, (List.range d.refsize).map (Config.implByte (2 * s.ticks)))] 1 = (u1, .ok ()) →
    u1.engWrite id w h [(off, word), (off + 0x50, status), (off + 0x60, (List.range 32).map (Config.implByte (2 * s.ticks + 1)))] 1 = (u2, .ok ()) →
    (∃ w', Working u2 id w' ∧ w' = { w with stores := w'.stores, errs := w'.errs }) →
    ∃ t, exec (.mdecComplete id) s = .next t ∧ Ended id w 0 0 u2 t ∧ t.dev = u2.dev ∧ t.ctx.cores = u2.ctx.cores ∧
      Tbl.get [] t.ctx.sessions (bref h off) = refs.drop 1 ++ [unit])

/-- Each dense term of R44 is exact: the sum of the 64 products of codes, times both effective scales. -/
def Obligations.DenseTermsAreExact : Prop :=
  ∀ (a b : Loaded) (table : Option (List Int)) (i j k : Nat), i < 64 → j < 64 → k < 4 →
    let n := ∑ e ∈ Finset.range 64, a.coef table i (64 * k + e) * b.coef none j (64 * k + e)
    let scale := fun (x : Nat × Int) => ((x.1 : ℚ) * (2 : ℚ) ^ x.2)
    ∃ (neg : Bool) (m : Nat) (e : Int), Tbl.find? (denseTerms a b table) ((i * 64 + j) * 4 + k) = some (.num neg m e) ∧
      (if neg then -1 else 1) * (m : ℚ) * (2 : ℚ) ^ e = (n : ℚ) * scale (a.scaleAt i k) * scale (b.scaleAt j k)

/-- MMB_HALF_COMPLETE and MOUT_HALF_COMPLETE leave their half in the staging slot, done, or its error, and write their token (R231, R234).
MJOIN_MERGE of a slot both of whose halves are done merges them into its tile and frees the slot; with an error in a half the tile stays
and shows ERR (R236). MLOOP_STEP makes one step after another (R237), and after the last frees its slots and counts the steps.
QSCALE_COMPLETE places the scale vector of the encoded tile; QSPLIT_COMPLETE, where no outlier spills, sends body, scales and record on
their way piece by piece, and its token waits for them; their counts are {SAT, n} (R42, R239, R240). QDEQ_COMPLETE places the values of
the tile, rounded, and counts their conditions (R241, R242). CLD_COMPLETE loads a tile, a NaN made quiet; CST_COMPLETE stores it,
rounded, and with CLR makes it zero and keeps its conditions (R243). Where it touches what assumptions 15, 23, 24, 25, 62, 80, 91 and 98
decide, it states the model's choice. -/
def Obligations.StepsMergeAndTilesAreCoded : Prop :=
  ((∀ (s u : State) (id k : Nat) (w : Work) (step : StepId) (hold : Bool) (d : Tbl Term) (fl : Flags) (crc : List (Option Nat)),
    let x := s.slot w.core k
    Working s id w → w.job = .mmb step k hold → { s with eng := some id }.denseHalf w step = (u, .ok (d, fl, crc)) →
    Working u id w → u.slot w.core k = x → u.ctx.gangs = s.ctx.gangs → (u.team w.team).exited = false →
    ∃ t, exec (.mmbHalfComplete id) s = .next t ∧ Ended id w 0 0 s t ∧ t.dev = u.dev ∧ (∀ n, n ≠ k → t.slot w.core n = u.slot w.core n) ∧
      t.slot w.core k = { x with dense := d, flags := x.flags ||| fl, bodyCrc := crc, mmbDone := true, mmbErr := none }) ∧
  (∀ (s u : State) (id k : Nat) (w : Work) (step : StepId) (l : List OutLine) (fl : Flags) (crc : List (Option Nat)),
    let x := s.slot w.core k
    Working s id w → w.job = .mout step k → { s with eng := some id }.outHalf w step = (u, .ok (l, fl, crc)) →
    Working u id w → u.slot w.core k = x → u.ctx.gangs = s.ctx.gangs → (u.team w.team).exited = false →
    ∃ t, exec (.moutHalfComplete id) s = .next t ∧ Ended id w 0 0 s t ∧ t.dev = u.dev ∧ (∀ n, n ≠ k → t.slot w.core n = u.slot w.core n) ∧
      t.slot w.core k = { x with lines := l, flags := x.flags ||| fl, wantCrc := crc, moutDone := true, moutErr := none }) ∧
  (∀ (s : State) (id k ct : Nat) (w : Work),
    let x := s.slot w.core k
    let c := s.physTile w.team ct
    Working s id w → w.job = .mjoin k ct → x.mmbDone = true → x.moutDone = true → s.tileBusy id w.team ct = false →
    ∃ t, exec (.mjoinMerge id) s = .next t ∧ t.slot w.core k = .free ∧ (∀ n, n ≠ k → t.slot w.core n = s.slot w.core n) ∧
      (x.mmbErr = none → x.moutErr = none → Ended id w 0 0 s t ∧ Merged s t w.core c x.dense x.lines x.flags) ∧
      ∀ e, x.mmbErr.or x.moutErr = some e → Ended id w e.cause 0 s t ∧ (∀ n, n ≠ c → t.tile w.core n = s.tile w.core n) ∧
        t.tile w.core c = { s.tile w.core c with
          status := if bit (s.tile w.core c).status 8 then (s.tile w.core c).status else (s.tile w.core c).status + 2 ^ 8 }) ∧
  (∀ (s : State) (id ct s0 j : Nat) (w : Work) (step : StepId) (lw : List Word) (two : Bool),
    let l := State.parseLoop lw
    Working s id w → w.job = .mloop step lw ct s0 two j [] → s.dev.pre.req = false → s.tileBusy id w.team ct = false →
    l.sync = false ∨ l.n = 0 → l.n ≤ j →
    ∃ t, exec (.mloopStep id) s = .next t ∧ Ended id w 0 l.n s t ∧ t.dev = s.dev ∧ t.slot w.core s0 = .free ∧
      (two = true → t.slot w.core (s0 ^^^ 1) = .free) ∧
      ∀ n, n ≠ s0 → (two = true → n ≠ s0 ^^^ 1) → t.slot w.core n = s.slot w.core n) ∧
  ∀ (s u v : State) (id ct s0 j : Nat) (w : Work) (step : StepId) (lw : List Word) (two : Bool) (d : Tbl Term × Flags × List (Option Nat))
    (o : List OutLine × Flags × List (Option Nat)),
    let l := State.parseLoop lw
    let x := (State.loopOperands step.block l j).1
    let y := (State.loopOperands step.block l j).2
    let now : StepId := ⟨State.loopBlock step.block l j, step.table⟩
    Working s id w → w.job = .mloop step lw ct s0 two j [] → s.dev.pre.req = false → s.tileBusy id w.team ct = false → l.sync = false →
    j < l.n →
    0 ≤ x.t → 0 ≤ y.t → 0 ≤ x.body → 0 ≤ x.scale → 0 ≤ y.body → 0 ≤ y.scale →
    { s with eng := some id }.denseHalf w now = (u, .ok d) → u.outHalf { w with op10 := 0x054 } now = (v, .ok o) → v.work? id = some w →
    v.ctx.gangs = s.ctx.gangs → v.tile w.core = s.tile w.core →
    ∃ t, exec (.mloopStep id) s = .next t ∧ Merged s t w.core (s.physTile w.team ct) d.1 o.1 (d.2.1 ||| o.2.1) ∧
      t.ctx.gangs = s.ctx.gangs ∧ t.work? id = some { w with job := .mloop step lw ct s0 two (j + 1) [], born := v.ticks }) ∧
  (let counted := fun (x : TileImage) => (if x.sat then 2 ^ 23 else 0) + x.outs.length % 2 ^ 23
  (∀ (s u : State) (id : Nat) (w : Work) (h t so pitch dst : Nat) (bf : Bool) (d : Desc) (x : TileImage),
    Working s id w → w.job = .qscale h t so pitch dst bf → { s with eng := some id }.encoded w h t so pitch bf = (u, .ok (d, x)) →
    Working u id w → scratch u w.team →
    ∃ v, exec (.qscaleComplete id) s = .next v ∧ Ended id w 0 (counted x) u v ∧ v.dev = u.dev ∧ Pooled u v w.team [(dst, x.scales)]) ∧
  (∀ (s u : State) (id : Nat) (w : Work) (h t so pitch : Nat) (bf : Bool) (d : Desc) (x : TileImage),
    Working s id w → w.job = .qsplit h t so pitch bf [] → { s with eng := some id }.encoded w h t so pitch bf = (u, .ok (d, x)) →
    Working u id w → u.eng = some id → u.splitParts w.gridId d t x.outs.length = none → x.outs.length ≤ d.cap →
    u.milled d.body true = false → u.milled d.scale true = false → u.milled d.outl true = false →
    ∃ v, exec (.qsplitComplete id) s = .next v ∧ v.dev = u.dev ∧ v.ctx.cores = u.ctx.cores ∧ v.ctx.gangs = u.ctx.gangs ∧
      v.work? id = some { w with fin := some (0, counted x, 0) } ∧
      (∀ k, (k < u.ctx.nextId ∨ u.ctx.nextId + 3 ≤ k) → v.access? k = u.access? k) ∧
      ∀ j part, [(d.body, t * d.tileBytes, x.body), (d.scale, 512 * t, x.scales), (d.outl, t * d.recBytes, tileRecord d (t % d.tks) x 0)][j]? =
          some part → ∃ y, v.access? (u.ctx.nextId + j) = some y ∧ y.kind = .store ∧ y.work = some id ∧ y.handle = part.1 ∧
        (y.wd = .q ∨ y.wd = .w) ∧ y.reqs.map (fun r => (r.off, r.data)) =
          ((chunks y.wd.bytes (part.2.2.length / y.wd.bytes) part.2.2).zipIdx.map fun b => (part.2.1 + y.wd.bytes * b.2, ofBytes b.1))) ∧
  (∀ (s u v : State) (id : Nat) (w : Work) (h t so pitch pq : Nat) (bf : Bool) (d : Desc) (x : TileParts),
    let p := if pq = 0 then d.planes else pq
    let whole := decide (d.layout ≠ 0) || decide (d.planes ≤ p)
    let el := if bf then 2 else 4
    let rows := chunks 256 (x.body.length / 256) x.body
    let val := fun (l k : Nat) => (if bf then bf16 else fp32).ofVal (x.value d p rows l k)
    Working s id w → w.job = .qdeq h t so pitch pq bf → { s with eng := some id }.quantDesc w h t = (u, .ok d) → p ≤ d.planes →
    u.readTile w.gridId d t (if whole then d.tileBytes else p * 2048) = (v, .ok (x, none)) → headerBad d x.header = false →
    x.bad d (t % d.tks) whole = 0 → Working v id w → scratch v w.team →
    ∃ z, exec (.qdeqComplete id) s = .next z ∧ z.dev = v.dev ∧
      Ended id w 0 ((List.range 64).foldl (fun (f : Flags) l => (List.range 256).foldl (fun f k => f ||| (val l k).2) f) 0).toNat v z ∧
      Pooled v z w.team ((List.range 64).map fun l => (so + l * pitch, (List.range 256).flatMap fun k => toBytes el (val l k).1))) ∧
  (∀ (s : State) (id : Nat) (w : Work) (so pitch ct : Nat) (bf : Bool),
    let el := if bf then 2 else 4
    let c := s.physTile w.team ct
    let raw := fun (i j : Nat) => ofBytes (s.stashBytes w.team (so + i * pitch + el * j) el)
    let nan := fun (v : Nat) => if bf then bf16.inf < v % 2 ^ 15 else fp32.inf < v % 2 ^ 31
    Working s id w → w.job = .cld so pitch ct bf → s.tileBusy id w.team ct = false → scratch s w.team →
    (∀ i, i < 64 → Stands s w w.team (so + i * pitch) (64 * el)) →
    ∃ t, exec (.cldComplete id) s = .next t ∧ Ended id w 0 0 s t ∧ t.dev = s.dev ∧ (∀ n, n ≠ c → t.tile w.core n = s.tile w.core n) ∧
      (∀ i j, i < 64 → j < 64 → Tbl.get 0 (t.tile w.core c).el (64 * i + j) =
        BitVec.ofNat 32 (if nan (raw i j) then 0x7FC00000 else if bf then raw i j * 2 ^ 16 else raw i j)) ∧
      ((t.tile w.core c).status = 0 ∨ (t.tile w.core c).status = nv.toNat)) ∧
  ∀ (s : State) (id : Nat) (w : Work) (so pitch ct : Nat) (bf clr : Bool),
    let c := s.physTile w.team ct
    let x := s.tile w.core c
    let val := fun (k : Nat) => let v := (Tbl.get 0 x.el k).toNat; if bf then bf16.ofVal (fp32.read v) else (v, 0)
    let fl : Flags := (List.range 4096).foldl (fun f k => f ||| (val k).2) 0
    let st := (BitVec.ofNat 5 x.status ||| fl).toNat + bits x.status 8 1 * 2 ^ 8 + min (x.status / 2 ^ 16) 65535 * 2 ^ 16
    Working s id w → w.job = .cst so pitch ct bf clr → s.tileBusy id w.team ct = false → scratch s w.team → w.core = teamCore w.team →
    ∃ t, exec (.cstComplete id) s = .next t ∧ Ended id w 0 0 s t ∧ t.dev = s.dev ∧ (∀ n, n ≠ w.core → t.core n = s.core n) ∧
      t.core w.core = { s.core w.core with
        acc := (t.core w.core).acc
        pool := (List.range 64).foldl (fun m i => m.writeBytes ((s.team w.team).stashRun + (so + i * pitch))
          ((List.range 64).flatMap fun j => toBytes (if bf then 2 else 4) (val (64 * i + j)).1)) (s.core w.core).pool } ∧
      (∀ n, n ≠ c → t.tile w.core n = s.tile w.core n) ∧ t.tile w.core c = (if clr then ⟨[], st % 2 ^ 16⟩ else { x with status := st }))

/-- MILLLD_SWITCH puts a well-formed image of a new generation in force in its slot, with no binding, the old one draining while beats of it
are left (R112, R115); a bad image or the slot's own generation changes nothing and is the token's cause. MILLBIND_COMPLETE binds a
buffer that passes its checks, or unbinds one (R115). MILLSTAT_SAMPLE writes the slot's record and with CLR makes its counters zero
(R116). TILE_ABANDONED drops a tile context idle for 64 us, and counts it (R109). Where it touches what assumptions 15, 36, 77 and 97
decide, it states the model's choice. -/
def Obligations.MillJobsComplete : Prop :=
  (∀ (s : State) (id h off slot gen : Nat) (w : Work) (img : List Byte),
    let old := s.millSlot slot
    Working s id w → w.job = .millld h off slot gen → old.draining = none → ReadsAs s id w.gridId h off 1280 needR img →
    (∀ x ∈ s.ctx.works, x.1 < id → ∀ a b k c, x.2.job = .millld a b k c → k ≠ slot) →
    (imageOk img = false → ∃ t, exec (.millldSwitch id) s = .next t ∧ Ended id w cMILL 0 s t ∧ t.ctx.millSlots = s.ctx.millSlots) ∧
    (imageOk img = true → old.gen = some gen →
      ∃ t, exec (.millldSwitch id) s = .next t ∧ Ended id w cSTALE 0 s t ∧ t.ctx.millSlots = s.ctx.millSlots) ∧
    (imageOk img = true → old.gen ≠ some gen →
      ∃ t, exec (.millldSwitch id) s = .next t ∧ Ended id w 0 0 s t ∧ sameDev s t ∧
        (∀ k, k ≠ slot → t.millSlot k = s.millSlot k) ∧
        t.millSlot slot = ⟨some gen, img, match old.gen with
          | some g => if s.genBusy slot g then some (g, old.image) else none
          | none => none, []⟩ ∧
        ∀ ch, slot < 8 → Tbl.mem s.ctx.mills (ch * 8 + slot) = true → t.millPart ch slot =
          { s.millPart ch slot with stats := [0, 0, 0, 0], flags := 0, crc := [], bstat := [], beats := 0 })) ∧
  (∀ (s : State) (id h slot : Nat) (w : Work) (wr : Bool),
    let old := s.millSlot slot
    let key := (h % 4096, wr)
    Working s id w →
    (w.job = .millbind h slot wr true → ∃ t, exec (.millbindComplete id) s = .next t ∧ Ended id w 0 0 s t ∧ t.dev = s.dev ∧
      t.millSlot slot = { old with binds := old.binds.filter (· != key) } ∧ ∀ k, k ≠ slot → t.millSlot k = s.millSlot k) ∧
    (w.job = .millbind h slot wr false → s.bindEntry h slot wr = none → imgMode old.image ≠ 1 → imgMode old.image ≠ 2 →
      s.bindParts w.gridId h slot wr none = none →
      ∃ t, exec (.millbindComplete id) s = .next t ∧ Ended id w 0 0 s t ∧ t.dev = s.dev ∧
        t.millSlot slot = { old with binds := if key ∈ old.binds then old.binds else old.binds ++ [key] } ∧
        ∀ k, k ≠ slot → t.millSlot k = s.millSlot k) ∧
    (w.job = .millbind h slot wr false → s.bindEntry h slot wr = none → (imgMode old.image = 1 ∨ imgMode old.image = 2) → ∀ u d,
      { s with eng := some id }.descOf w.gridId ((s.entry (h % 4096)).data % 4096) = (u, .ok d) → u.bindParts w.gridId h slot wr (some d) = none →
      (∃ w', Working u id w' ∧ w' = { w with stores := w'.stores, errs := w'.errs }) → u.ctx.millSlots = s.ctx.millSlots →
      ∃ t, exec (.millbindComplete id) s = .next t ∧ Ended id w 0 0 u t ∧ t.dev = u.dev ∧
        t.millSlot slot = { old with binds := if key ∈ old.binds then old.binds else old.binds ++ [key] } ∧
        ∀ k, k ≠ slot → t.millSlot k = s.millSlot k)) ∧
  (∀ (s c u : State) (id h off slot : Nat) (w : Work) (clr : Bool),
    Working s id w → w.job = .millstat h off slot clr →
    c = { s with eng := some id, ctx := { s.ctx with mills := s.ctx.mills.map fun m =>
      if clr && m.1 % 8 == slot then (m.1, { MillPart.zero with crc := m.2.crc, bstat := m.2.bstat, ctxs := m.2.ctxs }) else m } } →
    c.engWrite id w h [(off, { s with eng := some id }.millRecord slot)] 64 = (u, .ok ()) →
    (∃ w', Working u id w' ∧ w' = { w with stores := w'.stores, errs := w'.errs }) →
    ∃ t, exec (.millstatSample id) s = .next t ∧ Ended id w 0 0 u t ∧ t.dev = u.dev ∧ t.ctx.mills = u.ctx.mills) ∧
  ∀ (s : State) (ch slot i : Nat) (x : TileCtx), slot < 8 → i < 2 → (s.millPart ch slot).ctxs[i]? = some x → x.last + 64000 ≤ s.now →
    x.waiters = [] → x.left = none → (s.millSlot slot).draining = none →
    ∃ t, exec (.tileAbandoned (2 * (8 * ch + slot) + i)) s = .next t ∧ t.dev = s.dev ∧ t.ctx.gangs = s.ctx.gangs ∧
      (∀ k, k ≠ 8 * ch + slot → Tbl.get MillPart.zero t.ctx.mills k = Tbl.get MillPart.zero s.ctx.mills k) ∧
      t.millPart ch slot = { s.millPart ch slot with
        ctxs := (s.millPart ch slot).ctxs.eraseIdx i, abandoned := min ((s.millPart ch slot).abandoned + 1) (2 ^ 32 - 1),
        errs := min ((s.millPart ch slot).errs + 1) (2 ^ 32 - 1), lastDetail := 3, lastErrAt := s.ctx.seq + 1 }

/-! Transfers and order circles (R253 to R266). -/

/-- TRANSFER_CHUNK reads a chunk once and writes it (R255): a PUT's last chunk goes to its buffer, a GET's to the stash, a PUTRED's as
reductions in order, and the token follows. With the chunks' writes past their WCTs, the bytes of each chunk are added to the signal.
Where it touches what assumptions 15, 41, 62 and 91 decide, it states the model's choice. -/
def Obligations.TransfersRunByChunks : Prop :=
  let wrote := fun (w w' : Work) => w' = { w with stores := w'.stores, errs := w'.errs }
  (∀ (s u : State) (id n chunk q : Nat) (w : Work) (src dst : Side) (bs : List Byte),
    let m := min chunk (n - q)
    Working s id w → w.fin = none → w.job = .xfer .put src dst n chunk none [q] [] → src.stash = false → dst.stash = false →
    ReadsAs s id w.gridId src.handle (src.off + q) m ⟨rR, 4, false, false⟩ bs →
    ({ s with eng := some id }.memRead w.gridId src.handle (src.off + q) m ⟨rR, 4, false, false⟩).1.engWrite id w dst.handle [(dst.off + q, bs)] 4 = (u, .ok ()) → (∃ w', Working u id w' ∧ wrote w w') →
    ∃ t, exec (.transferChunk id q) s = .next t ∧ Ended id w w.cause 0 u t ∧ t.dev = u.dev ∧ t.ctx.cores = u.ctx.cores) ∧
  (∀ (s : State) (id n chunk q : Nat) (w : Work) (src dst : Side) (bs : List Byte),
    let m := min chunk (n - q)
    Working s id w → w.fin = none → w.job = .xfer .get src dst n chunk none [q] [] → src.stash = false → dst.stash = true →
    scratch s w.team → ReadsAs s id w.gridId src.handle (src.off + q) m ⟨rR, 4, false, false⟩ bs →
    ∃ t, exec (.transferChunk id q) s = .next t ∧ Ended id w w.cause 0 s t ∧ sameDev s t ∧ Pooled s t w.team [(dst.off + q, bs)]) ∧
  (∀ (s : State) (id n chunk q : Nat) (w : Work) (src dst : Side) (op : Aop) (d : Bool) (bs : List Byte),
    let m := min chunk (n - q)
    let el := if d then 8 else 4
    Working s id w → w.fin = none → w.job = .xfer (.red op d) src dst n chunk none [q] [] → src.stash = false → dst.stash = false →
    ReadsAs s id w.gridId src.handle (src.off + q) m ⟨rR, 4, false, false⟩ bs → 0 < m → m ≤ 64 * el → m % el = 0 →
    { s with eng := some id }.redCheck w.gridId { dst with off := dst.off + q } m el op false = none →
    ∃ t y, exec (.transferChunk id q) s = .next t ∧ sameDev s t ∧ t.ctx.cores = s.ctx.cores ∧ t.ctx.gangs = s.ctx.gangs ∧
      t.access? s.ctx.nextId = some y ∧ (∀ k, k ≠ s.ctx.nextId → t.access? k = s.access? k) ∧
      y.kind = .red ∧ y.handle = dst.handle ∧ y.aop = op ∧ y.work = some id ∧
      y.reqs = (List.range (m / el)).map (fun i => ⟨i, dst.off + q + i * el, ofBytes ((bs.drop (i * el)).take el), 0⟩) ∧
      t.work? id = some { w with job := .xfer (.red op d) src dst n chunk none [] [], fin := some (w.cause, 0, w.faultAt) }) ∧
  ∀ (s : State) (id n chunk q m h off : Nat) (w : Work) (op : XferOp) (src dst : Side),
    Working s id w → w.fin = none → w.job = .xfer op src dst n chunk (some (h, off)) [] [([], q, m)] →
    (∀ x ∈ w.stores, x.2.wct ≤ s.now) → w.errs = [] →
    ∃ t y, exec (.transferChunk id 0) s = .next t ∧ t.dev = s.dev ∧ t.ctx.cores = s.ctx.cores ∧ t.ctx.gangs = s.ctx.gangs ∧
      t.access? s.ctx.nextId = some y ∧ (∀ k, k ≠ s.ctx.nextId → t.access? k = s.access? k) ∧
      y.kind = .signal ∧ y.handle = h ∧ y.work = some id ∧ y.reqs = [⟨0, off, m, 0⟩] ∧
      t.work? id = some { w with job := .xfer op src dst n chunk (some (h, off)) [] [], fin := some (w.cause, 0, w.faultAt) }

/-- CIRCLE_RECORD_SEND reads a record's payload once and sends it to the circle's Crier (R262, R264). CRIER_STAMP gives the oldest record
the next sequence number, sends it to the members and holds it (R262). CIRCLE_APPLY performs the next record in sequence, and counts it
once its WCT is past, when the sender's token takes its number (R263, R264). The words of messages are the model's own. A circle breaks
on CIRCLE_GAP_TIMEOUT, on CIRCLE_BROKEN_RECEIVE and on a write of BROKEN to CIRCCTL, the latter two once no apply is in progress: the
applied count is frozen, held records are dropped, those queued for another incarnation are kept (R262), and a pending token ends, with
GAP where its record was stamped (R261, R265). A write of ACTIVE under a new incarnation forms it anew; one to an ACTIVE circle only
sets ERR (R261). Where it touches what assumptions 13, 14, 37, 38 and 39 decide, it states the model's choice. -/
def Obligations.OrderCircles : Prop :=
  ((∀ (s : State) (id n : Nat) (c : Fin 64) (w : Work) (r : CircleRec) (src : Side) (bs : List Byte),
    let x := s.circle c
    let sent := { r with payload := bs, incarn := BitVec.ofNat 16 x.incarn, source := s.dev.host.devnum, tag := id }
    Working s id w → w.job = .circle r c src n false none → (∀ y ∈ s.ctx.works, y.1 < id → y.2.gang ≠ w.gang) → src.stash = false →
    ReadsAs s id w.gridId src.handle src.off n ⟨rR, 4, false, false⟩ bs → x.state = .active → x.incarn < 2 ^ 16 →
    ∃ t, exec (.circleRecordSend id) s = .next t ∧ t.ctx.gangs = s.ctx.gangs ∧ t.ctx.cores = s.ctx.cores ∧
      t.work? id = some { w with job := .circle sent c src n true none } ∧
      (x.crier = true → sameDev s t ∧ t.circle c = { x with queue := x.queue ++ [sent] }) ∧
      (x.crier = false → t.ctx.circles = s.ctx.circles ∧ t.dev = { s.dev with
        tlb := t.dev.tlb
        outbox := s.dev.outbox ++ [(circleDest c, (36 :: recWords c sent 0).flatMap (toBytes 8) ++ bs)] })) ∧
  (∀ (s : State) (c : Fin 64) (r : CircleRec) (rest : List CircleRec),
    let x := s.circle c
    x.crier = true → x.state = .active → x.queue = r :: rest →
    (∀ m, m ≤ x.last → Tbl.find? x.ready m = some x.incarn ∧ x.nextSeq < 256 + Tbl.get 0 x.counts m) →
    r.incarn.toNat = x.incarn → (x.applied < x.nextSeq ∨ x.applied = x.nextSeq ∧ x.doing = false) →
    ∃ t, exec (.crierStamp c) s = .next t ∧ t.ctx.gangs = s.ctx.gangs ∧
      t.circle c = { x with
        queue := rest, nextSeq := x.nextSeq + 1, window := Tbl.set x.window x.nextSeq r, issued := (t.circle c).issued, gapSince := (t.circle c).gapSince } ∧
      (r.source ≠ s.dev.host.devnum → t.ctx.works = s.ctx.works ∧ (t.circle c).issued = x.issued) ∧
      (∀ id w r' src n, r.source = s.dev.host.devnum → s.circleJobs c = [(id, w)] → s.work? id = some w →
        w.job = .circle r' c src n true none → r'.tag = r.tag →
        t.work? id = some { w with job := .circle r' c src n true (some x.nextSeq) } ∧ (t.circle c).issued = x.issued + 1) ∧
      t.dev = { s.dev with outbox := s.dev.outbox ++ (x.members.filter fun m => decide (m.1 ≠ x.index)).map fun m =>
        (m.2, (32 :: recWords c r x.nextSeq).flatMap (toBytes 8) ++ r.payload) }) ∧
  (∀ (s : State) (c : Fin 64) (r : CircleRec) (e : Entry) (p : Piece),
    let x := s.circle c
    let h := r.target.toNat / 2 ^ 52
    let off : Nat := r.target.toNat % 2 ^ 52
    let n := r.payload.length
    x.state = .active → x.doing = false → Tbl.find? x.window x.applied = some r → r.red = none →
    s.check anyGrid h off n ⟨rW ||| rMCST, 4, false, false⟩ = .ok e → e.kind = 1 → e.milled true = false → 0 < n → Placed s 0 h off n e p →
    0 ∉ s.ctx.redHold → Tbl.mem s.ctx.custody (p.loc / 128) = false →
    ∃ t, exec (.circleApply c) s = .next t ∧ Stored s t p.loc r.payload ∧ t.ctx.gangs = s.ctx.gangs ∧ s.now < (t.circle c).lastWct ∧
      t.circle c = { x with
        window := Tbl.erase x.window x.applied, doing := true, waits := false, lastWct := (t.circle c).lastWct, gapSince := none }) ∧
  ∀ (s : State) (c : Fin 64) (id : Nat) (w : Work),
    let x := s.circle c
    x.state = .active → x.doing = true → x.lastWct ≤ s.now → Tbl.find? x.window (x.applied + 1) = none →
    s.circleJobs c = [(id, w)] → Working s id w → State.jobSeq w = some x.applied →
    ∃ t, exec (.circleApply c) s = .next t ∧ Ended id w 0 (x.applied % 2 ^ 24) s t ∧
      t.circle c = { x with
        applied := x.applied + 1, doing := false, counts := Tbl.set x.counts x.index (x.applied + 1), gapSince := (t.circle c).gapSince } ∧
      t.dev = { s.dev with
        outbox := s.dev.outbox ++ [(circleDest c, [33, c.val, x.incarn, x.index, x.applied + 1].flatMap (toBytes 8))] }) ∧
  (let breaks := fun (s t : State) (c : Fin 64) (x : Machine.Circle) =>
    t.circle c = { x with state := .broken, brokenAt := x.applied, bvalid := true, waits := false, window := [],
                               gapSince := none, queue := x.queue.filter fun r => decide (r.incarn.toNat ≠ x.incarn) } ∧
      t.dev = { s.dev with outbox := s.dev.outbox ++
        if x.crier then (x.members.filter fun m => decide (m.1 ≠ x.index)).map fun m => (m.2, [34, c.val, x.incarn].flatMap (toBytes 8))
        else [(circleDest c, [35, c.val, x.incarn, x.applied].flatMap (toBytes 8))] } ∧
      (s.circleJobs c = [] → t.ctx.gangs = s.ctx.gangs ∧ t.ctx.works = s.ctx.works) ∧
      ∀ id w, s.circleJobs c = [(id, w)] → Working s id w →
        Ended id w (if (State.jobSeq w).isSome then cGAP else cBROKEN) ((State.jobSeq w).getD 0 % 2 ^ 24) s t
  (∀ (s : State) (c : Fin 64) (d : Nat), let x := s.circle c
    x.gapSince = some d → x.state = .active → d + 1000 * x.gapus ≤ s.now →
    ∃ t, exec (.circleGapTimeout c) s = .next t ∧ breaks s t c x) ∧
  (∀ (s : State) (c : Fin 64), let x := s.circle c
    (x.doing = false → x.waits = false → x.state = .active → ∃ t, exec (.circleBrokenReceive c) s = .next t ∧ breaks s t c x) ∧
    (x.doing = false → x.waits = true → exec (.circleBrokenReceive c) s = .next { s with inputs := s.inputs ++ [.circleBrokenReceive c] })) ∧
  (∀ (s : State) (c : Fin 64) (v : DWord), let x := s.circle c
    s.dev.sec.bootstat = 1 → v.toNat % 4 = 2 → x.doing = false →
    (x.waits = false → ∃ t, exec (.circctlBroken c v) s = .next t ∧ breaks s t c { x with err := x.err && !v.getLsbD 3 }) ∧
    (x.waits = true → exec (.circctlBroken c v) s = .next { s with inputs := s.inputs ++ [.circctlBroken c v] })) ∧
  ∀ (s : State) (c : Fin 64) (v : DWord), let x := s.circle c
    let field := fun (lo n : Nat) => (v.extractLsb' lo n).toNat
    s.dev.sec.bootstat = 1 → v.toNat % 4 = 1 →
    (x.state ≠ .active → field 48 16 ≠ 0 → field 32 16 ≠ x.incarn →
      ∃ t, exec (.circctlActive c v) s = .next t ∧ t.ctx.gangs = s.ctx.gangs ∧ t.ctx.works = s.ctx.works ∧
        t.circle c = { x with
          state := .active, crier := v.getLsbD 2, err := x.err && !v.getLsbD 3, index := field 8 10, last := field 18 10,
          incarn := field 32 16, gapus := field 48 16, applied := 0, issued := 0, brokenAt := 0, bvalid := false, window := [],
          gapSince := none, doing := false, waits := false, lastWct := 0, queue := x.queue.filter fun r => decide (r.incarn.toNat = field 32 16), nextSeq := 0, counts := [],
          ready := let kept := x.ready.filter fun m => m.2 != x.incarn
            if v.getLsbD 2 then Tbl.set kept (field 8 10) (field 32 16) else kept } ∧
        t.dev = { s.dev with outbox := s.dev.outbox ++ if v.getLsbD 2 then [] else
          [(circleDest c, [37, c.val, field 32 16, field 8 10].flatMap (toBytes 8))] }) ∧
    (x.state = .active → ∃ t, exec (.circctlActive c v) s = .next t ∧ t.dev = s.dev ∧ t.ctx.gangs = s.ctx.gangs ∧ t.circle c = { x with err := true }))

/-! Launches, queues and teams (R289 to R308). -/

/-- A record written whole into a free slot of window B, that passes its checks and whose time has come, takes the lowest free entry of the
grid table, and a context is resident (R292, R294, R382); a part stays in the slot; one that fails is recorded in LREJECT and raises
vector 5 (R293); one that finds no entry open is held, and enters by HELD_SLOT_ENTER once one is: grids of the wheel whose time has come
go first. TIMER_WHEEL_SLOT enters a grid whose time has come (R303). Where it touches what assumptions 45 and 93 decide, it states the
model's choice. -/
def Obligations.LaunchesEnterTheGridTable : Prop :=
  let lowest := fun (s : State) (k : Nat) =>
    k < 256 ∧ Tbl.find? s.ctx.grids k = none ∧ ∀ j, j < k → (Tbl.find? s.ctx.grids j).isSome = true
  let entered := fun (s t : State) (k : Nat) (r : List Byte) (core : Option Nat) (cref start : Nat) =>
    t.grid k = { Grid.absent with
      record := r, unended := Rec.teams r, thandler := Rec.hoff r, spawnCore := core, crefId := cref, seq := s.ctx.seq + 1, start := start } ∧
      (∀ j, j ≠ k → Tbl.find? t.ctx.grids j = Tbl.find? s.ctx.grids j) ∧ t.ctx.gangs = s.ctx.gangs ∧ t.dev.mem = s.dev.mem
  let resident := fun (s t : State) => t.dev.pre = { s.dev.pre with resident := true, done := false }
  (∀ (s : State) (slot : Fin 64) (r : List Byte) (k : Nat), s.dev.sec.bootstat = 1 → s.slotLoad slot = .empty → r.length = 64 →
    s.recordCheck (Rec.gridId r) r true = none → Rec.release r ≤ s.now →
    (lowest s k → 0 < s.openEntries → ∃ t, exec (.launchSlotWrite slot 0 r) s = .next t ∧ entered s t k r none (Rec.gridId r) s.dev.hostWct ∧ resident s t ∧ t.slotLoad slot = .empty) ∧
    (s.openEntries = 0 →
      ∃ t, exec (.launchSlotWrite slot 0 r) s = .next t ∧ t.slotLoad slot = .held r ∧ t.ctx = s.ctx ∧ t.dev.mem = s.dev.mem)) ∧
  (∀ (s : State) (slot : Fin 64) (off : Nat) (bs : List Byte), s.dev.sec.bootstat = 1 → s.slotLoad slot = .empty → bs ≠ [] →
    bs.length < 64 → off + bs.length ≤ 64 →
    ∃ t x, exec (.launchSlotWrite slot off bs) s = .next t ∧ t.ctx = s.ctx ∧ t.dev.mem = s.dev.mem ∧ t.slotLoad slot = .filling x ∧
      ∀ i, Tbl.find? x i = if i < off then none else bs[i - off]?) ∧
  (∀ (s : State) (slot : Fin 64) (r : List Byte) (e : Err), s.dev.sec.bootstat = 1 → s.slotLoad slot = .empty → r.length = 64 →
    s.recordCheck (Rec.gridId r) r true = some e → Rec.csig r = false →
    ∃ t, exec (.launchSlotWrite slot 0 r) s = .next t ∧ t.slotLoad slot = .empty ∧ (∀ j, j < 256 → t.grid j = s.grid j) ∧ t.dev.launch.rejCause = e.cause ∧
      t.dev.launch.rejSlot = slot ∧ t.dev.launch.rejCount = min (s.dev.launch.rejCount + 1) 255 ∧ bit t.dev.host.msix 5 = true) ∧
  (∀ (s : State) (slot : Fin 64) (r : List Byte) (k : Nat), s.slotLoad slot = .held r → Rec.release r ≤ s.now → lowest s k →
    0 < s.openEntries → ∃ t, exec (.heldSlotEnter slot) s = .next t ∧ entered s t k r none (Rec.gridId r) s.dev.hostWct ∧ resident s t ∧ t.slotLoad slot = .empty) ∧
  ∀ (s : State) (x : WheelGrid) (k : Nat), (s.ctx.wheel.filter fun y => decide (y.release ≤ s.now)) = [x] → lowest s k →
    ∃ t, exec (.timerWheelSlot (x.release / 1000 % 1024)) s = .next t ∧
      entered s t k x.record x.spawnCore x.crefId (if x.spawnCore.isNone then s.dev.hostWct else 0) ∧ t.ctx.wheel = s.ctx.wheel.filter (· != x)

/-- GRID_FEED feeds the next teams of the grid that is first in order, 8 at a time, and each is then in some queue; QUEUE_AGEING moves on
what has stayed 100 us in a core's queue, as far as the cluster's has room; no team is lost on the way (R294, R296, R297). TEAM_PLACE
puts the only team of an empty core's queue in its place: the boundaries of R124, and every gang at one instant, its lanes at the entry
offset, s0 and s1 with the argument reference, all else as R51 says (R289, R298, R299). TEAM_END frees an exited team, and its grid has
one team fewer to wait for; engines of it that are still at work keep its stash and its tiles (R305). GRID_COMPLETE of a grid with
nothing left under way stores its status word after its signal, {CAUSE, GRID, NERR}, and once its WCT is past COMPLETION_SIGNAL_ADD adds
to the signal, where the pair still passes its checks, and frees the entry; with CSIG 0 the entry is free at once (R306 to R308). Where
it touches what assumptions 45, 47 and 93 decide, it states the model's choice. -/
def Obligations.TeamsAndGrids : Prop :=
  (let somewhere := fun (t : State) (e : QEntry) =>
    (∃ c, e ∈ (t.core c).queue) ∨ (∃ k, e ∈ Tbl.get [] t.ctx.clusterQ k) ∨ ∃ d, e ∈ Tbl.get [] t.ctx.dieQ d
  let queued := fun (t : State) (grid team : Nat) => ∃ e, somewhere t e ∧ e.grid = grid ∧ e.teamIdx = team
  (∀ (s : State) (k : Nat) (g : Grid) (rest : List (Nat × Grid)), s.feedOrder = (k, g) :: rest → s.grid k = g →
    let n := min 8 (Rec.teams g.record - g.next)
    ∃ t, exec (.gridFeed k) s = .next t ∧ t.grid k = { g with next := g.next + n } ∧ (∀ j, j ≠ k → t.grid j = s.grid j) ∧
      (∀ i, i < n → queued t k (g.next + i)) ∧ (∀ e, somewhere s e → queued t e.grid e.teamIdx) ∧ t.ctx.gangs = s.ctx.gangs ∧ t.dev = s.dev) ∧
  ∀ (s : State) (c : Nat) (e : QEntry), s.coreQueue c = [e] → e.at' + 100000 ≤ s.now → (s.clusterQueue (c / 8)).length < 256 →
    ∃ t, exec (.queueAgeing c) s = .next t ∧ (∃ e', somewhere t e' ∧ e'.grid = e.grid ∧ e'.teamIdx = e.teamIdx ∧ e'.at' = s.now) ∧
      (∀ x, somewhere s x → queued t x.grid x.teamIdx) ∧ t.ctx.gangs = s.ctx.gangs ∧ t.dev = s.dev) ∧
  ((∀ (s : State) (c : Nat) (e : QEntry) (p : State.Place),
    let r := (s.grid e.grid).record
    let n := Rec.fitCount r
    s.dev.pre.req = false → s.ctx.halt = none → s.coreQueue c = [e] → s.teamsOn c = [] →
    (s.boundsFor c r).placeFor c r = some p →
    ∃ t, exec (.teamPlace c) s = .next t ∧
      ((t.core c).b1, (t.core c).b2, (t.core c).b3) = (n * Rec.freg r, n * Rec.freg r + n * Rec.fstash r, 1572864 - n * Rec.fsave r) ∧
      t.team (teamKey c p.slot) = ⟨true, e.grid, e.teamIdx, p.reg, p.stash, p.save, p.tiles, p.gangs, [], [], [], false, 0, []⟩ ∧
      (∀ k, k ≠ teamKey c p.slot → t.team k = s.team k) ∧
      (∀ i k, p.gangs[i]? = some k → t.gang (gangKey c k) = { Gang.absent with
        live := true, team := teamKey c p.slot, gangIdx := i, lastIssue := s.dev.cycle,
        s := [(0, BitVec.ofNat 32 (Rec.args r)), (1, BitVec.ofNat 32 (Rec.args r / 2 ^ 32))],
        lanes := (List.range 64).map fun l => (l, Lane.start (Rec.codeOff r % 2 ^ 32)) }) ∧
      (∀ k, (∀ j ∈ p.gangs, k ≠ gangKey c j) → t.gang k = s.gang k) ∧ t.dev = s.dev) ∧
  ∀ (s : State) (c n : Nat), let k := teamKey c n
    let x := s.team k
    c < 192 → n < 16 → x.live = true → x.exited = true → x.wct ≤ s.now → (∀ j, j < 4 → (s.slot c j).state = .free) →
    (∀ y ∈ s.ctx.accs, y.2.team = k → y.2.kind ≠ .writeBack ∧ y.2.kind ≠ .lds ∧ y.2.kind ≠ .sts ∧ y.2.kind ≠ .atoms) →
    Tbl.mem s.ctx.grids x.grid = true →
    ∃ t, exec (.teamEnd c n) s = .next t ∧ (t.team k).live = false ∧ (∀ j, j < 3072 → j ≠ k → t.team j = s.team j) ∧
      t.grid x.grid = { s.grid x.grid with unended := (s.grid x.grid).unended - 1 } ∧ (∀ j, j ≠ x.grid → t.grid j = s.grid j) ∧
      t.dev = s.dev ∧ t.ctx.gangs = s.ctx.gangs ∧
      ∀ id w, s.work? id = some w → (w.team ≠ k → (t.work? id).map (·.team) = some w.team) ∧
        (w.team = k → ∃ g job, 3072 ≤ g ∧ teamCore g = c ∧ t.team g = { x with live := false } ∧
          t.work? id = some { w with team := g, job := job })) ∧
  ((∀ (s : State) (k : Nat) (g : Grid), Tbl.find? s.ctx.grids k = some g → g.unended = 0 → g.signalDue = none → g.wct ≤ s.now → s.gridBusy k = false →
    (Rec.csig g.record = false → ∃ t, exec (.gridComplete k) s = .next t ∧ Tbl.find? t.ctx.grids k = none ∧
      (∀ j, j ≠ k → Tbl.find? t.ctx.grids j = Tbl.find? s.ctx.grids j) ∧ t.dev = s.dev) ∧
    ∀ (e : Entry) (p : Piece), let h := Rec.cref g.record / 2 ^ 52
      let off : Nat := Rec.cref g.record % 2 ^ 52 + 8
      Rec.csig g.record = true → s.check g.crefId h off 8 ⟨rW, 8, false, false⟩ = .ok e → (e.kind = 1 ∨ e.kind = 4 ∨ e.kind = 7) →
      s.milled h true = false → Placed s 0 h off 8 e p → 0 ∉ s.ctx.redHold →
      Tbl.mem s.ctx.custody (p.loc / 128) = false →
      ∃ t w, exec (.gridComplete k) s = .next t ∧ s.now < w ∧ Tbl.find? t.ctx.grids k = some { g with signalDue := some w, wct := max g.wct w } ∧
        Stored s t p.loc (toBytes 8 (g.cause % 128 + Rec.gridId g.record % 2 ^ 16 * 2 ^ 16 + g.nerr % 2 ^ 32 * 2 ^ 32))) ∧
  ∀ (s : State) (k d : Nat) (g : Grid), Tbl.find? s.ctx.grids k = some g → g.signalDue = some d → max d g.wct ≤ s.now → s.gridBusy k = false →
    (s.crefCheck g.crefId g.record = none → ∃ t y, exec (.completionSignalAdd k) s = .next t ∧ Tbl.find? t.ctx.grids k = none ∧
      (∀ j, j ≠ k → Tbl.find? t.ctx.grids j = Tbl.find? s.ctx.grids j) ∧ t.dev = s.dev ∧ t.access? s.ctx.nextId = some y ∧
      y.kind = .signal ∧ y.handle = Rec.cref g.record / 2 ^ 52 ∧ y.reqs = [⟨0, Rec.cref g.record % 2 ^ 52, Rec.cadd g.record, 0⟩] ∧
      y.notBefore = 0) ∧
    ∀ e, s.crefCheck g.crefId g.record = some e → ∃ t, exec (.completionSignalAdd k) s = .next t ∧ Tbl.find? t.ctx.grids k = none ∧
      t.ctx.accs = s.ctx.accs)

/-! The host port (R82, R86, R89, R292, R321, R322, R332, R333). -/

/-- FQDONE, which RECOVERY refuses like every register beyond the first block (R335), names an open record, or sets HOSTERR (R322, R332):
the record frees; a page that is mapped now lets the lanes go that an instruction held for it, to make it again (R384); one still
without a mapping has its record posted anew at the lowest free index, and its accesses keep waiting; a page whose service failed faults
the load that waits for it with PAGE_FATAL. Where it touches what assumption 48 decides, it states the model's choice. -/
def Obligations.PageServiceWakesOrFaults : Prop :=
  (∀ (s : State) (i : Nat), s.dev.sec.bootstat = 1 → Tbl.mem s.ctx.fq i = false →
    let refused := { s with dev := { s.dev with host := { s.dev.host with hosterr := s.dev.host.hosterr ||| 4 } } }
    exec (.fqdoneMapped i) s = .next refused ∧ exec (.fqdoneFatal i) s = .next refused) ∧
  (∀ (s : State) (i : Nat), s.dev.sec.bootstat = 1 → Tbl.mem s.ctx.fq i = true → s.ctx.misses = [] →
    let freed := { s with ctx := { s.ctx with fq := Tbl.erase s.ctx.fq i } }
    exec (.fqdoneMapped i) s = .next freed ∧ exec (.fqdoneFatal i) s = .next freed) ∧
  (∀ (s : State) (i p id : Nat) (m : Miss) (h : Hold) (l : Leaf),
    s.dev.sec.bootstat = 1 → Tbl.mem s.ctx.fq i = true → s.ctx.misses = [(p, m)] → s.dev.walk (p * 2 ^ 16) = .leaf l → s.ctx.redHold = [] →
    s.ctx.holds = [(id, h)] → h.kind = .page p →
    ∃ t, exec (.fqdoneMapped i) s = .next t ∧ Tbl.find? t.ctx.fq i = none ∧ t.ctx.misses = [] ∧ t.ctx.holds = [] ∧ t.dev = s.dev ∧
      (∀ k, k ≠ h.gang → t.gang k = s.gang k) ∧ ∀ n, (t.gang h.gang).lane n =
        if n ∈ laneList h.lanes ∧ ((s.gang h.gang).lane n).hold = some id then { (s.gang h.gang).lane n with hold := none } else (s.gang h.gang).lane n) ∧
  (∀ (s : State) (i p k : Nat) (m : Miss), let left := Tbl.erase s.ctx.fq i
    s.dev.sec.bootstat = 1 → Tbl.mem s.ctx.fq i = true → s.ctx.misses = [(p, m)] → m.rec' = some i → s.dev.walk (p * 2 ^ 16) = .miss → m.buf < 4096 →
    k < 1024 → Tbl.find? left k = none → (∀ j, j < k → (Tbl.find? left j).isSome = true) →
    ∃ t, exec (.fqdoneMapped i) s = .next t ∧ t.ctx.misses = [(p, { m with rec' := some k })] ∧
      Tbl.find? t.ctx.fq k = some ⟨p * 2 ^ 16, m.buf, m.wr, m.gridId, false, s.ctx.seq⟩ ∧
      (∀ j, j ≠ k → Tbl.find? t.ctx.fq j = Tbl.find? left j) ∧ t.ctx.accs = s.ctx.accs ∧ t.ctx.holds = s.ctx.holds ∧
      t.ctx.gangs = s.ctx.gangs ∧ t.dev = { s.dev with host := t.dev.host } ∧ bit t.dev.host.msix 0 = (left.isEmpty || bit s.dev.host.msix 0)) ∧
  ∀ (s : State) (i p id : Nat) (m : Miss) (x : Access) (r : Req) (e : Entry), let n := x.wd.bytes
    let off := r.offset.toNat
    let old := (s.gang x.gang).lane r.lane
    s.dev.sec.bootstat = 1 → Tbl.mem s.ctx.fq i = true → s.ctx.misses = [(p, m)] → m.rec' = some i → s.ctx.redHold = [] → s.ctx.holds = [] → s.ctx.works = [] →
    s.ctx.mills = [] → s.ctx.circles = [] → s.ctx.triggers = [] → s.ctx.replies = [] → s.inputs = [] → (∀ g ∈ s.ctx.grids, g.2.unended ≠ 0) →
    s.ctx.accs = [(id, x)] → x.kind = .load → x.reqs = [r] → x.stall = [(r.lane, p)] → x.faults = [] → x.sent = none → x.out = [] → x.notBefore ≤ s.now →
    (s.entryOf x).kind = 1 → x.orphan = false → x.work = none → (s.gang x.gang).live = true → (s.gang x.gang).waitTrap = [] → r.lane < 64 → old.cond ≠ .exited →
    (∀ w ∈ old.wins, w.acc = id) → (s.gang x.gang).hmode = false → (s.grid (s.gridOf x.gang)).thandler ≠ 0 →
    (s.dev.pre.req = false ∨ s.dev.pre.done = true) →
    0 ≤ r.offset → s.check x.gridId x.handle off n ⟨rR, Width.align x.wd, false, false⟩ = .ok e → e.kind = 1 → s.milled x.handle false = false →
    cutParts e 4 off n = [(off, n)] → (e.base + off) / 2 ^ 16 = p →
    ∃ t, exec (.fqdoneFatal i) s = .next t ∧ Tbl.find? t.ctx.fq i = none ∧ t.ctx.misses = [] ∧ t.ctx.accs = [] ∧ t.dev.mem = s.dev.mem ∧
      (t.gang x.gang).t = ⟨cPAGEFATAL, x.pc, (if x.la = 0 then (x.pc + 8) % 2 ^ 32 else old.pc), bref x.handle off, laneBit r.lane, if x.la > 0 then 0x100 else 0⟩ ∧
      (t.gang x.gang).hmode = true ∧ (t.gang x.gang).hset = laneBit r.lane ∧
      ((t.gang x.gang).lane r.lane).pc = (s.grid (s.gridOf x.gang)).thandler ∧ ((t.gang x.gang).lane r.lane).v = old.v

/-- A write of window A changes the named field of its register and nothing else, within the register's limits, where it is accepted (R8,
R332): BTBASE, class windows and CWIN only while no context is resident (R82, R86, R333), a class window only where it meets no other
(R86). A word of a buffer-table entry is written in class 14, and the old entry may be used until BTSYNC (R82). In RECOVERY only the
registers of the first block take a write (R335). A write of 4 bytes changes a register's low or high half; an access of window A of
another size or alignment sets HOSTERR, and reads 0 (R332). Every register reads as the fields it holds (R8), but in RECOVERY, where
every read beyond the first block brings zeros (R335): FQSTAT counts the open records and says whether the queue is full (R321), a class
window shows its limits and ERR (R86), LBUSY the launch slots in use (R293). FQNEXT gives the oldest record the host has not read, once,
with VALID, or zero (R321); LREJECT and a REFDEBT record give their counts and clear them (R89, R293). Window C reads bytes at their
point, beyond the class window ones, and a write there is performed at its home and ordered before later launches (R180, R333); an
AtomicOp there adds, swaps or compares and swaps, and answers the old value (R332; its sizes and alignment are the model's presumption,
assumption 103). Where it touches what assumptions 49, 56, 83, 85 and 103 decide, it states the model's choice. -/
def Obligations.HostPortServesReadsAndWrites : Prop :=
  (let host := fun (s : State) (f : HostRegs → HostRegs) => { s with dev := { s.dev with host := f s.dev.host } }
  let pre := fun (s : State) (f : Pre → Pre) => { s with dev := { s.dev with pre := f s.dev.pre } }
  let ring := fun (s : State) (f : Ring → Ring) => { s with dev := { s.dev with tel := f s.dev.tel } }
  let samples := fun (s : State) (f : Ring → Ring) => { s with dev := { s.dev with smp := f s.dev.smp } }
  (∀ (s : State) (v : DWord), let n := v.toNat
    exec (.registerWrite .hosterr v) s = .next (host s fun h => { h with hosterr := h.hosterr &&& ((2 ^ 64 - 1) ^^^ n) }) ∧
    exec (.registerWrite .msixstat v) s = .next (host s fun h => { h with msix := h.msix &&& ((2 ^ 64 - 1) ^^^ n) }) ∧
    exec (.registerWrite .devnum v) s = .next (if s.dev.pre.resident then s else host s fun h => { h with devnum := n % 1024 }) ∧
    (∀ off size, exec (.registerWrite (.other off size) v) s = .next (if (size = 4 ∨ size = 8) ∧ off % size = 0 then s
      else host s fun h => { h with hosterr := h.hosterr ||| 1 })) ∧
    (s.dev.sec.bootstat = 1 →
      exec (.registerWrite .btbase v) s =
        .next (if s.dev.pre.resident then s else host s fun h => { h with btBase := n / 2 ^ 17 * 2 ^ 17 }) ∧
      exec (.registerWrite .ptroot v) s = .next (host s fun h => { h with ptRoot := n / 2 ^ 16 * 2 ^ 16, ptClass := n % 16 }) ∧
      exec (.registerWrite .ctxbase v) s = .next (pre s fun p => { p with ctxBase := n / 2 ^ 30 * 2 ^ 30 }) ∧
      exec (.registerWrite .dumpbase v) s = .next (pre s fun p => { p with dumpBase := n / 2 ^ 12 * 2 ^ 12 }) ∧
      exec (.registerWrite .farTimeout v) s = .next (host s fun h => { h with farTimeout := min (max n 1000000) 64000000 }) ∧
      exec (.registerWrite .hostTimeout v) s = .next (host s fun h => { h with hostTimeout := min (max n 1000000) 64000000 }) ∧
      exec (.registerWrite .fabricTimeout v) s = .next (host s fun h => { h with fabricTimeout := min (max n 100000) 64000000 }) ∧
      exec (.registerWrite .dumpsize v) s = .next (pre s fun p => { p with dumpSize := (v.extractLsb' 12 28).toNat }) ∧
      exec (.registerWrite .assaypol v) s = .next (host s fun h => { h with assayPol := n % 2 }) ∧
      exec (.registerWrite .assayn v) s = .next (host s fun h => { h with assayN := n % 2 ^ 32 }) ∧
      exec (.registerWrite .telBase v) s = .next (ring s fun r => { r with base := n }) ∧
      exec (.registerWrite .telSize v) s = .next (ring s fun r => { r with size := n, head := 0, tail := 0 }) ∧
      exec (.registerWrite .telTail v) s = .next (ring s fun r => { r with tail := n }) ∧
      exec (.registerWrite .sampleBase v) s = .next (samples s fun r => { r with base := n }) ∧
      exec (.registerWrite .sampleSize v) s = .next (samples s fun r => { r with size := n, head := 0, tail := 0 }) ∧
      exec (.registerWrite .sampleTail v) s = .next (samples s fun r => { r with tail := n }) ∧
      (∀ k, exec (.registerWrite (.attnonce k) v) s = .next { s with dev := { s.dev with
        sec := { s.dev.sec with attNonce := Tbl.set s.dev.sec.attNonce k n } } }) ∧
      (∀ k, exec (.registerWrite (.dbgtoken k) v) s = .next { s with dev := { s.dev with
        sec := { s.dev.sec with token := Tbl.set s.dev.sec.token k n } } }) ∧
      (∀ i, n % 1024 = i → exec (.registerWrite .fqdone v) s = (let t := host s fun h => { h with fqDone := i + (v.extractLsb' 16 2).toNat * 2 ^ 16 }
        match (v.extractLsb' 16 2).toNat with
        | 1 => exec (.fqdoneMapped i) t
        | 2 => exec (.fqdoneFatal i) t
        | _ => .next (host t fun h => { h with hosterr := h.hosterr ||| 4 }))) ∧
      exec (.registerWrite .pwrcap v) s = .next { s with dev := { s.dev with
        power := { s.dev.power with cap := max (n % 2 ^ 12) 600, enabled := v.getLsbD 12 } } })) ∧
  (∀ (s : State), s.dev.sec.bootstat ≠ 1 →
    (∀ r v, r ≠ .devnum → r ≠ .hosterr → r ≠ .msixstat → (∀ off size, r ≠ .other off size ∧ r ≠ .badRead off size) → (∀ high x, r ≠ .half high x) →
      exec (.registerWrite r v) s = .next s ∧ ∀ high, exec (.registerWrite (.half high r) v) s = .next s) ∧
    (∀ i, exec (.btsync i) s = .next s) ∧ (∀ va, exec (.ptsync va) s = .next s) ∧ (∀ c v, exec (.classWindowWrite c v) s = .next s) ∧
    ∀ off bs op, exec (.windowCWrite off ⟨bs, op⟩) s = .next s) ∧
  (∀ (s : State) (v : DWord) (high : Bool), let n := v.toNat % 2 ^ 32
    let whole := fun (x : Nat) => BitVec.ofNat 64 (if high then x % 2 ^ 32 + n * 2 ^ 32 else n + x / 2 ^ 32 * 2 ^ 32)
    (∀ r ∈ [HostReg.hosterr, .msixstat], exec (.registerWrite (.half high r) v) s = exec (.registerWrite r (whole 0)) s) ∧
    ∀ p ∈ [(HostReg.devnum, State.HostView.devnum), (.btbase, .btbase), (.ptroot, .ptroot), (.ctxbase, .ctxbase), (.dumpbase, .dumpbase),
        (.dumpsize, .dumpsize), (.farTimeout, .farTimeout), (.hostTimeout, .hostTimeout), (.fabricTimeout, .fabricTimeout), (.pwrcap, .pwrcap),
        (.assaypol, .assaypol), (.assayn, .assayn), (.telBase, .telBase), (.telSize, .telSize), (.telTail, .telTail),
        (.sampleBase, .sampleBase), (.sampleSize, .sampleSize), (.sampleTail, .sampleTail)] ++
        (List.finRange 6).map (fun k => (HostReg.attnonce k, State.HostView.attnonce k)) ++
        (List.finRange 28).map (fun k => (HostReg.dbgtoken k, State.HostView.dbgtoken k)),
      s.hostRead p.2 < 2 ^ 64 → exec (.registerWrite (.half high p.1) v) s = exec (.registerWrite p.1 (whole (s.hostRead p.2))) s) ∧
  (∀ (s : State) (off size : Nat) (v : DWord), ¬((size = 4 ∨ size = 8) ∧ off % size = 0) → exec (.registerWrite (.badRead off size) v) s =
    .next (host s fun h => { h with hosterr := h.hosterr ||| 1, lastRead := List.replicate size 0 })) ∧
  (∀ (s : State) (i : Fin 4096) (k : Fin 4) (v : DWord), let b := s.dev.host.btBase
    s.dev.sec.bootstat = 1 → s.dev.mem.wf = true → b % 2 ^ 17 = 0 → b + 2 ^ 17 ≤ 256 * (s.dev.window 14).wsize * 2 ^ 26 →
    (∀ l, s.dev.classLoc 14 (b + 32 * i.val + 8 * k.val) = some l → s.dev.lostAt l = false) →
    ∃ t, exec (.registerWrite (.btentry i k) v) s = .next t ∧ t.ctx = s.ctx ∧
      t.dev = { s.dev with mem := t.dev.mem, btStale := t.dev.btStale } ∧
      t.dev.entryBytes i = patch (s.dev.entryBytes i) (8 * k.val) (toBytes 8 v.toNat) ∧ (∀ j, j < 4096 → j ≠ i.val → t.dev.entryBytes j = s.dev.entryBytes j) ∧
      (Tbl.mem s.dev.btStale i = false → Tbl.find? t.dev.btStale i = some (s.dev.entryBytes i))) ∧
  (∀ (s : State) (i : Fin 4096), s.dev.sec.bootstat = 1 →
    ∃ t, exec (.btsync i) s = .next t ∧ t = { s with dev := { s.dev with btStale := t.dev.btStale } } ∧ t.entry i = parseEntry (s.dev.entryBytes i)) ∧
  (∀ (s : State) (va : DWord), s.dev.sec.bootstat = 1 →
    ∃ t, exec (.ptsync va) s = .next t ∧ t = { s with dev := { s.dev with tlb := t.dev.tlb } } ∧ t.translate va.toNat = s.dev.walk va.toNat) ∧
  (∀ (s : State) (v : DWord), exec (.cwinWrite v) s = .next (if s.dev.pre.resident then host s fun h => { h with hosterr := h.hosterr ||| 2 }
    else host s fun h => { h with cwin := v.toNat })) ∧
  ∀ (s : State) (c : Fin 15) (v : Word), let w := s.dev.window c
    let start := (v.extractLsb' 0 5).toNat
    let size := (v.extractLsb' 8 6).toNat
    let meets := ∃ k, k < 15 ∧ k ≠ c.val ∧ start < (s.dev.window k).wstart + (s.dev.window k).wsize ∧ (s.dev.window k).wstart < start + size ∧
      0 < size ∧ 0 < (s.dev.window k).wsize ∧ ∃ x, x ∈ State.classChannels c ∧ x ∈ State.classChannels k
    s.dev.sec.bootstat = 1 →
    ∃ t, exec (.classWindowWrite c v) s = .next t ∧ t = { s with dev := { s.dev with classes := t.dev.classes } } ∧
      (∀ k, k ≠ c.val → t.dev.window k = s.dev.window k) ∧
      ((s.dev.pre.resident = true ∨ 32 < size ∨ 32 < start + size ∨ meets) → t.dev.window c = { w with err := true }) ∧
      (s.dev.pre.resident = false → size ≤ 32 → start + size ≤ 32 → ¬meets → t.dev.window c = ⟨start, size, w.err && !v.getLsbD 14⟩)) ∧
  (let answered := fun (s : State) (bs : List Byte) => { s with dev := { s.dev with host := { s.dev.host with lastRead := bs } } }
  (∀ (s : State), s.dev.sec.bootstat ≠ 1 → exec .fqnextRead s = .next (answered s (toBytes 8 0)) ∧
    exec .lrejectRead s = .next (answered s (toBytes 8 0)) ∧ (∀ c, c < 256 → exec (.refdebtRead c) s = .next (answered s (toBytes 8 0))) ∧
    ∀ off n, exec (.windowCRead off n) s = .next (answered s (List.replicate n 0))) ∧
  (∀ (s : State) (r : State.HostView), s.dev.sec.bootstat ≠ 1 → r ∉ [.devid, .devnum, .lcstate, .bootstat, .hosterr, .cwin, .msixstat] →
    s.hostRead r = 0) ∧
  (∀ (s : State), s.hostRead .devid = 0x4C4D0006 ∧ s.hostRead .devnum = s.dev.host.devnum ∧ s.hostRead .lcstate = s.dev.sec.lcstate ∧
    s.hostRead .bootstat = s.dev.sec.bootstat ∧ s.hostRead .hosterr = s.dev.host.hosterr ∧ s.hostRead .cwin = s.dev.host.cwin ∧
    s.hostRead .msixstat = s.dev.host.msix) ∧
  (∀ (s : State) (r : State.HostView), s.hostReadHalf r false < 2 ^ 32 ∧ s.hostReadHalf r true < 2 ^ 32 ∧
    s.hostReadHalf r false + 2 ^ 32 * s.hostReadHalf r true = s.hostRead r % 2 ^ 64) ∧
  (∀ (s : State) (c : Fin 15), s.dev.sec.bootstat = 1 → let w := s.dev.window c
    s.hostRead .btbase = s.dev.host.btBase ∧ s.hostRead .ptroot = s.dev.host.ptRoot + s.dev.host.ptClass ∧
    s.hostRead .fqstat = s.ctx.fq.length + (if s.ctx.fq.length = 1024 then 2 ^ 11 else 0) ∧
    s.hostRead .preempt = boolNat s.dev.pre.req + boolNat s.dev.pre.done * 2 + boolNat s.dev.pre.restore * 4 + boolNat s.dev.pre.resident * 8 ∧
    s.hostRead (.classWindow c) = w.wstart % 32 + w.wsize % 64 * 2 ^ 8 + boolNat w.err * 2 ^ 14 ∧
    ∀ k, (s.hostRead .lbusy).testBit k = true ↔ ∃ x, (k, x) ∈ s.dev.launch.slots ∧ x ≠ .empty) ∧
  (∀ (s : State), s.dev.sec.bootstat = 1 → let h := s.dev.host; let p := s.dev.pre; let x := s.dev.sec; let l := s.dev.launch
    (s.hostRead .fqdone = h.fqDone ∧ s.hostRead .farTimeout = h.farTimeout ∧ s.hostRead .hostTimeout = h.hostTimeout ∧
      s.hostRead .fabricTimeout = h.fabricTimeout ∧ s.hostRead .assaypol = h.assayPol ∧ s.hostRead .assayn = h.assayN ∧
      s.hostRead .rbDone = boolNat h.rbDone ∧ (∀ k, s.hostRead (.rbRequest k) = h.rbReq.getD k 0) ∧
      (∀ k, s.hostRead (.rbReply k) = numAt h.rbReply (8 * k.val) 8) ∧ s.hostRead .dbgctl = h.dbgctl ∧ s.hostRead .ctxbase = p.ctxBase ∧ s.hostRead .dumpbase = p.dumpBase ∧
      s.hostRead .dumpsize = p.dumpSize * 2 ^ 12 ∧ s.hostRead .pwrcap = s.dev.power.cap + boolNat s.dev.power.enabled * 2 ^ 12) ∧
    (s.hostRead .telBase, s.hostRead .telSize, s.hostRead .telHead, s.hostRead .telTail, s.hostRead .telDrop) =
      (s.dev.tel.base, s.dev.tel.size, s.dev.tel.head, s.dev.tel.tail, s.dev.tel.drop) ∧
    (s.hostRead .sampleBase, s.hostRead .sampleSize, s.hostRead .sampleHead, s.hostRead .sampleTail, s.hostRead .sampleDrop) =
      (s.dev.smp.base, s.dev.smp.size, s.dev.smp.head, s.dev.smp.tail, s.dev.smp.drop) ∧
    (s.hostRead .btsync = 0 ∧ s.hostRead .ptsync = 0 ∧ s.hostRead .attreq = 0) ∧
    (∀ k, s.hostRead (.attnonce k) = Tbl.get 0 x.attNonce k) ∧ (∀ k, s.hostRead (.attrep k) = numAt x.attRep (8 * k.val) 8) ∧
    (∀ k, s.hostRead (.dbgnonce k) = numAt (slice (Config.nonce x.nonceIndex) 0 48) (8 * k.val) 8) ∧
    (∀ k, s.hostRead (.dbgtoken k) = Tbl.get 0 x.token k) ∧ s.hostRead .dbgload = x.dbgLoad ∧
    (∀ b, s.hostRead (.certificate b) = (Config.certificate b).toNat) ∧
    s.hostRead .lreject = l.rejCause % 128 + l.rejSlot * 2 ^ 8 + l.rejCount * 2 ^ 16 + l.rejDrop * 2 ^ 24 ∧
    (∀ c, let y := s.dev.channel c.val
      s.hostRead (.refdebt c) = (y.debt % 32).toNat + y.peak % 16 * 2 ^ 8 + y.forced % 2 ^ 16 * 2 ^ 16) ∧
    (∀ c, let y := s.circle c.val
      s.hostRead (.circctl c) = (match y.state with | .free => 0 | .active => 1 | .broken => 2) + boolNat y.crier * 4 + boolNat y.err * 8 +
        y.index % 1024 * 2 ^ 8 + y.last % 1024 * 2 ^ 18 + y.incarn % 2 ^ 16 * 2 ^ 32 + y.gapus % 2 ^ 16 * 2 ^ 48) ∧
    ((∀ y ∈ s.ctx.fq, y.2.read = true) → s.hostRead .fqnext = 0) ∧
    ∀ i r, Tbl.find? s.ctx.fq i.val = some r → r.va < 2 ^ 48 → r.va % 2 ^ 16 = 0 → r.buf < 4096 → r.gridId < 2 ^ 16 →
      s.hostRead (.fqrec i 0) = r.va + r.buf * 2 ^ 48 + boolNat r.wr * 2 ^ 60 ∧ s.hostRead (.fqrec i 1) = r.gridId) ∧
  (∀ (s : State), s.dev.sec.bootstat = 1 →
    ((∀ x ∈ s.ctx.fq, x.2.read = true) → exec .fqnextRead s = .next (answered s (toBytes 8 0))) ∧
    ∀ i x, (i, x) ∈ s.ctx.fq → x.read = false → (∀ y ∈ s.ctx.fq, y.2.read = false → y ≠ (i, x) → x.order < y.2.order) →
      exec .fqnextRead s = .next (answered { s with ctx := { s.ctx with fq := Tbl.set s.ctx.fq i { x with read := true } } } (toBytes 8 (i + 2 ^ 15)))) ∧
  (∀ (s : State), let l := s.dev.launch
    s.dev.sec.bootstat = 1 → exec .lrejectRead s = .next (answered { s with dev := { s.dev with launch := { l with rejCause := 0, rejSlot := 0, rejCount := 0, rejDrop := 0 } } }
      (toBytes 8 (l.rejCause % 128 + l.rejSlot * 2 ^ 8 + l.rejCount * 2 ^ 16 + l.rejDrop * 2 ^ 24)))) ∧
  (∀ (s : State) (c : Nat), let x := s.dev.channel c
    s.dev.sec.bootstat = 1 → c < 256 → ∃ t, exec (.refdebtRead c) s = .next t ∧
      t.dev.host.lastRead = toBytes 8 ((x.debt % 32).toNat + x.peak % 16 * 2 ^ 8 + x.forced % 2 ^ 16 * 2 ^ 16) ∧
      t.dev.channel c = { x with peak := 0, forced := 0 } ∧ (∀ k, k ≠ c → t.dev.channel k = s.dev.channel k) ∧ t.ctx = s.ctx ∧ t.dev.mem = s.dev.mem) ∧
  (∀ (s : State) (off n : Nat), let at' := fun (i : Nat) => s.dev.classLoc s.cwinClass (s.cwinBase + off + i)
    s.dev.sec.bootstat = 1 → (∀ i l, i < n → at' i = some l → Tbl.mem s.ctx.custody (l / 128) = false) →
    exec (.windowCRead off n) s = .next (answered s ((List.range n).map fun i => match at' i with
      | some l => s.dev.mem.read l
      | none => 0xFF))) ∧
  (∀ (s : State) (off loc n : Nat) (bs : List Byte) (op : HostOp), let a := s.cwinBase + off
    let old := s.dev.mem.readBytes loc n
    let done := fun (new : List Byte) => ∃ t, exec (.windowCWrite off ⟨bs, op⟩) s = .next t ∧ Stored s t loc new ∧ t.dev.host.lastRead = old ∧
      s.now < t.dev.hostWct ∧ t.ctx = { s.ctx with triggers := t.ctx.triggers }
    s.dev.sec.bootstat = 1 → (∀ i, i < n → s.dev.classLoc s.cwinClass (a + i) = some (loc + i)) → (n = 4 ∨ n = 8 ∨ n = 16 ∧ op = .cas) →
    off % n = 0 → Tbl.mem s.ctx.custody (loc / 128) = false → s.dev.lostAt loc = false →
    (op = .fetchAdd → bs.length = n → done (toBytes n (ofBytes old + ofBytes bs))) ∧ (op = .swap → bs.length = n → done bs) ∧
    (op = .cas → bs.length = 2 * n → bs.take n = old → done (bs.drop n)) ∧
    (op = .cas → bs.length = 2 * n → bs.take n ≠ old → exec (.windowCWrite off ⟨bs, op⟩) s = .next (answered s old))) ∧
  ∀ (s : State) (off loc : Nat) (bs : List Byte), let a := s.cwinBase + off
    s.dev.sec.bootstat = 1 → bs ≠ [] → a % 128 + bs.length ≤ 128 → s.dev.classLoc s.cwinClass a = some loc →
    Tbl.mem s.ctx.custody (loc / 128) = false → s.dev.lostAt loc = false →
    ∃ t, exec (.windowCWrite off ⟨bs, .plain⟩) s = .next t ∧ Stored s t loc bs ∧ s.now < t.dev.hostWct ∧ s.dev.hostWct ≤ t.dev.hostWct ∧
      t.ctx = { s.ctx with triggers := t.ctx.triggers })

/-! The health of the device (R88 to R97, R162, R163, R342 to R348) and its ports (R249 to R252). -/

/-- Of a channel, REFRESH_TICK raises the debt by 1 at tREFI, or at half of it above 85 C, to 8 at most, and REFRESH_ISSUE lowers it to -8
at least, counting a forced one (R88, R89). CHANNEL_ACCESS counts a corrected error of its row, whose fourth moves the row to a spare of
its bank (R92), marks a sector with an uncorrectable error (R90), and loses a channel, which halts the context (R94); the far and host
ports deliver poison too (R95, R96), and an uncorrectable error in a core's own memories halts the context (R319). SCRUB_ROW does so for
what it finds and starts the row's count anew (R92). The places of rows and banks are the model's choice. A message of the grandmaster
more than 30 ns away, or none for 1 ms, takes the device into TIMEFREE, where every copy of another device's line is dropped, and 10 ms
of good ones out of it, each with vector 6; DTIME is loaded only while no context is resident (R162, R163). A core die above 105 C slows
the clock to its lowest step, and any die at 115 C or stack at 100 C asks for pre-emption with vector 7, at the first such reading and
at every later one that finds a context, until all have cooled (R347). The average power moves the step down above the cap and up after
10 ms below 95 % of it (R348). Every 100 ms TELEMETRY_MONITOR writes a record of type 3, the hottest sensors first, at the ring's head,
if there is room (R346). SAMPLE_INTERVAL writes the sample of the core's last cycle of the interval at the ring's head and steps the
LFSR for the next interval (R345). Where it touches what assumptions 10, 51, 52 and 96 decide, it states the model's choice. -/
def Obligations.ChannelsTimeAndSensors : Prop :=
  (let others := fun (s t : State) (c : Nat) => (∀ k, k ≠ c → t.dev.channel k = s.dev.channel k) ∧ t.ctx = s.ctx ∧
    ∀ a, a < hostBase → t.dev.mem.read a = s.dev.mem.read a
  (∀ (s : State) (c : Nat), let x := s.dev.channel c
    (x.nextTick ≤ s.now → x.debt < 8 → ∃ t, exec (.refreshTick c) s = .next t ∧ others s t c ∧ t.dev.channel c =
      { x with debt := x.debt + 1, peak := max x.peak (x.debt + 1).toNat, nextTick := x.nextTick + if x.hot then 1950 else 3900 }) ∧
    (-8 < x.debt → ∃ t, exec (.refreshIssue c) s = .next t ∧ others s t c ∧ t.dev.channel c =
      { x with debt := x.debt - 1, forced := if x.debt = 8 then min (x.forced + 1) 0xFFFF else x.forced })) ∧
  (∀ (s : State) (c sector : Nat), let x := s.dev.channel c
    let row := State.rowOf sector
    let n := Tbl.get 0 x.rowErrs row + 1
    let bank := State.bankOf row
    let used := Tbl.get 0 x.sparesUsed bank
    c < 256 →
    exec (.channelAccess c sector .clean) s = .next s ∧
    (n < 4 → ∃ t, exec (.channelAccess c sector .corrected) s = .next t ∧ others s t c ∧
      t.dev.channel c = { x with rowErrs := Tbl.set x.rowErrs row n }) ∧
    (4 ≤ n → used < 16 → ∃ t, exec (.channelAccess c sector .corrected) s = .next t ∧ others s t c ∧
      (Tbl.find? (t.dev.channel c).remaps row, Tbl.find? (t.dev.channel c).sparesUsed bank, Tbl.find? (t.dev.channel c).rowErrs row) =
        (some used, some (used + 1), none)) ∧
    (∃ t, exec (.channelAccess c sector .uncorrectable) s = .next t ∧
      t = { s with dev := { s.dev with poison := Tbl.set s.dev.poison (c * 2 ^ 25 + sector) true } }) ∧
    (∃ t, exec (.channelAccess c sector .lost) s = .next t ∧ t.dev.channel c = { x with lost := true } ∧
      (∀ k, k ≠ c → t.dev.channel k = s.dev.channel k) ∧ t.dev.mem = s.dev.mem ∧ (s.dev.pre.resident = false → t.ctx = s.ctx) ∧
      (s.dev.pre.resident = true → s.ctx.halt = none → ∃ h, t.ctx = { s.ctx with halt := some h } ∧ h.cause = cLOST ∧ h.broadcast = false)) ∧
    ∃ t, exec (.scrubRow c row [(sector, .uncorrectable)]) s = .next t ∧ others s t c ∧ Tbl.find? t.dev.poison (c * 2 ^ 25 + sector) = some true ∧
      t.dev.channel c = { x with rowErrs := Tbl.erase x.rowErrs row }) ∧
  (∀ (s : State) (c sector : Nat), c = 256 ∨ c = 257 →
    exec (.channelAccess c sector .uncorrectable) s =
      .next { s with dev := { s.dev with poison := Tbl.set s.dev.poison ((if c = 256 then farBase else hostBase) / 64 + sector) true } }) ∧
  ∀ (s : State) (c sector : Nat), 512 ≤ c → s.dev.pre.resident = true → s.ctx.halt = none →
    ∃ t h, exec (.channelAccess c sector .uncorrectable) s = .next t ∧ t = { s with ctx := { s.ctx with halt := some h, cores := t.ctx.cores } } ∧
      h.broadcast = false ∧ (∀ k, k ≠ c - 512 → t.core k = s.core k) ∧ t.core (c - 512) = { s.core (c - 512) with bad := (t.core (c - 512)).bad } ∧
      ∀ i, i ∈ (t.core (c - 512)).bad ↔ i = sector ∨ i ∈ (s.core (c - 512)).bad) ∧
  (let dropped := fun (s : State) => { s.ctx with cores := s.ctx.cores.map fun c =>
    (c.1, { c.2 with cache := c.2.cache.filter fun l => decide (l.1 < 2 ^ 90) }) }
  let only := fun (s t : State) => t.dev.dtime = s.dev.dtime ∧ ∀ a, a < 2 ^ 64 → t.dev.mem.read a = s.dev.mem.read a
  (∀ (s : State) (o : Int), let x := s.dev.time
    ∃ t, exec (.ptpSyncMessage o) s = .next t ∧ only s t ∧
      (-30 ≤ o → o ≤ 30 → t.ctx = s.ctx ∧ t.dev.time = { x with lastSync := s.now, offset := o, goodSince := some (x.goodSince.getD s.now) }) ∧
      ((o < -30 ∨ 30 < o) → t.dev.time = ⟨true, s.now, none, o⟩ ∧ (x.free = false → t.ctx = dropped s ∧ bit t.dev.host.msix 6 = true) ∧
        (x.free = true → t.ctx = s.ctx))) ∧
  (∀ s : State, s.dev.time.lastSync + 1000000 ≤ s.now → s.dev.time.free = false →
    ∃ t, exec .timefreeTimeout s = .next t ∧ only s t ∧ t.ctx = dropped s ∧ t.dev.time = { s.dev.time with free := true, goodSince := none } ∧ bit t.dev.host.msix 6 = true) ∧
  (∀ (s : State) (d : Nat), s.dev.time.goodSince = some d → d + 10000000 ≤ s.now → s.dev.time.free = true →
    ∃ t, exec .timefreeExit s = .next t ∧ only s t ∧ t.ctx = s.ctx ∧ t.dev.time = { s.dev.time with free := false } ∧ bit t.dev.host.msix 6 = true) ∧
  ∀ (s : State) (v : DWord), exec (.dtimeLoad v) s = .next (if s.dev.sec.bootstat ≠ 1 ∨ s.dev.pre.resident then s else
    { s with dev := { s.dev with dtime := v.toNat, time := { s.dev.time with lastSync := v.toNat, goodSince := none } } })) ∧
  ((∀ (s : State) (core base stack : List Nat), let p := s.dev.power
    let hot := core.any fun x => decide (840 < x)
    let trip := (core ++ base ++ stack).any (fun x => decide (920 ≤ x)) || stack.any fun x => decide (800 ≤ x)
    let cool := (core ++ base).all (fun x => decide (x ≤ 760)) && stack.all fun x => decide (x ≤ 640)
    let ask := s.dev.pre.resident = true ∧ s.dev.pre.req = false ∧ s.ctx.halt = none
    (core.length ≠ 48 ∨ base.length ≠ 4 ∨ stack.length ≠ 16 → exec (.sensorPoll core base stack) s = .next s) ∧
    (core.length = 48 → base.length = 4 → stack.length = 16 →
    ∃ t, exec (.sensorPoll core base stack) s = .next t ∧ (∀ a, a < 2 ^ 64 → t.dev.mem.read a = s.dev.mem.read a) ∧
      t.dev.power.temps = core ++ base ++ stack ∧
      (hot = true → t.dev.power.overheated = true ∧ t.dev.power.step = 5) ∧ (hot = false → t.dev.power.step = p.step) ∧
      (trip = true → t.dev.power.tripped = true ∧ (p.tripped = false → bit t.dev.host.msix 7 = true) ∧
        (ask → bit t.dev.host.msix 7 = true ∧ t.dev.power.preemptAt = some s.now ∧ t.dev.pre = { s.dev.pre with req := true, done := false } ∧
          t.ctx = { s.ctx with custody := s.ctx.custody.map fun x => (x.1, { x.2 with ret := true }) }) ∧
        (s.dev.pre.resident = false ∨ s.ctx.halt ≠ none ∨ p.tripped = true ∧ s.dev.pre.req = true →
          t.ctx = s.ctx ∧ t.dev.pre = s.dev.pre ∧ t.dev.power.preemptAt = p.preemptAt)) ∧
      (trip = false → t.ctx = s.ctx ∧ t.dev.pre = s.dev.pre ∧ t.dev.power.tripped = (p.tripped && !cool)) ∧
      ∀ c, c < 256 → (t.dev.channel c).hot = (decide (680 < stack.getD (c / 32 * 2) 0) || decide (680 < stack.getD (c / 32 * 2 + 1) 0)))) ∧
  (∀ (s : State) (w : Nat), let p := s.dev.power
    ∃ t, exec (.powerAverage w) s = .next t ∧ t.ctx = s.ctx ∧ t.dev.pre = s.dev.pre ∧
      t.dev.power = { p with step := t.dev.power.step, belowSince := t.dev.power.belowSince } ∧
      (p.enabled = true → p.cap < w → t.dev.power.step = min (p.step + 1) 5) ∧
      (p.enabled = true → w ≤ p.cap → 95 * p.cap ≤ 100 * w → t.dev.power.step = p.step) ∧
      (p.enabled = true → 100 * w < 95 * p.cap → ∀ d, p.belowSince = some d → d + 10000000 ≤ s.now → p.overheated = false →
        t.dev.power.step = p.step - 1) ∧
      (p.enabled = false → p.overheated = false → t.dev.power.step = p.step - 1)) ∧
  (∀ (s : State) (b : List Byte), let r := s.dev.tel
    s.dev.power.nextMonitor ≤ s.now →
    ∃ t, exec (.telemetryMonitor b) s = .next t ∧ t.ctx = s.ctx ∧ t.dev.power = { s.dev.power with nextMonitor := s.dev.power.nextMonitor + 100000000 } ∧
      (r.size = 0 → t.dev.mem = s.dev.mem ∧ t.dev.tel = r) ∧
      (r.size ≠ 0 → (r.head + 1) % r.size = r.tail % r.size → t.dev.mem = s.dev.mem ∧ t.dev.tel = { r with drop := r.drop + 1 } ∧ bit t.dev.host.msix 4 = true) ∧
      (r.size ≠ 0 → (r.head + 1) % r.size ≠ r.tail % r.size → t.dev.tel = { r with head := (r.head + 1) % r.size } ∧
        Stored s t (hostBase + r.base + 64 * (r.head % r.size)) (slice (toBytes 8 3 ++ toBytes 8 (s.now % 2 ^ 64) ++ s.hottest ++ b) 0 64))) ∧
  ∀ (s : State) (core : Nat), let c := s.coreDev core
    let r := s.dev.smp
    let l := State.lfsrStep c.lfsr
    bit c.sampleCtl 0 = true → c.sampleAt < s.dev.cycle →
    ∃ t, exec (.sampleInterval core) s = .next t ∧ t.ctx = s.ctx ∧ (t.coreDev core).lfsr = l ∧
      (t.coreDev core).sampleAt = c.sampleAt + State.sampleInterval c.sampleCtl l ∧
      (r.size ≠ 0 → (r.head + 1) % r.size ≠ r.tail % r.size → t.dev.smp = { r with head := (r.head + 1) % r.size } ∧
        Stored s t (hostBase + r.base + 32 * (r.head % r.size)) (s.sampleRecord core (if c.lastCycle = c.sampleAt then c.lastIssue else none)).1) ∧
      (r.size = 0 ∨ (r.head + 1) % r.size = r.tail % r.size → t.dev.mem = s.dev.mem ∧ t.dev.smp = { r with drop := r.drop + 1 } ∧
        bit t.dev.host.msix 4 = true))

/-- A store whose port's link goes down, or whose answer is later than the fabric's timeout, is over, its error the first in its gang's
store set: FAR_MEMORY, the host port told apart, or FABRIC_TIMEOUT (R97, R252). A completion later than its port's timeout counts as the
link's going down. LINK_UP_REPORT and FABRIC_PORT_DOWN change the port. A remote read of plain memory is answered with its bytes, a
remote write with its WCT once it is performed, a request waits while no context is resident, and one that has waited for the fabric
timeout ends with FABRIC_TIMEOUT (the model's choice, assumption 101), and a message from what is neither a Q6 nor a Lomerod is not
taken (R249, R251, R252). Where it touches what assumptions 14, 49 and 101 decide, it states the model's choice. -/
def Obligations.PortsFailAndAnswer : Prop :=
  let failed := fun (s t : State) (id : Nat) (x : Access) (e : Err) => t.access? id = none ∧ t.dev.mem = s.dev.mem ∧
    (Tbl.get StoreSet.none (t.gang x.gang).stores (State.setKey x.path true)).err = some e ∧
    ∀ k, t.gang k = { s.gang k with stores := (t.gang k).stores }
  let owed := fun (s : State) (id : Nat) (x : Access) (r : Req) => s.access? id = some x ∧ x.kind = .store ∧ x.reqs = [r] ∧ x.erred = false ∧
    x.orphan = false ∧ x.work = none ∧ x.reply = none ∧ (s.gang x.gang).live = true ∧ (s.entryOf x).system = true ∧
    (Tbl.get StoreSet.none (s.gang x.gang).stores (State.setKey x.path true)).err = none
  let up := fun (p : Sys2Proof.Port) (d : Dev) => match p with
    | .far => d.farUp
    | .host => d.hostUp
    | .fabric k => d.ports.getLsbD k.val
  (∀ (s : State) (p : Sys2Proof.Port) (id : Nat) (x : Access) (r : Req), let e : Err := ⟨cFAR, bref x.handle r.off, State.portInfo p⟩
    owed s id x r → (s.entryOf x).kind = State.portKind p → (∀ k, p ≠ .fabric k) →
    (s.ctx.accs = [(id, x)] → ∃ t, exec (.linkDown p) s = .next t ∧ failed s t id x e ∧ up p t.dev = false) ∧
    (x.since + State.portTimeout s p ≤ s.now → exec (.completionTimeout p id) s = exec (.linkDown p) s) ∧
    (s.now < x.since + State.portTimeout s p → exec (.completionTimeout p id) s = .next s)) ∧
  (∀ (s : State) (id d : Nat) (x : Access) (r : Req), owed s id x r → x.sent = some d → d + s.dev.host.fabricTimeout ≤ s.now → r.lane < 65 → r.lane ∈ x.out →
    ∃ t, exec (.fabricTimeout (State.remoteId id r.lane)) s = .next t ∧ failed s t id x ⟨cTIMEOUT, bref x.handle r.off, 0⟩ ∧ t.dev = s.dev) ∧
  (∀ (s : State) (p : Sys2Proof.Port), ∃ t, exec (.linkUpReport p) s = .next t ∧ t.ctx = s.ctx ∧ up p t.dev = true ∧
    t.dev = { s.dev with farUp := t.dev.farUp, hostUp := t.dev.hostUp, ports := t.dev.ports } ∧ ∀ q, q ≠ p → up q t.dev = up q s.dev) ∧
  (∀ (s : State) (p : Fin 18), ∃ t, exec (.fabricPortDown p) s = .next t ∧ t.ctx = s.ctx ∧ t.dev = { s.dev with ports := t.dev.ports } ∧
    ∀ k, k < 18 → t.dev.ports.getLsbD k = (s.dev.ports.getLsbD k && k != p.val)) ∧
  ∀ (s u : State) (dev buf off : Nat), let sent := fun (u : State) (m : List Nat) (bs : List Byte) => { u with
      eng := s.eng
      ctx := { u.ctx with replies := Tbl.erase u.ctx.replies (portAsk dev buf off) }
      dev := { u.dev with outbox := u.dev.outbox ++ [(dev, m.flatMap (toBytes 8) ++ bs)] } }
    let at' := { s with eng := some (portAsk dev buf off) }
    0 < s.dev.host.fabricTimeout →
    (∀ m, s.dev.pre.resident = false → (∀ d x, m ≠ .held d x) →
      exec (.remoteRequest m) s = .next { s with inputs := s.inputs ++ [.remoteRequest (.held s.now m)] }) ∧
    (∀ d n l, d + s.dev.host.fabricTimeout ≤ s.now → exec (.remoteRequest (.held d (.read dev buf off n l))) s =
      .next (s.refuse dev buf off ⟨cTIMEOUT, bref buf off, 0⟩)) ∧
    (∀ n e bs, s.dev.pre.resident = true → s.ownerCheck buf off n ⟨rR, 1, false, false⟩ = .ok e →
      at'.memRead anyGrid buf off n ⟨rR, 1, false, false⟩ = (u, .ok bs) →
      exec (.remoteRequest (.read dev buf off n false)) s = .next (sent u [40, buf, off, n] bs)) ∧
    (∀ y, s.dev.pre.resident = true → exec (.remoteRequest (.yunait .other y)) s = .next s) ∧
    ∀ bs e w, s.dev.pre.resident = true → s.milled buf true = false → s.ownerCheck buf off bs.length ⟨rW, 1, false, false⟩ = .ok e →
      at'.rawWrite anyGrid buf off bs ⟨rW, 1, false, false⟩ = (u, .ok w) → w.err = none →
      exec (.remoteRequest (.write dev buf off bs)) s = .next (sent u [41, buf, off, w.wct] [])

/-! Pre-emption, halt and dump (R324 to R330, R347), boot, identity, debug and checkpoint (R331, R335 to R341). -/

/-- A write of PREEMPT.REQ asks every line in custody home and stops issue: no slot is given but to a BARA in its fence wait (R311, R324),
nor any after a halt (R327). With nothing in flight CONTEXT_SAVE saves the context: every register as it was, PREEMPT.DONE set, vector 1
raised, and no context resident; with work still under way it does nothing. A restore brings the registers and the grids back, with
every mapped sector's copy gone, where a copy that came from another Q6 fits this one (R132, R324, R326, R382). HALT_BROADCAST writes
HALTED and a count of 0 to every pending token, which names no faulting byte, raises vector 2, and is the halt's instant (R184, R327,
R329). DUMP_WRITE leaves no context resident; it writes a header of form 0xD00006 with the halt's cause, NESTED and LEN, and LEN bytes
in all, within DUMPSIZE, and raises vector 3; with DUMPSIZE 0 or the host port down it writes nothing, and a port that fails while it
writes leaves STATUS 0 (R328 to R330); a whole dump counts its sections. A pre-emption of the controller's own that is not done in 10 ms
halts the context (R347); the cause of that halt is the model's free value. Where it touches what assumptions 10, 53, 54, 55 and 102
decide, it states the model's choice. -/
def Obligations.PreemptionHaltAndDump : Prop :=
  ((∀ s : State, exec .preemptReq s = .next (if s.dev.sec.bootstat = 1 ∧ s.dev.pre.resident ∧ s.ctx.halt = none then
    { s with
      ctx := { s.ctx with custody := s.ctx.custody.map fun x => (x.1, { x.2 with ret := true }) }
      dev := { s.dev with pre := { s.dev.pre with req := true, done := false } } } else s)) ∧
  (∀ (s : State) (c : Issue), s.choose = some (.slot c) → s.ctx.halt = none ∧
    (s.dev.pre.req = true → ((Claims.gang c s).lane ((laneList c.lanes).headD 0)).wait = .bara ∧ c.again = true)) ∧
  (∀ s : State, s.drained = false → exec .contextSave s = .next s) ∧
  (∀ s : State, s.dev.pre.req = true → s.dev.pre.done = false → s.dev.pre.resident = true → s.ctx.halt = none →
    s.drained = true → s.ctx.works = [] → s.ctx.holds = [] → s.areaFault = none →
    ∃ t c, exec .contextSave s = .next t ∧ t.ctx = Ctx.empty ∧ Tbl.find? t.saved s.dev.pre.ctxBase = some c ∧
      t.dev.pre = { s.dev.pre with req := false, done := true, resident := false } ∧ bit t.dev.host.msix 1 = true ∧
      c = { s.ctx with gangs := c.gangs, cores := c.cores, accs := s.ctx.accs.filter fun a => a.2.kind != .prefetch, circles := c.circles } ∧
      (∀ k, Tbl.get Core.empty c.cores k = { s.core k with cache := [], latch := none } ∧
        Tbl.get Circle.free c.circles k = { s.circle k with gapSince := none }) ∧
      ∀ k, let h := Tbl.get Gang.absent c.gangs k
        h = { s.gang k with lanes := h.lanes } ∧ ∀ l, h.lane l = { (s.gang k).lane l with wait := (h.lane l).wait }) ∧
  ∀ (s : State) (c : Ctx),
    (s.dev.pre.resident = true ∨ s.dev.power.tripped = true ∨ Tbl.find? s.saved s.dev.pre.ctxBase = none ∨ s.dev.sec.bootstat ≠ 1 ∨
      s.dev.pre.ctxBase ∈ s.dev.carried ∧ s.areaFits = false → exec .preemptRestore s = .next s) ∧
    (Tbl.find? s.saved s.dev.pre.ctxBase = some c → s.dev.sec.bootstat = 1 → s.dev.pre.resident = false → s.dev.power.tripped = false →
      (s.dev.pre.ctxBase ∈ s.dev.carried → s.areaFits = true) → c.wheel = [] → c.triggers = [] →
      (∀ k, (Tbl.get Gang.absent c.gangs k).held = []) → (∀ g ∈ s.ctx.grids, g.1 < 2 ^ 20) →
      (∀ k l, ((Tbl.get Gang.absent c.gangs k).lane l).wait ≠ .bara ∧ ∀ d, ((Tbl.get Gang.absent c.gangs k).lane l).wait ≠ .barw d) →
      ∃ t, exec .preemptRestore s = .next t ∧
        t.ctx = { c with gangs := t.ctx.gangs, teams := t.ctx.teams, mills := t.ctx.mills, circles := t.ctx.circles,
                         order := c.order.map fun o => (o.1, .start s.ticks), stashOld := [] } ∧
        (∀ k, let m := Tbl.get MillPart.zero c.mills k
          Tbl.get MillPart.zero t.ctx.mills k = { m with ctxs := m.ctxs.map fun x => { x with last := s.now } }) ∧
        (∀ k, t.circle k = { Tbl.get Circle.free c.circles k with gapSince := (t.circle k).gapSince }) ∧ t.saved = s.saved ∧
        (∀ a, a < hostBase → t.dev.mem.read a = s.dev.mem.read a) ∧
        t.dev.pre = { s.dev.pre with req := false, done := false, resident := true } ∧ (c.fq ≠ [] → bit t.dev.host.msix 0 = true) ∧
        (∀ k, let g := Tbl.get Gang.absent c.gangs k
          ((t.gang k).s, (t.gang k).z, (t.gang k).fflags, (t.gang k).t, (t.gang k).hset, (t.gang k).hmode) = (g.s, g.z, g.fflags, g.t, g.hset, g.hmode) ∧
            ∀ l, (((t.gang k).lane l).v, ((t.gang k).lane l).g, ((t.gang k).lane l).stack) = ((g.lane l).v, (g.lane l).g, (g.lane l).stack)) ∧
        ∀ k i, let x := Tbl.get Team.absent c.teams k
          t.team k = { x with sectors := (t.team k).sectors } ∧ ((t.team k).sector i) = { x.sector i with expiry := none })) ∧
  ((∀ (s : State) (h : Halt), s.ctx.halt = some h → h.broadcast = false → s.ctx.redHold = [] →
    (∀ w ∈ s.ctx.works, ∀ d n hand f b, w.2.job = .carter d n hand f b → hand = []) →
    ∃ t, exec .haltBroadcast s = .next t ∧
      t.ctx = { s.ctx with halt := some { h with broadcast := true, time := s.now % 2 ^ 64 }, gangs := t.ctx.gangs } ∧
      t.dev = { s.dev with pre := { s.dev.pre with req := false }, host := { s.dev.host with msix := t.dev.host.msix }, mem := t.dev.mem, tel := t.dev.tel } ∧
      (∀ a, a < hostBase → t.dev.mem.read a = s.dev.mem.read a) ∧ bit t.dev.host.msix 2 = true ∧
      ∀ k, t.gang k = { s.gang k with s := (t.gang k).s, tokens := [], engFault := (t.gang k).engFault, engInfo := (t.gang k).engInfo } ∧
        (∀ r, Tbl.get 0 (t.gang k).engFault r = if Tbl.mem (s.gang k).tokens r then 0 else Tbl.get 0 (s.gang k).engFault r) ∧
        ∀ r, (t.gang k).sreg r = if Tbl.mem (s.gang k).tokens r then BitVec.ofNat 32 (2 ^ 31 + 0x32 * 2 ^ 24) else (s.gang k).sreg r) ∧
  (∀ (s : State) (h : Halt), s.ctx.halt = some h → h.broadcast = true →
    let b := hostBase + s.dev.pre.dumpBase
    let m := fun (t : State) (i n : Nat) => ofBytes (t.dev.mem.readBytes (b + i) n)
    let k := s.dev.tel.size = 0
    ∀ secs, s.awaits State.dumpAsk = false → s.sections = .ok secs →
    ∃ t, exec .dumpWrite s = .next t ∧ t.ctx = Ctx.empty ∧ t.dev.pre = { s.dev.pre with req := false, done := false, resident := false } ∧
      (k → s.dev.pre.dumpSize = 0 ∨ s.dev.hostUp = false → t.dev.mem = s.dev.mem) ∧
      (k → s.dev.pre.dumpSize ≠ 0 → s.dev.hostUp = true → s.dev.mem.wf = true →
        m t 0 8 = 0xD00006 ∧ m t 12 4 = h.cause % 128 ∧ m t 16 8 = h.time % 2 ^ 64 ∧
          (t.dev.hostUp = true → bit t.dev.host.msix 3 = true ∧ bit (m t 8 4) 2 = h.nested ∧ (bit (m t 8 4) 0 = true → m t 64 4 = secs.length % 2 ^ 32)) ∧
          (t.dev.hostUp = false → m t 8 4 = 0) ∧
          ∃ n, 256 ≤ n ∧ n ≤ 4096 * s.dev.pre.dumpSize ∧ m t 24 8 = n % 2 ^ 64 ∧ ∀ a, a < b ∨ b + n ≤ a → t.dev.mem.read a = s.dev.mem.read a)) ∧
  ∀ (s : State) (d : Nat), s.dev.power.preemptAt = some d → d + 10000000 ≤ s.now → s.dev.pre.resident = true → s.dev.pre.done = false →
    s.ctx.halt = none →
    ∃ t h, exec .preemptTimeout s = .next t ∧ t.ctx = { s.ctx with halt := some h } ∧ h.nested = false ∧ h.cause = Config.haltCause % 128 ∧
      t.dev = { s.dev with power := { s.dev.power with preemptAt := none } })

/-- RESET leaves memory, its marks, DTIME and the saved areas and begins all else anew; BOOTSTAT says what the boot ROM found of the image
(R335, R338). Once firmware runs, an SVN is only raised, and ATTREQ makes a report of 512 bytes that carries the nonce and is signed
over its first 416 (R337). The life-cycle state only goes up, and entry into RMA zeroes the device's memory and destroys the key (R338).
That memory outlives RESET, and that a wrong length reads BADMAGIC, are the model's choices. Where it touches what assumptions 7, 12, 88
and 89 decide, it states the model's choice. -/
def Obligations.DevicesBootAndProveThemselves : Prop :=
  (∀ (s : State) (f : FwImage), let x := s.dev.sec
    let keys := (List.range 4).filter fun i => Config.fuseKey i == f.keyHash
    let signed := signatureValid f.keyHash (sha384 f.body) f.signature
    ∃ t, exec (.reset f) s = .next t ∧ t.ctx = Ctx.empty ∧ t.cur = none ∧ t.saved = s.saved ∧ t.dev.mem = s.dev.mem ∧ t.dev.poison = s.dev.poison ∧
      t.dev.dtime = s.dev.dtime ∧ t.dev.host = State.reset.dev.host ∧ t.dev.fuseRemaps = s.dev.fuseRemaps ∧ t.dev.classes = State.reset.dev.classes ∧
      (t.dev.sec.lcstate, t.dev.sec.minSvn, t.dev.sec.revoked, t.dev.sec.keyAlive) = (x.lcstate, x.minSvn, x.revoked, x.keyAlive) ∧
      (f.present = false → t.dev.sec.bootstat = 6) ∧
      (f.present = true → f.magic ≠ 0x4C4D4657 → t.dev.sec.bootstat = 2) ∧
      (f.present = true → f.length ≠ f.body.length → t.dev.sec.bootstat = 2) ∧
      (f.present = true → f.magic = 0x4C4D4657 → f.length = f.body.length → (keys = [] → t.dev.sec.bootstat = 3) ∧
        (keys ≠ [] → (∀ i ∈ keys, i ∈ x.revoked) → t.dev.sec.bootstat = 4) ∧
        ((∃ i ∈ keys, i ∉ x.revoked) → (signed = false → t.dev.sec.bootstat = 3) ∧
          (signed = true → t.dev.sec.bootstat = if f.svn.toNat < x.minSvn then 5 else 1)))) ∧
  (∀ (s : State) (v : Word), s.dev.sec.bootstat = 1 →
    exec (.svnRaise v) s = .next { s with dev := { s.dev with sec := { s.dev.sec with minSvn := max s.dev.sec.minSvn v.toNat } } } ∧
    ∃ t r, exec .attreq s = .next t ∧ t = { s with dev := { s.dev with sec := { s.dev.sec with attRep := r } } } ∧ r.length = 512 ∧ numAt r 0 4 = 0x41545354 ∧
      slice r 0x70 48 = toBytes 48 (sha384 (Config.fuseImage s.dev.sec.lcstate s.dev.sec.minSvn s.dev.sec.revoked)) ∧ slice r 0xA0 48 = (List.range 6).flatMap (fun k => toBytes 8 (Tbl.get 0 s.dev.sec.attNonce k)) ∧ numAt r 0xD0 8 = s.now % 2 ^ 64 ∧
      slice r 0x1A0 96 = slice (Config.sign (s.dev.sec.lcstate == 3) (sha384 (slice r 0 0x1A0))) 0 96) ∧
  (∀ (s : State) (v : Word), s.dev.sec.bootstat ≠ 1 → exec (.svnRaise v) s = .next s ∧ exec .attreq s = .next s) ∧
  ∀ s : State, ∃ t, exec .lifeCycleAdvance s = .next t ∧ t.dev.sec.lcstate = min (s.dev.sec.lcstate + 1) 3 ∧
    (s.dev.sec.lcstate < 2 → t.dev.mem = s.dev.mem ∧ t.ctx = s.ctx ∧ t.dev.sec.keyAlive = s.dev.sec.keyAlive) ∧
    (2 ≤ s.dev.sec.lcstate → s.dev.sec.keyAlive = true → t.dev.sec.keyAlive = false ∧ t.ctx = Ctx.empty ∧ t.saved = [] ∧
      t.dev.cores = [] ∧ t.dev.l2 = [] ∧ t.dev.launch.slots = [] ∧ t.dev.host.rbReply = [] ∧ t.dev.host.lastRead = [] ∧ t.dev.sec.fwBody = [] ∧
      ∀ a, t.dev.mem.read a = if a < 2 ^ 39 then 0 else s.dev.mem.read a)

/-- DBGLOAD reads 1 while its token is checked, and then opens the features of a token it accepts and no other (R339). Without LANESTEP a
write of DBGCTL only stays to be read; with it STOP stops a gang, STEP lets a stopped one issue once, and RESUME lets it go (R341); that
the two move lanes past a BKPT is the model's choice. A readback request is answered at once, and waits during a pre-emption or a halt
(R340); entries of the error log that its reply holds count as read. A checkpoint drains L2 and copies the channels, their poison map
and the areas they hold while no context is resident, and a reload brings a copy back, this Q6's or another's, leaves no sector in L2
and changes nothing else but telemetry; a port that fails ends either (R326, R331). Where it touches what assumptions 7, 57, 85, 86 and
88 decide, it states the model's choice. -/
def Obligations.DebugAndCheckpoint : Prop :=
  (∀ s : State, s.dev.sec.bootstat = 1 →
    let x := s.dev.sec
    let k := s.tokenBytes
    (x.dbgLoad ≠ 1 → exec .dbgload s = .next { s with dev := { s.dev with sec := { x with dbgLoad := 1 } }, inputs := s.inputs ++ [.dbgload] }) ∧
    (x.dbgLoad = 1 → exec .dbgload s = .next { s with dev := { s.dev with sec := if s.tokenOk k = true then
      { x with debug := x.debug % 16 ||| bits (numAt k 4 4) 0 4, nonceIndex := x.nonceIndex + 1, dbgLoad := 3, attached := true }
      else { x with dbgLoad := 2 } } })) ∧
  (∀ (s : State) (k : List Byte), s.tokenOk k = true → numAt k 0 4 = 0x4442474B ∧ (s.dev.sec.lcstate = 1 ∨ s.dev.sec.lcstate = 2) ∧
    slice k 0x40 48 = slice (Config.nonce s.dev.sec.nonceIndex) 0 48 ∧
    signatureValid Config.debugKey (sha384 (slice k 0 128)) (slice k 128 96) = true) ∧
  (∀ (s : State) (core gang : Nat), let key := gangKey core gang
    let asked := fun (n : Nat) => { s.dev.host with dbgctl := key / 64 % 256 + key % 64 * 2 ^ 8 + n * 2 ^ 16 }
    let only := fun (n : Nat) (t : State) => t = { s with
        ctx := { s.ctx with gangs := t.ctx.gangs }, dev := { s.dev with host := asked n, sec := { s.dev.sec with attached := true } } } ∧
      ∀ k, k ≠ key → t.gang k = s.gang k
    let past := fun (t : State) => ∀ l, l < 64 → let x := (s.gang key).lane l
      (t.gang key).lane l = if x.cond = .blocked ∧ x.wait = .debug then x.advance ((x.pc + 4) % 2 ^ 32) else x
    let kept := fun (n : Nat) => { s with dev := { s.dev with host := asked n } }
    (s.dev.sec.bootstat ≠ 1 → exec (.dbgctlStop core gang) s = .next s ∧ exec (.dbgctlStep core gang) s = .next s ∧
      exec (.dbgctlResume core gang) s = .next s) ∧
    (s.dev.sec.bootstat = 1 → bit s.dev.sec.debug 1 = false → exec (.dbgctlStop core gang) s = .next (kept 0) ∧
      exec (.dbgctlStep core gang) s = .next (kept 1) ∧ exec (.dbgctlResume core gang) s = .next (kept 2)) ∧
    (s.dev.sec.bootstat = 1 → bit s.dev.sec.debug 1 = true → (s.gang key).live = true →
      (∃ t, exec (.dbgctlStop core gang) s = .next t ∧ only 0 t ∧ t.gang key = { s.gang key with stopped := true, stepOne := false }) ∧
      ((s.gang key).stopped = true →
        (∃ t, exec (.dbgctlStep core gang) s = .next t ∧ only 1 t ∧ past t ∧ t.gang key = { s.gang key with stepOne := true, lanes := (t.gang key).lanes }) ∧
        ∃ t, exec (.dbgctlResume core gang) s = .next t ∧ only 2 t ∧ past t ∧
          t.gang key = { s.gang key with stopped := false, stepOne := false, lanes := (t.gang key).lanes }))) ∧
  (∀ (s : State) (u : RbUnit) (i o n : Nat), s.dev.sec.bootstat = 1 →
    let asked := { s with dev := { s.dev with host := { s.dev.host with rbDone := false, rbReq := [State.unitCode u, i, o, n] } } }
    (s.dev.pre.req = true ∨ s.ctx.halt ≠ none → exec (.readbackRequest u i o n) s = .next { asked with inputs := s.inputs ++ [.readbackRequest u i o n] }) ∧
    (s.dev.pre.req = false → s.ctx.halt = none → exec (.readbackRequest u i o n) s = .next { asked with
      ctx := if u = .log then { s.ctx with logSeen := s.ctx.logSeen ++ (List.range 4096).filter fun k =>
          o ≤ 32 * k && 32 * k + 32 ≤ o + min n 4096 && k < s.ctx.logWrite && !s.ctx.logSeen.contains k } else s.ctx
      dev := { asked.dev with host := { asked.dev.host with rbDone := true, rbReply := slice (asked.unitBytes u i) o (min n 4096) } } })) ∧
  ∀ (s : State) (both : Bool),
    let only := fun (t : State) => t.ctx = s.ctx ∧ t.dev.ckpt = s.dev.ckpt ∧ ∀ a, a < hostBase → t.dev.mem.read a = s.dev.mem.read a
    (s.dev.sec.bootstat ≠ 1 ∨ s.dev.pre.resident = true → ∀ failed other, exec (.checkpoint both failed) s = .next s ∧ exec (.reload ⟨failed, other⟩) s = .next s) ∧
    (s.dev.sec.bootstat = 1 → s.dev.pre.resident = false →
      (∀ failed, failed = true ∨ s.dev.hostUp = false ∨ both = true ∧ s.dev.farUp = false → ∃ t, exec (.checkpoint both failed) s = .next t ∧ only t) ∧
      (s.dev.hostUp = true → (both = true → s.dev.farUp = true) → ∃ t c, exec (.checkpoint both false) s = .next t ∧ t.ctx = s.ctx ∧
        (∀ a, a < hostBase → t.dev.mem.read a = s.dev.mem.read a) ∧ t.dev.ckpt = some c ∧ c.both = both ∧ c.saved = s.saved ∧
        c.poison = s.dev.drainL2.poison.filter (fun x => decide (x.1 < 2 ^ 33)) ∧ ∀ a, c.mem.read a = if a < 2 ^ 39 then s.dev.mem.read a else 0) ∧
      ∀ (other : Bool) (c : Ckpt), (if other then some (Config.carriedCopy s.ticks) else s.dev.ckpt) = some c →
        (s.dev.hostUp = false ∨ c.both = true ∧ s.dev.farUp = false → ∃ t, exec (.reload ⟨false, other⟩) s = .next t ∧ only t) ∧
        (s.dev.hostUp = true → (c.both = true → s.dev.farUp = true) → State.copySound c = true →
          ∃ t, exec (.reload ⟨false, other⟩) s = .next t ∧ t.ctx = s.ctx ∧ t.saved = c.saved ∧ t.dev = { s.dev with
              mem := t.dev.mem, past := [], poison := t.dev.poison, l2 := t.dev.l2, carried := t.dev.carried, tel := t.dev.tel, host := t.dev.host } ∧
            (∀ k, k < 2 ^ 33 → Tbl.find? t.dev.poison k = Tbl.find? c.poison k) ∧ (∀ x ∈ t.dev.l2, x.2.lo = .absent ∧ x.2.hi = .absent) ∧
            (∀ k, k ∈ t.dev.carried ↔ other = true ∧ (Tbl.find? c.saved k).isSome = true) ∧
            ∀ a, a < hostBase → t.dev.mem.read a = if a < 2 ^ 39 then c.mem.read a else s.dev.mem.read a))
end

