-- ==== Sys2Proof/Laws/Table.lean ====
section
/-! SUPPORT. Laws of the sparse tables and of memory: read after write, and the canonical form of memory. -/

namespace Sys2Proof.Machine

namespace Tbl

variable {α : Type}

@[simp] theorem find?_set_same (t : Tbl α) (k : Nat) (x : α) : find? (set t k x) k = some x := by
  induction t with
  | nil => simp [set, find?]
  | cons p t ih =>
    obtain ⟨j, y⟩ := p
    unfold set
    split
    · simp [find?]
    · split
      · simp [find?]
      · simp [find?, *]

theorem find?_set_other (t : Tbl α) {k j : Nat} (x : α) (h : j ≠ k) : find? (set t k x) j = find? t j := by
  induction t with
  | nil => simp [set, find?, Ne.symm h]
  | cons p t ih =>
    obtain ⟨i, y⟩ := p
    unfold set
    split
    · subst i; simp [find?, Ne.symm h]
    · split
      · simp [find?, Ne.symm h]
      · simp [find?, ih]

@[simp] theorem get_set_same (d : α) (t : Tbl α) (k : Nat) (x : α) : get d (set t k x) k = x := by simp [get]

theorem get_set_other (d : α) (t : Tbl α) {k j : Nat} (x : α) (h : j ≠ k) : get d (set t k x) j = get d t j := by
  simp [get, find?_set_other t x h]

theorem get_set (d : α) (t : Tbl α) (k j : Nat) (x : α) : get d (set t k x) j = if j = k then x else get d t j := by
  split
  · subst j; simp
  · simp [get_set_other, *]

@[simp] theorem mem_set_same (t : Tbl α) (k : Nat) (x : α) : mem (set t k x) k = true := by simp [mem]

@[simp] theorem find?_erase_same (t : Tbl α) (k : Nat) : find? (erase t k) k = none := by
  induction t with
  | nil => rfl
  | cons p t ih =>
    obtain ⟨j, y⟩ := p
    unfold erase
    split
    · exact ih
    · simp [find?, *]

theorem find?_erase_other (t : Tbl α) {k j : Nat} (h : j ≠ k) : find? (erase t k) j = find? t j := by
  induction t with
  | nil => rfl
  | cons p t ih =>
    obtain ⟨i, y⟩ := p
    unfold erase
    split
    · subst i; simp [find?, ih, Ne.symm h]
    · simp [find?, ih]

@[simp] theorem mem_erase_same (t : Tbl α) (k : Nat) : mem (erase t k) k = false := by simp [mem]

/-- Every entry of an updated table is an old one or the new one. -/
theorem mem_of_mem_set {t : Tbl α} {k : Nat} {x : α} {p : Nat × α} (h : p ∈ set t k x) : p ∈ t ∨ p = (k, x) := by
  induction t with
  | nil => exact Or.inr (by simpa [set] using h)
  | cons q t ih =>
    obtain ⟨j, y⟩ := q
    unfold set at h
    split at h
    · rcases List.mem_cons.1 h with h | h
      · exact Or.inr h
      · exact Or.inl (List.mem_cons_of_mem _ h)
    · split at h
      · rcases List.mem_cons.1 h with h | h
        · exact Or.inr h
        · exact Or.inl h
      · rcases List.mem_cons.1 h with h | h
        · exact Or.inl (h ▸ List.mem_cons_self)
        · exact (ih h).imp_left (List.mem_cons_of_mem _)

/-- A property of every entry stays when the entry set has it. -/
theorem forall_set {P : α → Prop} {t : Tbl α} (h : ∀ p ∈ t, P p.2) {x : α} (hx : P x) (k : Nat) : ∀ p ∈ set t k x, P p.2 := by
  intro p hp
  rcases mem_of_mem_set hp with hp | rfl
  · exact h p hp
  · exact hx

theorem mem_of_find? {t : Tbl α} {k : Nat} {x : α} (h : find? t k = some x) : (k, x) ∈ t := by
  induction t with
  | nil => simp [find?] at h
  | cons q t ih =>
    obtain ⟨j, y⟩ := q
    unfold find? at h
    split at h
    · simp_all
    · exact List.mem_cons_of_mem _ (ih h)

/-- What every entry and the default have, every read has. -/
theorem forall_get {P : α → Prop} {t : Tbl α} (h : ∀ p ∈ t, P p.2) {d : α} (hd : P d) (k : Nat) : P (get d t k) := by
  unfold get
  cases hf : find? t k with
  | none => simpa using hd
  | some x => simpa using h _ (mem_of_find? hf)

theorem mem_of_mem_erase {t : Tbl α} {k : Nat} {p : Nat × α} (h : p ∈ erase t k) : p ∈ t := by
  induction t with
  | nil => simp [erase] at h
  | cons q t ih =>
    obtain ⟨j, y⟩ := q
    unfold erase at h
    split at h
    · exact List.mem_cons_of_mem _ (ih h)
    · rcases List.mem_cons.1 h with h | h
      · exact h ▸ List.mem_cons_self
      · exact List.mem_cons_of_mem _ (ih h)

end Tbl

namespace Memory

theorem wfAbove_mono {m : Memory} {lo hi : Nat} (h : wfAbove hi m = true) (hle : lo ≤ hi) : wfAbove lo m = true := by
  cases m with
  | nil => rfl
  | cons p t => obtain ⟨a, b⟩ := p; simp [wfAbove] at h ⊢; exact ⟨⟨by omega, h.1.2⟩, h.2⟩

/-- A write keeps the canonical form. -/
theorem wfAbove_write {m : Memory} {lo a : Nat} {b : Byte} (h : wfAbove lo m = true) (ha : lo ≤ a) :
    wfAbove lo (write m a b) = true := by
  induction m generalizing lo with
  | nil =>
    unfold write
    split
    · rfl
    · simp [wfAbove, *]
  | cons p t ih =>
    obtain ⟨j, y⟩ := p
    simp [wfAbove] at h
    unfold write
    split
    · subst j
      split
      · exact wfAbove_mono h.2 (by omega)
      · simp [wfAbove, *]
    · split
      · split
        · simp [wfAbove, *]
        · simp [wfAbove, *]
      · simp [wfAbove, h.1]
        exact ih h.2 (by omega)

theorem wf_write {m : Memory} (a : Nat) (b : Byte) (h : wf m = true) : wf (write m a b) = true :=
  wfAbove_write h (Nat.zero_le a)

theorem wf_writeBytes {m : Memory} (a : Nat) (bs : List Byte) (h : wf m = true) : wf (writeBytes m a bs) = true := by
  induction bs generalizing m a with
  | nil => exact h
  | cons b bs ih => exact ih _ (wf_write a b h)

@[simp] theorem wf_nil : wf [] = true := rfl

/-- An address below every cell reads as unlisted. -/
theorem find?_of_wfAbove {m : Memory} {lo a : Nat} (h : wfAbove lo m = true) (ha : a < lo) : Tbl.find? m a = none := by
  induction m generalizing lo with
  | nil => rfl
  | cons p t ih =>
    obtain ⟨j, y⟩ := p
    simp [wfAbove] at h
    have : j ≠ a := by omega
    simp [Tbl.find?, this]
    exact ih h.2 (by omega)

theorem read_write_above {m : Memory} {lo a k : Nat} {b : Byte} (h : wfAbove lo m = true) :
    read (write m a b) k = if k = a then b else read m k := by
  induction m generalizing lo with
  | nil =>
    unfold write
    by_cases hk : k = a
    · subst hk; split <;> simp_all [read, Tbl.get, Tbl.find?]
    · have hk' : a ≠ k := fun e => hk e.symm
      split <;> simp [read, Tbl.get, Tbl.find?, hk']
  | cons p t ih =>
    obtain ⟨j, y⟩ := p
    simp [wfAbove] at h
    unfold write
    by_cases hj : j = a
    · subst hj
      simp only [if_true]
      by_cases hk : k = j
      · subst hk
        split
        · simp [read, Tbl.get, find?_of_wfAbove h.2 (Nat.lt_succ_self _), *]
        · simp [read, Tbl.get, Tbl.find?]
      · have hk' : j ≠ k := fun e => hk e.symm
        split <;> simp [read, Tbl.get, Tbl.find?, hk']
    · simp only [hj, if_false]
      split
      · by_cases hk : k = a
        · subst hk
          have hn : Tbl.find? ((j, y) :: t) k = none := by
            simp [Tbl.find?, hj]
            exact find?_of_wfAbove h.2 (by omega)
          split <;> simp_all [read, Tbl.get, Tbl.find?]
        · have hk' : a ≠ k := fun e => hk e.symm
          split <;> simp [read, Tbl.get, Tbl.find?, hk']
      · by_cases hjk : j = k
        · subst hjk
          simp [read, Tbl.get, Tbl.find?, hj]
        · have := ih h.2
          simp [read, Tbl.get, Tbl.find?, hjk] at this ⊢
          exact this

/-- Read after write, at every address. -/
theorem read_write {m : Memory} (h : wf m = true) (a k : Nat) (b : Byte) :
    read (write m a b) k = if k = a then b else read m k := read_write_above h

/-- Bytes outside a written range read as before. -/
theorem read_writeBytes_outside {m : Memory} (h : wf m = true) {a k : Nat} {bs : List Byte} (hk : k < a ∨ a + bs.length ≤ k) :
    read (writeBytes m a bs) k = read m k := by
  induction bs generalizing m a with
  | nil => rfl
  | cons b bs ih =>
    have hne : k ≠ a := by simp only [List.length_cons] at hk; omega
    rw [writeBytes, ih (wf_write a b h) (by simp only [List.length_cons] at hk; omega), read_write h]
    simp [hne]

end Memory

end Sys2Proof.Machine
end

