-- ==== Sys2Proof/Laws/State.lean ====
section
/-! SUPPORT. The small laws of the state: for each update, what each field is after it. -/

namespace Sys2Proof.Machine

namespace State

variable (s : State)

/-! setGang changes the table `gangs` alone. -/

@[simp] theorem setGang_dev (k : Nat) (x : Gang) : (s.setGang k x).dev = s.dev := rfl
@[simp] theorem setGang_saved (k : Nat) (x : Gang) : (s.setGang k x).saved = s.saved := rfl
@[simp] theorem setGang_cur (k : Nat) (x : Gang) : (s.setGang k x).cur = s.cur := rfl
@[simp] theorem setGang_eng (k : Nat) (x : Gang) : (s.setGang k x).eng = s.eng := rfl
@[simp] theorem setGang_inputs (k : Nat) (x : Gang) : (s.setGang k x).inputs = s.inputs := rfl
@[simp] theorem setGang_ticks (k : Nat) (x : Gang) : (s.setGang k x).ticks = s.ticks := rfl
@[simp] theorem setGang_teams (k : Nat) (x : Gang) : (s.setGang k x).ctx.teams = s.ctx.teams := rfl
@[simp] theorem setGang_cores (k : Nat) (x : Gang) : (s.setGang k x).ctx.cores = s.ctx.cores := rfl
@[simp] theorem setGang_grids (k : Nat) (x : Gang) : (s.setGang k x).ctx.grids = s.ctx.grids := rfl
@[simp] theorem setGang_wheel (k : Nat) (x : Gang) : (s.setGang k x).ctx.wheel = s.ctx.wheel := rfl
@[simp] theorem setGang_dieQ (k : Nat) (x : Gang) : (s.setGang k x).ctx.dieQ = s.ctx.dieQ := rfl
@[simp] theorem setGang_clusterQ (k : Nat) (x : Gang) : (s.setGang k x).ctx.clusterQ = s.ctx.clusterQ := rfl
@[simp] theorem setGang_triggers (k : Nat) (x : Gang) : (s.setGang k x).ctx.triggers = s.ctx.triggers := rfl
@[simp] theorem setGang_circles (k : Nat) (x : Gang) : (s.setGang k x).ctx.circles = s.ctx.circles := rfl
@[simp] theorem setGang_fq (k : Nat) (x : Gang) : (s.setGang k x).ctx.fq = s.ctx.fq := rfl
@[simp] theorem setGang_misses (k : Nat) (x : Gang) : (s.setGang k x).ctx.misses = s.ctx.misses := rfl
@[simp] theorem setGang_redHold (k : Nat) (x : Gang) : (s.setGang k x).ctx.redHold = s.ctx.redHold := rfl
@[simp] theorem setGang_millSlots (k : Nat) (x : Gang) : (s.setGang k x).ctx.millSlots = s.ctx.millSlots := rfl
@[simp] theorem setGang_mills (k : Nat) (x : Gang) : (s.setGang k x).ctx.mills = s.ctx.mills := rfl
@[simp] theorem setGang_accs (k : Nat) (x : Gang) : (s.setGang k x).ctx.accs = s.ctx.accs := rfl
@[simp] theorem setGang_works (k : Nat) (x : Gang) : (s.setGang k x).ctx.works = s.ctx.works := rfl
@[simp] theorem setGang_replies (k : Nat) (x : Gang) : (s.setGang k x).ctx.replies = s.ctx.replies := rfl
@[simp] theorem setGang_holds (k : Nat) (x : Gang) : (s.setGang k x).ctx.holds = s.ctx.holds := rfl
@[simp] theorem setGang_custody (k : Nat) (x : Gang) : (s.setGang k x).ctx.custody = s.ctx.custody := rfl
@[simp] theorem setGang_sessions (k : Nat) (x : Gang) : (s.setGang k x).ctx.sessions = s.ctx.sessions := rfl
@[simp] theorem setGang_order (k : Nat) (x : Gang) : (s.setGang k x).ctx.order = s.ctx.order := rfl
@[simp] theorem setGang_stashOld (k : Nat) (x : Gang) : (s.setGang k x).ctx.stashOld = s.ctx.stashOld := rfl
@[simp] theorem setGang_poolPast (k : Nat) (x : Gang) : (s.setGang k x).ctx.poolPast = s.ctx.poolPast := rfl
@[simp] theorem setGang_log (k : Nat) (x : Gang) : (s.setGang k x).ctx.log = s.ctx.log := rfl
@[simp] theorem setGang_logWrite (k : Nat) (x : Gang) : (s.setGang k x).ctx.logWrite = s.ctx.logWrite := rfl
@[simp] theorem setGang_logSeen (k : Nat) (x : Gang) : (s.setGang k x).ctx.logSeen = s.ctx.logSeen := rfl
@[simp] theorem setGang_logDropped (k : Nat) (x : Gang) : (s.setGang k x).ctx.logDropped = s.ctx.logDropped := rfl
@[simp] theorem setGang_nextId (k : Nat) (x : Gang) : (s.setGang k x).ctx.nextId = s.ctx.nextId := rfl
@[simp] theorem setGang_seq (k : Nat) (x : Gang) : (s.setGang k x).ctx.seq = s.ctx.seq := rfl
@[simp] theorem setGang_halt (k : Nat) (x : Gang) : (s.setGang k x).ctx.halt = s.ctx.halt := rfl
@[simp] theorem setGang_wct (k : Nat) (x : Gang) : (s.setGang k x).ctx.wct = s.ctx.wct := rfl

/-! modGang changes the table `gangs` alone. -/

@[simp] theorem modGang_dev (k : Nat) (f : Gang → Gang) : (s.modGang k f).dev = s.dev := rfl
@[simp] theorem modGang_saved (k : Nat) (f : Gang → Gang) : (s.modGang k f).saved = s.saved := rfl
@[simp] theorem modGang_cur (k : Nat) (f : Gang → Gang) : (s.modGang k f).cur = s.cur := rfl
@[simp] theorem modGang_eng (k : Nat) (f : Gang → Gang) : (s.modGang k f).eng = s.eng := rfl
@[simp] theorem modGang_inputs (k : Nat) (f : Gang → Gang) : (s.modGang k f).inputs = s.inputs := rfl
@[simp] theorem modGang_ticks (k : Nat) (f : Gang → Gang) : (s.modGang k f).ticks = s.ticks := rfl
@[simp] theorem modGang_teams (k : Nat) (f : Gang → Gang) : (s.modGang k f).ctx.teams = s.ctx.teams := rfl
@[simp] theorem modGang_cores (k : Nat) (f : Gang → Gang) : (s.modGang k f).ctx.cores = s.ctx.cores := rfl
@[simp] theorem modGang_grids (k : Nat) (f : Gang → Gang) : (s.modGang k f).ctx.grids = s.ctx.grids := rfl
@[simp] theorem modGang_wheel (k : Nat) (f : Gang → Gang) : (s.modGang k f).ctx.wheel = s.ctx.wheel := rfl
@[simp] theorem modGang_dieQ (k : Nat) (f : Gang → Gang) : (s.modGang k f).ctx.dieQ = s.ctx.dieQ := rfl
@[simp] theorem modGang_clusterQ (k : Nat) (f : Gang → Gang) : (s.modGang k f).ctx.clusterQ = s.ctx.clusterQ := rfl
@[simp] theorem modGang_triggers (k : Nat) (f : Gang → Gang) : (s.modGang k f).ctx.triggers = s.ctx.triggers := rfl
@[simp] theorem modGang_circles (k : Nat) (f : Gang → Gang) : (s.modGang k f).ctx.circles = s.ctx.circles := rfl
@[simp] theorem modGang_fq (k : Nat) (f : Gang → Gang) : (s.modGang k f).ctx.fq = s.ctx.fq := rfl
@[simp] theorem modGang_misses (k : Nat) (f : Gang → Gang) : (s.modGang k f).ctx.misses = s.ctx.misses := rfl
@[simp] theorem modGang_redHold (k : Nat) (f : Gang → Gang) : (s.modGang k f).ctx.redHold = s.ctx.redHold := rfl
@[simp] theorem modGang_millSlots (k : Nat) (f : Gang → Gang) : (s.modGang k f).ctx.millSlots = s.ctx.millSlots := rfl
@[simp] theorem modGang_mills (k : Nat) (f : Gang → Gang) : (s.modGang k f).ctx.mills = s.ctx.mills := rfl
@[simp] theorem modGang_accs (k : Nat) (f : Gang → Gang) : (s.modGang k f).ctx.accs = s.ctx.accs := rfl
@[simp] theorem modGang_works (k : Nat) (f : Gang → Gang) : (s.modGang k f).ctx.works = s.ctx.works := rfl
@[simp] theorem modGang_replies (k : Nat) (f : Gang → Gang) : (s.modGang k f).ctx.replies = s.ctx.replies := rfl
@[simp] theorem modGang_holds (k : Nat) (f : Gang → Gang) : (s.modGang k f).ctx.holds = s.ctx.holds := rfl
@[simp] theorem modGang_custody (k : Nat) (f : Gang → Gang) : (s.modGang k f).ctx.custody = s.ctx.custody := rfl
@[simp] theorem modGang_sessions (k : Nat) (f : Gang → Gang) : (s.modGang k f).ctx.sessions = s.ctx.sessions := rfl
@[simp] theorem modGang_order (k : Nat) (f : Gang → Gang) : (s.modGang k f).ctx.order = s.ctx.order := rfl
@[simp] theorem modGang_stashOld (k : Nat) (f : Gang → Gang) : (s.modGang k f).ctx.stashOld = s.ctx.stashOld := rfl
@[simp] theorem modGang_poolPast (k : Nat) (f : Gang → Gang) : (s.modGang k f).ctx.poolPast = s.ctx.poolPast := rfl
@[simp] theorem modGang_log (k : Nat) (f : Gang → Gang) : (s.modGang k f).ctx.log = s.ctx.log := rfl
@[simp] theorem modGang_logWrite (k : Nat) (f : Gang → Gang) : (s.modGang k f).ctx.logWrite = s.ctx.logWrite := rfl
@[simp] theorem modGang_logSeen (k : Nat) (f : Gang → Gang) : (s.modGang k f).ctx.logSeen = s.ctx.logSeen := rfl
@[simp] theorem modGang_logDropped (k : Nat) (f : Gang → Gang) : (s.modGang k f).ctx.logDropped = s.ctx.logDropped := rfl
@[simp] theorem modGang_nextId (k : Nat) (f : Gang → Gang) : (s.modGang k f).ctx.nextId = s.ctx.nextId := rfl
@[simp] theorem modGang_seq (k : Nat) (f : Gang → Gang) : (s.modGang k f).ctx.seq = s.ctx.seq := rfl
@[simp] theorem modGang_halt (k : Nat) (f : Gang → Gang) : (s.modGang k f).ctx.halt = s.ctx.halt := rfl
@[simp] theorem modGang_wct (k : Nat) (f : Gang → Gang) : (s.modGang k f).ctx.wct = s.ctx.wct := rfl

/-! setTeam changes the table `teams` alone. -/

@[simp] theorem setTeam_dev (k : Nat) (x : Team) : (s.setTeam k x).dev = s.dev := rfl
@[simp] theorem setTeam_saved (k : Nat) (x : Team) : (s.setTeam k x).saved = s.saved := rfl
@[simp] theorem setTeam_cur (k : Nat) (x : Team) : (s.setTeam k x).cur = s.cur := rfl
@[simp] theorem setTeam_eng (k : Nat) (x : Team) : (s.setTeam k x).eng = s.eng := rfl
@[simp] theorem setTeam_inputs (k : Nat) (x : Team) : (s.setTeam k x).inputs = s.inputs := rfl
@[simp] theorem setTeam_ticks (k : Nat) (x : Team) : (s.setTeam k x).ticks = s.ticks := rfl
@[simp] theorem setTeam_gangs (k : Nat) (x : Team) : (s.setTeam k x).ctx.gangs = s.ctx.gangs := rfl
@[simp] theorem setTeam_cores (k : Nat) (x : Team) : (s.setTeam k x).ctx.cores = s.ctx.cores := rfl
@[simp] theorem setTeam_grids (k : Nat) (x : Team) : (s.setTeam k x).ctx.grids = s.ctx.grids := rfl
@[simp] theorem setTeam_wheel (k : Nat) (x : Team) : (s.setTeam k x).ctx.wheel = s.ctx.wheel := rfl
@[simp] theorem setTeam_dieQ (k : Nat) (x : Team) : (s.setTeam k x).ctx.dieQ = s.ctx.dieQ := rfl
@[simp] theorem setTeam_clusterQ (k : Nat) (x : Team) : (s.setTeam k x).ctx.clusterQ = s.ctx.clusterQ := rfl
@[simp] theorem setTeam_triggers (k : Nat) (x : Team) : (s.setTeam k x).ctx.triggers = s.ctx.triggers := rfl
@[simp] theorem setTeam_circles (k : Nat) (x : Team) : (s.setTeam k x).ctx.circles = s.ctx.circles := rfl
@[simp] theorem setTeam_fq (k : Nat) (x : Team) : (s.setTeam k x).ctx.fq = s.ctx.fq := rfl
@[simp] theorem setTeam_misses (k : Nat) (x : Team) : (s.setTeam k x).ctx.misses = s.ctx.misses := rfl
@[simp] theorem setTeam_redHold (k : Nat) (x : Team) : (s.setTeam k x).ctx.redHold = s.ctx.redHold := rfl
@[simp] theorem setTeam_millSlots (k : Nat) (x : Team) : (s.setTeam k x).ctx.millSlots = s.ctx.millSlots := rfl
@[simp] theorem setTeam_mills (k : Nat) (x : Team) : (s.setTeam k x).ctx.mills = s.ctx.mills := rfl
@[simp] theorem setTeam_accs (k : Nat) (x : Team) : (s.setTeam k x).ctx.accs = s.ctx.accs := rfl
@[simp] theorem setTeam_works (k : Nat) (x : Team) : (s.setTeam k x).ctx.works = s.ctx.works := rfl
@[simp] theorem setTeam_replies (k : Nat) (x : Team) : (s.setTeam k x).ctx.replies = s.ctx.replies := rfl
@[simp] theorem setTeam_holds (k : Nat) (x : Team) : (s.setTeam k x).ctx.holds = s.ctx.holds := rfl
@[simp] theorem setTeam_custody (k : Nat) (x : Team) : (s.setTeam k x).ctx.custody = s.ctx.custody := rfl
@[simp] theorem setTeam_sessions (k : Nat) (x : Team) : (s.setTeam k x).ctx.sessions = s.ctx.sessions := rfl
@[simp] theorem setTeam_order (k : Nat) (x : Team) : (s.setTeam k x).ctx.order = s.ctx.order := rfl
@[simp] theorem setTeam_stashOld (k : Nat) (x : Team) : (s.setTeam k x).ctx.stashOld = s.ctx.stashOld := rfl
@[simp] theorem setTeam_poolPast (k : Nat) (x : Team) : (s.setTeam k x).ctx.poolPast = s.ctx.poolPast := rfl
@[simp] theorem setTeam_log (k : Nat) (x : Team) : (s.setTeam k x).ctx.log = s.ctx.log := rfl
@[simp] theorem setTeam_logWrite (k : Nat) (x : Team) : (s.setTeam k x).ctx.logWrite = s.ctx.logWrite := rfl
@[simp] theorem setTeam_logSeen (k : Nat) (x : Team) : (s.setTeam k x).ctx.logSeen = s.ctx.logSeen := rfl
@[simp] theorem setTeam_logDropped (k : Nat) (x : Team) : (s.setTeam k x).ctx.logDropped = s.ctx.logDropped := rfl
@[simp] theorem setTeam_nextId (k : Nat) (x : Team) : (s.setTeam k x).ctx.nextId = s.ctx.nextId := rfl
@[simp] theorem setTeam_seq (k : Nat) (x : Team) : (s.setTeam k x).ctx.seq = s.ctx.seq := rfl
@[simp] theorem setTeam_halt (k : Nat) (x : Team) : (s.setTeam k x).ctx.halt = s.ctx.halt := rfl
@[simp] theorem setTeam_wct (k : Nat) (x : Team) : (s.setTeam k x).ctx.wct = s.ctx.wct := rfl

/-! modTeam changes the table `teams` alone. -/

@[simp] theorem modTeam_dev (k : Nat) (f : Team → Team) : (s.modTeam k f).dev = s.dev := rfl
@[simp] theorem modTeam_saved (k : Nat) (f : Team → Team) : (s.modTeam k f).saved = s.saved := rfl
@[simp] theorem modTeam_cur (k : Nat) (f : Team → Team) : (s.modTeam k f).cur = s.cur := rfl
@[simp] theorem modTeam_eng (k : Nat) (f : Team → Team) : (s.modTeam k f).eng = s.eng := rfl
@[simp] theorem modTeam_inputs (k : Nat) (f : Team → Team) : (s.modTeam k f).inputs = s.inputs := rfl
@[simp] theorem modTeam_ticks (k : Nat) (f : Team → Team) : (s.modTeam k f).ticks = s.ticks := rfl
@[simp] theorem modTeam_gangs (k : Nat) (f : Team → Team) : (s.modTeam k f).ctx.gangs = s.ctx.gangs := rfl
@[simp] theorem modTeam_cores (k : Nat) (f : Team → Team) : (s.modTeam k f).ctx.cores = s.ctx.cores := rfl
@[simp] theorem modTeam_grids (k : Nat) (f : Team → Team) : (s.modTeam k f).ctx.grids = s.ctx.grids := rfl
@[simp] theorem modTeam_wheel (k : Nat) (f : Team → Team) : (s.modTeam k f).ctx.wheel = s.ctx.wheel := rfl
@[simp] theorem modTeam_dieQ (k : Nat) (f : Team → Team) : (s.modTeam k f).ctx.dieQ = s.ctx.dieQ := rfl
@[simp] theorem modTeam_clusterQ (k : Nat) (f : Team → Team) : (s.modTeam k f).ctx.clusterQ = s.ctx.clusterQ := rfl
@[simp] theorem modTeam_triggers (k : Nat) (f : Team → Team) : (s.modTeam k f).ctx.triggers = s.ctx.triggers := rfl
@[simp] theorem modTeam_circles (k : Nat) (f : Team → Team) : (s.modTeam k f).ctx.circles = s.ctx.circles := rfl
@[simp] theorem modTeam_fq (k : Nat) (f : Team → Team) : (s.modTeam k f).ctx.fq = s.ctx.fq := rfl
@[simp] theorem modTeam_misses (k : Nat) (f : Team → Team) : (s.modTeam k f).ctx.misses = s.ctx.misses := rfl
@[simp] theorem modTeam_redHold (k : Nat) (f : Team → Team) : (s.modTeam k f).ctx.redHold = s.ctx.redHold := rfl
@[simp] theorem modTeam_millSlots (k : Nat) (f : Team → Team) : (s.modTeam k f).ctx.millSlots = s.ctx.millSlots := rfl
@[simp] theorem modTeam_mills (k : Nat) (f : Team → Team) : (s.modTeam k f).ctx.mills = s.ctx.mills := rfl
@[simp] theorem modTeam_accs (k : Nat) (f : Team → Team) : (s.modTeam k f).ctx.accs = s.ctx.accs := rfl
@[simp] theorem modTeam_works (k : Nat) (f : Team → Team) : (s.modTeam k f).ctx.works = s.ctx.works := rfl
@[simp] theorem modTeam_replies (k : Nat) (f : Team → Team) : (s.modTeam k f).ctx.replies = s.ctx.replies := rfl
@[simp] theorem modTeam_holds (k : Nat) (f : Team → Team) : (s.modTeam k f).ctx.holds = s.ctx.holds := rfl
@[simp] theorem modTeam_custody (k : Nat) (f : Team → Team) : (s.modTeam k f).ctx.custody = s.ctx.custody := rfl
@[simp] theorem modTeam_sessions (k : Nat) (f : Team → Team) : (s.modTeam k f).ctx.sessions = s.ctx.sessions := rfl
@[simp] theorem modTeam_order (k : Nat) (f : Team → Team) : (s.modTeam k f).ctx.order = s.ctx.order := rfl
@[simp] theorem modTeam_stashOld (k : Nat) (f : Team → Team) : (s.modTeam k f).ctx.stashOld = s.ctx.stashOld := rfl
@[simp] theorem modTeam_poolPast (k : Nat) (f : Team → Team) : (s.modTeam k f).ctx.poolPast = s.ctx.poolPast := rfl
@[simp] theorem modTeam_log (k : Nat) (f : Team → Team) : (s.modTeam k f).ctx.log = s.ctx.log := rfl
@[simp] theorem modTeam_logWrite (k : Nat) (f : Team → Team) : (s.modTeam k f).ctx.logWrite = s.ctx.logWrite := rfl
@[simp] theorem modTeam_logSeen (k : Nat) (f : Team → Team) : (s.modTeam k f).ctx.logSeen = s.ctx.logSeen := rfl
@[simp] theorem modTeam_logDropped (k : Nat) (f : Team → Team) : (s.modTeam k f).ctx.logDropped = s.ctx.logDropped := rfl
@[simp] theorem modTeam_nextId (k : Nat) (f : Team → Team) : (s.modTeam k f).ctx.nextId = s.ctx.nextId := rfl
@[simp] theorem modTeam_seq (k : Nat) (f : Team → Team) : (s.modTeam k f).ctx.seq = s.ctx.seq := rfl
@[simp] theorem modTeam_halt (k : Nat) (f : Team → Team) : (s.modTeam k f).ctx.halt = s.ctx.halt := rfl
@[simp] theorem modTeam_wct (k : Nat) (f : Team → Team) : (s.modTeam k f).ctx.wct = s.ctx.wct := rfl

/-! setCore changes the table `cores` alone. -/

@[simp] theorem setCore_dev (k : Nat) (x : Core) : (s.setCore k x).dev = s.dev := rfl
@[simp] theorem setCore_saved (k : Nat) (x : Core) : (s.setCore k x).saved = s.saved := rfl
@[simp] theorem setCore_cur (k : Nat) (x : Core) : (s.setCore k x).cur = s.cur := rfl
@[simp] theorem setCore_eng (k : Nat) (x : Core) : (s.setCore k x).eng = s.eng := rfl
@[simp] theorem setCore_inputs (k : Nat) (x : Core) : (s.setCore k x).inputs = s.inputs := rfl
@[simp] theorem setCore_ticks (k : Nat) (x : Core) : (s.setCore k x).ticks = s.ticks := rfl
@[simp] theorem setCore_gangs (k : Nat) (x : Core) : (s.setCore k x).ctx.gangs = s.ctx.gangs := rfl
@[simp] theorem setCore_teams (k : Nat) (x : Core) : (s.setCore k x).ctx.teams = s.ctx.teams := rfl
@[simp] theorem setCore_grids (k : Nat) (x : Core) : (s.setCore k x).ctx.grids = s.ctx.grids := rfl
@[simp] theorem setCore_wheel (k : Nat) (x : Core) : (s.setCore k x).ctx.wheel = s.ctx.wheel := rfl
@[simp] theorem setCore_dieQ (k : Nat) (x : Core) : (s.setCore k x).ctx.dieQ = s.ctx.dieQ := rfl
@[simp] theorem setCore_clusterQ (k : Nat) (x : Core) : (s.setCore k x).ctx.clusterQ = s.ctx.clusterQ := rfl
@[simp] theorem setCore_triggers (k : Nat) (x : Core) : (s.setCore k x).ctx.triggers = s.ctx.triggers := rfl
@[simp] theorem setCore_circles (k : Nat) (x : Core) : (s.setCore k x).ctx.circles = s.ctx.circles := rfl
@[simp] theorem setCore_fq (k : Nat) (x : Core) : (s.setCore k x).ctx.fq = s.ctx.fq := rfl
@[simp] theorem setCore_misses (k : Nat) (x : Core) : (s.setCore k x).ctx.misses = s.ctx.misses := rfl
@[simp] theorem setCore_redHold (k : Nat) (x : Core) : (s.setCore k x).ctx.redHold = s.ctx.redHold := rfl
@[simp] theorem setCore_millSlots (k : Nat) (x : Core) : (s.setCore k x).ctx.millSlots = s.ctx.millSlots := rfl
@[simp] theorem setCore_mills (k : Nat) (x : Core) : (s.setCore k x).ctx.mills = s.ctx.mills := rfl
@[simp] theorem setCore_accs (k : Nat) (x : Core) : (s.setCore k x).ctx.accs = s.ctx.accs := rfl
@[simp] theorem setCore_works (k : Nat) (x : Core) : (s.setCore k x).ctx.works = s.ctx.works := rfl
@[simp] theorem setCore_replies (k : Nat) (x : Core) : (s.setCore k x).ctx.replies = s.ctx.replies := rfl
@[simp] theorem setCore_holds (k : Nat) (x : Core) : (s.setCore k x).ctx.holds = s.ctx.holds := rfl
@[simp] theorem setCore_custody (k : Nat) (x : Core) : (s.setCore k x).ctx.custody = s.ctx.custody := rfl
@[simp] theorem setCore_sessions (k : Nat) (x : Core) : (s.setCore k x).ctx.sessions = s.ctx.sessions := rfl
@[simp] theorem setCore_order (k : Nat) (x : Core) : (s.setCore k x).ctx.order = s.ctx.order := rfl
@[simp] theorem setCore_stashOld (k : Nat) (x : Core) : (s.setCore k x).ctx.stashOld = s.ctx.stashOld := rfl
@[simp] theorem setCore_poolPast (k : Nat) (x : Core) : (s.setCore k x).ctx.poolPast = s.ctx.poolPast := rfl
@[simp] theorem setCore_log (k : Nat) (x : Core) : (s.setCore k x).ctx.log = s.ctx.log := rfl
@[simp] theorem setCore_logWrite (k : Nat) (x : Core) : (s.setCore k x).ctx.logWrite = s.ctx.logWrite := rfl
@[simp] theorem setCore_logSeen (k : Nat) (x : Core) : (s.setCore k x).ctx.logSeen = s.ctx.logSeen := rfl
@[simp] theorem setCore_logDropped (k : Nat) (x : Core) : (s.setCore k x).ctx.logDropped = s.ctx.logDropped := rfl
@[simp] theorem setCore_nextId (k : Nat) (x : Core) : (s.setCore k x).ctx.nextId = s.ctx.nextId := rfl
@[simp] theorem setCore_seq (k : Nat) (x : Core) : (s.setCore k x).ctx.seq = s.ctx.seq := rfl
@[simp] theorem setCore_halt (k : Nat) (x : Core) : (s.setCore k x).ctx.halt = s.ctx.halt := rfl
@[simp] theorem setCore_wct (k : Nat) (x : Core) : (s.setCore k x).ctx.wct = s.ctx.wct := rfl

/-! modCore changes the table `cores` alone. -/

@[simp] theorem modCore_dev (k : Nat) (f : Core → Core) : (s.modCore k f).dev = s.dev := rfl
@[simp] theorem modCore_saved (k : Nat) (f : Core → Core) : (s.modCore k f).saved = s.saved := rfl
@[simp] theorem modCore_cur (k : Nat) (f : Core → Core) : (s.modCore k f).cur = s.cur := rfl
@[simp] theorem modCore_eng (k : Nat) (f : Core → Core) : (s.modCore k f).eng = s.eng := rfl
@[simp] theorem modCore_inputs (k : Nat) (f : Core → Core) : (s.modCore k f).inputs = s.inputs := rfl
@[simp] theorem modCore_ticks (k : Nat) (f : Core → Core) : (s.modCore k f).ticks = s.ticks := rfl
@[simp] theorem modCore_gangs (k : Nat) (f : Core → Core) : (s.modCore k f).ctx.gangs = s.ctx.gangs := rfl
@[simp] theorem modCore_teams (k : Nat) (f : Core → Core) : (s.modCore k f).ctx.teams = s.ctx.teams := rfl
@[simp] theorem modCore_grids (k : Nat) (f : Core → Core) : (s.modCore k f).ctx.grids = s.ctx.grids := rfl
@[simp] theorem modCore_wheel (k : Nat) (f : Core → Core) : (s.modCore k f).ctx.wheel = s.ctx.wheel := rfl
@[simp] theorem modCore_dieQ (k : Nat) (f : Core → Core) : (s.modCore k f).ctx.dieQ = s.ctx.dieQ := rfl
@[simp] theorem modCore_clusterQ (k : Nat) (f : Core → Core) : (s.modCore k f).ctx.clusterQ = s.ctx.clusterQ := rfl
@[simp] theorem modCore_triggers (k : Nat) (f : Core → Core) : (s.modCore k f).ctx.triggers = s.ctx.triggers := rfl
@[simp] theorem modCore_circles (k : Nat) (f : Core → Core) : (s.modCore k f).ctx.circles = s.ctx.circles := rfl
@[simp] theorem modCore_fq (k : Nat) (f : Core → Core) : (s.modCore k f).ctx.fq = s.ctx.fq := rfl
@[simp] theorem modCore_misses (k : Nat) (f : Core → Core) : (s.modCore k f).ctx.misses = s.ctx.misses := rfl
@[simp] theorem modCore_redHold (k : Nat) (f : Core → Core) : (s.modCore k f).ctx.redHold = s.ctx.redHold := rfl
@[simp] theorem modCore_millSlots (k : Nat) (f : Core → Core) : (s.modCore k f).ctx.millSlots = s.ctx.millSlots := rfl
@[simp] theorem modCore_mills (k : Nat) (f : Core → Core) : (s.modCore k f).ctx.mills = s.ctx.mills := rfl
@[simp] theorem modCore_accs (k : Nat) (f : Core → Core) : (s.modCore k f).ctx.accs = s.ctx.accs := rfl
@[simp] theorem modCore_works (k : Nat) (f : Core → Core) : (s.modCore k f).ctx.works = s.ctx.works := rfl
@[simp] theorem modCore_replies (k : Nat) (f : Core → Core) : (s.modCore k f).ctx.replies = s.ctx.replies := rfl
@[simp] theorem modCore_holds (k : Nat) (f : Core → Core) : (s.modCore k f).ctx.holds = s.ctx.holds := rfl
@[simp] theorem modCore_custody (k : Nat) (f : Core → Core) : (s.modCore k f).ctx.custody = s.ctx.custody := rfl
@[simp] theorem modCore_sessions (k : Nat) (f : Core → Core) : (s.modCore k f).ctx.sessions = s.ctx.sessions := rfl
@[simp] theorem modCore_order (k : Nat) (f : Core → Core) : (s.modCore k f).ctx.order = s.ctx.order := rfl
@[simp] theorem modCore_stashOld (k : Nat) (f : Core → Core) : (s.modCore k f).ctx.stashOld = s.ctx.stashOld := rfl
@[simp] theorem modCore_poolPast (k : Nat) (f : Core → Core) : (s.modCore k f).ctx.poolPast = s.ctx.poolPast := rfl
@[simp] theorem modCore_log (k : Nat) (f : Core → Core) : (s.modCore k f).ctx.log = s.ctx.log := rfl
@[simp] theorem modCore_logWrite (k : Nat) (f : Core → Core) : (s.modCore k f).ctx.logWrite = s.ctx.logWrite := rfl
@[simp] theorem modCore_logSeen (k : Nat) (f : Core → Core) : (s.modCore k f).ctx.logSeen = s.ctx.logSeen := rfl
@[simp] theorem modCore_logDropped (k : Nat) (f : Core → Core) : (s.modCore k f).ctx.logDropped = s.ctx.logDropped := rfl
@[simp] theorem modCore_nextId (k : Nat) (f : Core → Core) : (s.modCore k f).ctx.nextId = s.ctx.nextId := rfl
@[simp] theorem modCore_seq (k : Nat) (f : Core → Core) : (s.modCore k f).ctx.seq = s.ctx.seq := rfl
@[simp] theorem modCore_halt (k : Nat) (f : Core → Core) : (s.modCore k f).ctx.halt = s.ctx.halt := rfl
@[simp] theorem modCore_wct (k : Nat) (f : Core → Core) : (s.modCore k f).ctx.wct = s.ctx.wct := rfl

/-! setGrid changes the table `grids` alone. -/

@[simp] theorem setGrid_dev (k : Nat) (x : Grid) : (s.setGrid k x).dev = s.dev := rfl
@[simp] theorem setGrid_saved (k : Nat) (x : Grid) : (s.setGrid k x).saved = s.saved := rfl
@[simp] theorem setGrid_cur (k : Nat) (x : Grid) : (s.setGrid k x).cur = s.cur := rfl
@[simp] theorem setGrid_eng (k : Nat) (x : Grid) : (s.setGrid k x).eng = s.eng := rfl
@[simp] theorem setGrid_inputs (k : Nat) (x : Grid) : (s.setGrid k x).inputs = s.inputs := rfl
@[simp] theorem setGrid_ticks (k : Nat) (x : Grid) : (s.setGrid k x).ticks = s.ticks := rfl
@[simp] theorem setGrid_gangs (k : Nat) (x : Grid) : (s.setGrid k x).ctx.gangs = s.ctx.gangs := rfl
@[simp] theorem setGrid_teams (k : Nat) (x : Grid) : (s.setGrid k x).ctx.teams = s.ctx.teams := rfl
@[simp] theorem setGrid_cores (k : Nat) (x : Grid) : (s.setGrid k x).ctx.cores = s.ctx.cores := rfl
@[simp] theorem setGrid_wheel (k : Nat) (x : Grid) : (s.setGrid k x).ctx.wheel = s.ctx.wheel := rfl
@[simp] theorem setGrid_dieQ (k : Nat) (x : Grid) : (s.setGrid k x).ctx.dieQ = s.ctx.dieQ := rfl
@[simp] theorem setGrid_clusterQ (k : Nat) (x : Grid) : (s.setGrid k x).ctx.clusterQ = s.ctx.clusterQ := rfl
@[simp] theorem setGrid_triggers (k : Nat) (x : Grid) : (s.setGrid k x).ctx.triggers = s.ctx.triggers := rfl
@[simp] theorem setGrid_circles (k : Nat) (x : Grid) : (s.setGrid k x).ctx.circles = s.ctx.circles := rfl
@[simp] theorem setGrid_fq (k : Nat) (x : Grid) : (s.setGrid k x).ctx.fq = s.ctx.fq := rfl
@[simp] theorem setGrid_misses (k : Nat) (x : Grid) : (s.setGrid k x).ctx.misses = s.ctx.misses := rfl
@[simp] theorem setGrid_redHold (k : Nat) (x : Grid) : (s.setGrid k x).ctx.redHold = s.ctx.redHold := rfl
@[simp] theorem setGrid_millSlots (k : Nat) (x : Grid) : (s.setGrid k x).ctx.millSlots = s.ctx.millSlots := rfl
@[simp] theorem setGrid_mills (k : Nat) (x : Grid) : (s.setGrid k x).ctx.mills = s.ctx.mills := rfl
@[simp] theorem setGrid_accs (k : Nat) (x : Grid) : (s.setGrid k x).ctx.accs = s.ctx.accs := rfl
@[simp] theorem setGrid_works (k : Nat) (x : Grid) : (s.setGrid k x).ctx.works = s.ctx.works := rfl
@[simp] theorem setGrid_replies (k : Nat) (x : Grid) : (s.setGrid k x).ctx.replies = s.ctx.replies := rfl
@[simp] theorem setGrid_holds (k : Nat) (x : Grid) : (s.setGrid k x).ctx.holds = s.ctx.holds := rfl
@[simp] theorem setGrid_custody (k : Nat) (x : Grid) : (s.setGrid k x).ctx.custody = s.ctx.custody := rfl
@[simp] theorem setGrid_sessions (k : Nat) (x : Grid) : (s.setGrid k x).ctx.sessions = s.ctx.sessions := rfl
@[simp] theorem setGrid_order (k : Nat) (x : Grid) : (s.setGrid k x).ctx.order = s.ctx.order := rfl
@[simp] theorem setGrid_stashOld (k : Nat) (x : Grid) : (s.setGrid k x).ctx.stashOld = s.ctx.stashOld := rfl
@[simp] theorem setGrid_poolPast (k : Nat) (x : Grid) : (s.setGrid k x).ctx.poolPast = s.ctx.poolPast := rfl
@[simp] theorem setGrid_log (k : Nat) (x : Grid) : (s.setGrid k x).ctx.log = s.ctx.log := rfl
@[simp] theorem setGrid_logWrite (k : Nat) (x : Grid) : (s.setGrid k x).ctx.logWrite = s.ctx.logWrite := rfl
@[simp] theorem setGrid_logSeen (k : Nat) (x : Grid) : (s.setGrid k x).ctx.logSeen = s.ctx.logSeen := rfl
@[simp] theorem setGrid_logDropped (k : Nat) (x : Grid) : (s.setGrid k x).ctx.logDropped = s.ctx.logDropped := rfl
@[simp] theorem setGrid_nextId (k : Nat) (x : Grid) : (s.setGrid k x).ctx.nextId = s.ctx.nextId := rfl
@[simp] theorem setGrid_seq (k : Nat) (x : Grid) : (s.setGrid k x).ctx.seq = s.ctx.seq := rfl
@[simp] theorem setGrid_halt (k : Nat) (x : Grid) : (s.setGrid k x).ctx.halt = s.ctx.halt := rfl
@[simp] theorem setGrid_wct (k : Nat) (x : Grid) : (s.setGrid k x).ctx.wct = s.ctx.wct := rfl

/-! setAccess. -/

@[simp] theorem setAccess_dev (k : Nat) (x : Access) : (s.setAccess k x).dev = s.dev := rfl
@[simp] theorem setAccess_saved (k : Nat) (x : Access) : (s.setAccess k x).saved = s.saved := rfl
@[simp] theorem setAccess_cur (k : Nat) (x : Access) : (s.setAccess k x).cur = s.cur := rfl
@[simp] theorem setAccess_eng (k : Nat) (x : Access) : (s.setAccess k x).eng = s.eng := rfl
@[simp] theorem setAccess_inputs (k : Nat) (x : Access) : (s.setAccess k x).inputs = s.inputs := rfl
@[simp] theorem setAccess_ticks (k : Nat) (x : Access) : (s.setAccess k x).ticks = s.ticks := rfl
@[simp] theorem setAccess_gangs (k : Nat) (x : Access) : (s.setAccess k x).ctx.gangs = s.ctx.gangs := rfl
@[simp] theorem setAccess_teams (k : Nat) (x : Access) : (s.setAccess k x).ctx.teams = s.ctx.teams := rfl
@[simp] theorem setAccess_cores (k : Nat) (x : Access) : (s.setAccess k x).ctx.cores = s.ctx.cores := rfl
@[simp] theorem setAccess_grids (k : Nat) (x : Access) : (s.setAccess k x).ctx.grids = s.ctx.grids := rfl
@[simp] theorem setAccess_wheel (k : Nat) (x : Access) : (s.setAccess k x).ctx.wheel = s.ctx.wheel := rfl
@[simp] theorem setAccess_dieQ (k : Nat) (x : Access) : (s.setAccess k x).ctx.dieQ = s.ctx.dieQ := rfl
@[simp] theorem setAccess_clusterQ (k : Nat) (x : Access) : (s.setAccess k x).ctx.clusterQ = s.ctx.clusterQ := rfl
@[simp] theorem setAccess_triggers (k : Nat) (x : Access) : (s.setAccess k x).ctx.triggers = s.ctx.triggers := rfl
@[simp] theorem setAccess_circles (k : Nat) (x : Access) : (s.setAccess k x).ctx.circles = s.ctx.circles := rfl
@[simp] theorem setAccess_fq (k : Nat) (x : Access) : (s.setAccess k x).ctx.fq = s.ctx.fq := rfl
@[simp] theorem setAccess_misses (k : Nat) (x : Access) : (s.setAccess k x).ctx.misses = s.ctx.misses := rfl
@[simp] theorem setAccess_redHold (k : Nat) (x : Access) : (s.setAccess k x).ctx.redHold = s.ctx.redHold := rfl
@[simp] theorem setAccess_millSlots (k : Nat) (x : Access) : (s.setAccess k x).ctx.millSlots = s.ctx.millSlots := rfl
@[simp] theorem setAccess_mills (k : Nat) (x : Access) : (s.setAccess k x).ctx.mills = s.ctx.mills := rfl
@[simp] theorem setAccess_works (k : Nat) (x : Access) : (s.setAccess k x).ctx.works = s.ctx.works := rfl
@[simp] theorem setAccess_replies (k : Nat) (x : Access) : (s.setAccess k x).ctx.replies = s.ctx.replies := rfl
@[simp] theorem setAccess_holds (k : Nat) (x : Access) : (s.setAccess k x).ctx.holds = s.ctx.holds := rfl
@[simp] theorem setAccess_custody (k : Nat) (x : Access) : (s.setAccess k x).ctx.custody = s.ctx.custody := rfl
@[simp] theorem setAccess_sessions (k : Nat) (x : Access) : (s.setAccess k x).ctx.sessions = s.ctx.sessions := rfl
@[simp] theorem setAccess_order (k : Nat) (x : Access) : (s.setAccess k x).ctx.order = s.ctx.order := rfl
@[simp] theorem setAccess_stashOld (k : Nat) (x : Access) : (s.setAccess k x).ctx.stashOld = s.ctx.stashOld := rfl
@[simp] theorem setAccess_poolPast (k : Nat) (x : Access) : (s.setAccess k x).ctx.poolPast = s.ctx.poolPast := rfl
@[simp] theorem setAccess_log (k : Nat) (x : Access) : (s.setAccess k x).ctx.log = s.ctx.log := rfl
@[simp] theorem setAccess_logWrite (k : Nat) (x : Access) : (s.setAccess k x).ctx.logWrite = s.ctx.logWrite := rfl
@[simp] theorem setAccess_logSeen (k : Nat) (x : Access) : (s.setAccess k x).ctx.logSeen = s.ctx.logSeen := rfl
@[simp] theorem setAccess_logDropped (k : Nat) (x : Access) : (s.setAccess k x).ctx.logDropped = s.ctx.logDropped := rfl
@[simp] theorem setAccess_nextId (k : Nat) (x : Access) : (s.setAccess k x).ctx.nextId = s.ctx.nextId := rfl
@[simp] theorem setAccess_seq (k : Nat) (x : Access) : (s.setAccess k x).ctx.seq = s.ctx.seq := rfl
@[simp] theorem setAccess_halt (k : Nat) (x : Access) : (s.setAccess k x).ctx.halt = s.ctx.halt := rfl
@[simp] theorem setAccess_wct (k : Nat) (x : Access) : (s.setAccess k x).ctx.wct = s.ctx.wct := rfl

/-! dropAccess. -/

@[simp] theorem dropAccess_dev (k : Nat) : (s.dropAccess k).dev = s.dev := rfl
@[simp] theorem dropAccess_saved (k : Nat) : (s.dropAccess k).saved = s.saved := rfl
@[simp] theorem dropAccess_cur (k : Nat) : (s.dropAccess k).cur = s.cur := rfl
@[simp] theorem dropAccess_eng (k : Nat) : (s.dropAccess k).eng = s.eng := rfl
@[simp] theorem dropAccess_inputs (k : Nat) : (s.dropAccess k).inputs = s.inputs := rfl
@[simp] theorem dropAccess_ticks (k : Nat) : (s.dropAccess k).ticks = s.ticks := rfl
@[simp] theorem dropAccess_gangs (k : Nat) : (s.dropAccess k).ctx.gangs = s.ctx.gangs := rfl
@[simp] theorem dropAccess_teams (k : Nat) : (s.dropAccess k).ctx.teams = s.ctx.teams := rfl
@[simp] theorem dropAccess_cores (k : Nat) : (s.dropAccess k).ctx.cores = s.ctx.cores := rfl
@[simp] theorem dropAccess_grids (k : Nat) : (s.dropAccess k).ctx.grids = s.ctx.grids := rfl
@[simp] theorem dropAccess_wheel (k : Nat) : (s.dropAccess k).ctx.wheel = s.ctx.wheel := rfl
@[simp] theorem dropAccess_dieQ (k : Nat) : (s.dropAccess k).ctx.dieQ = s.ctx.dieQ := rfl
@[simp] theorem dropAccess_clusterQ (k : Nat) : (s.dropAccess k).ctx.clusterQ = s.ctx.clusterQ := rfl
@[simp] theorem dropAccess_triggers (k : Nat) : (s.dropAccess k).ctx.triggers = s.ctx.triggers := rfl
@[simp] theorem dropAccess_circles (k : Nat) : (s.dropAccess k).ctx.circles = s.ctx.circles := rfl
@[simp] theorem dropAccess_fq (k : Nat) : (s.dropAccess k).ctx.fq = s.ctx.fq := rfl
@[simp] theorem dropAccess_misses (k : Nat) : (s.dropAccess k).ctx.misses = s.ctx.misses := rfl
@[simp] theorem dropAccess_redHold (k : Nat) : (s.dropAccess k).ctx.redHold = s.ctx.redHold := rfl
@[simp] theorem dropAccess_millSlots (k : Nat) : (s.dropAccess k).ctx.millSlots = s.ctx.millSlots := rfl
@[simp] theorem dropAccess_mills (k : Nat) : (s.dropAccess k).ctx.mills = s.ctx.mills := rfl
@[simp] theorem dropAccess_works (k : Nat) : (s.dropAccess k).ctx.works = s.ctx.works := rfl
@[simp] theorem dropAccess_holds (k : Nat) : (s.dropAccess k).ctx.holds = s.ctx.holds := rfl
@[simp] theorem dropAccess_custody (k : Nat) : (s.dropAccess k).ctx.custody = s.ctx.custody := rfl
@[simp] theorem dropAccess_sessions (k : Nat) : (s.dropAccess k).ctx.sessions = s.ctx.sessions := rfl
@[simp] theorem dropAccess_order (k : Nat) : (s.dropAccess k).ctx.order = s.ctx.order := rfl
@[simp] theorem dropAccess_stashOld (k : Nat) : (s.dropAccess k).ctx.stashOld = s.ctx.stashOld := rfl
@[simp] theorem dropAccess_poolPast (k : Nat) : (s.dropAccess k).ctx.poolPast = s.ctx.poolPast := rfl
@[simp] theorem dropAccess_log (k : Nat) : (s.dropAccess k).ctx.log = s.ctx.log := rfl
@[simp] theorem dropAccess_logWrite (k : Nat) : (s.dropAccess k).ctx.logWrite = s.ctx.logWrite := rfl
@[simp] theorem dropAccess_logSeen (k : Nat) : (s.dropAccess k).ctx.logSeen = s.ctx.logSeen := rfl
@[simp] theorem dropAccess_logDropped (k : Nat) : (s.dropAccess k).ctx.logDropped = s.ctx.logDropped := rfl
@[simp] theorem dropAccess_nextId (k : Nat) : (s.dropAccess k).ctx.nextId = s.ctx.nextId := rfl
@[simp] theorem dropAccess_seq (k : Nat) : (s.dropAccess k).ctx.seq = s.ctx.seq := rfl
@[simp] theorem dropAccess_halt (k : Nat) : (s.dropAccess k).ctx.halt = s.ctx.halt := rfl
@[simp] theorem dropAccess_wct (k : Nat) : (s.dropAccess k).ctx.wct = s.ctx.wct := rfl

/-! addAccess. -/

@[simp] theorem addAccess_dev (x : Access) : (s.addAccess x).dev = s.dev := rfl
@[simp] theorem addAccess_saved (x : Access) : (s.addAccess x).saved = s.saved := rfl
@[simp] theorem addAccess_cur (x : Access) : (s.addAccess x).cur = s.cur := rfl
@[simp] theorem addAccess_eng (x : Access) : (s.addAccess x).eng = s.eng := rfl
@[simp] theorem addAccess_inputs (x : Access) : (s.addAccess x).inputs = s.inputs := rfl
@[simp] theorem addAccess_ticks (x : Access) : (s.addAccess x).ticks = s.ticks := rfl
@[simp] theorem addAccess_gangs (x : Access) : (s.addAccess x).ctx.gangs = s.ctx.gangs := rfl
@[simp] theorem addAccess_teams (x : Access) : (s.addAccess x).ctx.teams = s.ctx.teams := rfl
@[simp] theorem addAccess_cores (x : Access) : (s.addAccess x).ctx.cores = s.ctx.cores := rfl
@[simp] theorem addAccess_grids (x : Access) : (s.addAccess x).ctx.grids = s.ctx.grids := rfl
@[simp] theorem addAccess_wheel (x : Access) : (s.addAccess x).ctx.wheel = s.ctx.wheel := rfl
@[simp] theorem addAccess_dieQ (x : Access) : (s.addAccess x).ctx.dieQ = s.ctx.dieQ := rfl
@[simp] theorem addAccess_clusterQ (x : Access) : (s.addAccess x).ctx.clusterQ = s.ctx.clusterQ := rfl
@[simp] theorem addAccess_triggers (x : Access) : (s.addAccess x).ctx.triggers = s.ctx.triggers := rfl
@[simp] theorem addAccess_circles (x : Access) : (s.addAccess x).ctx.circles = s.ctx.circles := rfl
@[simp] theorem addAccess_fq (x : Access) : (s.addAccess x).ctx.fq = s.ctx.fq := rfl
@[simp] theorem addAccess_misses (x : Access) : (s.addAccess x).ctx.misses = s.ctx.misses := rfl
@[simp] theorem addAccess_redHold (x : Access) : (s.addAccess x).ctx.redHold = s.ctx.redHold := rfl
@[simp] theorem addAccess_millSlots (x : Access) : (s.addAccess x).ctx.millSlots = s.ctx.millSlots := rfl
@[simp] theorem addAccess_mills (x : Access) : (s.addAccess x).ctx.mills = s.ctx.mills := rfl
@[simp] theorem addAccess_works (x : Access) : (s.addAccess x).ctx.works = s.ctx.works := rfl
@[simp] theorem addAccess_replies (x : Access) : (s.addAccess x).ctx.replies = s.ctx.replies := rfl
@[simp] theorem addAccess_holds (x : Access) : (s.addAccess x).ctx.holds = s.ctx.holds := rfl
@[simp] theorem addAccess_custody (x : Access) : (s.addAccess x).ctx.custody = s.ctx.custody := rfl
@[simp] theorem addAccess_sessions (x : Access) : (s.addAccess x).ctx.sessions = s.ctx.sessions := rfl
@[simp] theorem addAccess_order (x : Access) : (s.addAccess x).ctx.order = s.ctx.order := rfl
@[simp] theorem addAccess_stashOld (x : Access) : (s.addAccess x).ctx.stashOld = s.ctx.stashOld := rfl
@[simp] theorem addAccess_poolPast (x : Access) : (s.addAccess x).ctx.poolPast = s.ctx.poolPast := rfl
@[simp] theorem addAccess_log (x : Access) : (s.addAccess x).ctx.log = s.ctx.log := rfl
@[simp] theorem addAccess_logWrite (x : Access) : (s.addAccess x).ctx.logWrite = s.ctx.logWrite := rfl
@[simp] theorem addAccess_logSeen (x : Access) : (s.addAccess x).ctx.logSeen = s.ctx.logSeen := rfl
@[simp] theorem addAccess_logDropped (x : Access) : (s.addAccess x).ctx.logDropped = s.ctx.logDropped := rfl
@[simp] theorem addAccess_seq (x : Access) : (s.addAccess x).ctx.seq = s.ctx.seq := rfl
@[simp] theorem addAccess_halt (x : Access) : (s.addAccess x).ctx.halt = s.ctx.halt := rfl
@[simp] theorem addAccess_wct (x : Access) : (s.addAccess x).ctx.wct = s.ctx.wct := rfl

/-! setWork. -/

@[simp] theorem setWork_dev (k : Nat) (w : Work) : (s.setWork k w).dev = s.dev := rfl
@[simp] theorem setWork_saved (k : Nat) (w : Work) : (s.setWork k w).saved = s.saved := rfl
@[simp] theorem setWork_cur (k : Nat) (w : Work) : (s.setWork k w).cur = s.cur := rfl
@[simp] theorem setWork_eng (k : Nat) (w : Work) : (s.setWork k w).eng = s.eng := rfl
@[simp] theorem setWork_inputs (k : Nat) (w : Work) : (s.setWork k w).inputs = s.inputs := rfl
@[simp] theorem setWork_ticks (k : Nat) (w : Work) : (s.setWork k w).ticks = s.ticks := rfl
@[simp] theorem setWork_gangs (k : Nat) (w : Work) : (s.setWork k w).ctx.gangs = s.ctx.gangs := rfl
@[simp] theorem setWork_teams (k : Nat) (w : Work) : (s.setWork k w).ctx.teams = s.ctx.teams := rfl
@[simp] theorem setWork_cores (k : Nat) (w : Work) : (s.setWork k w).ctx.cores = s.ctx.cores := rfl
@[simp] theorem setWork_grids (k : Nat) (w : Work) : (s.setWork k w).ctx.grids = s.ctx.grids := rfl
@[simp] theorem setWork_wheel (k : Nat) (w : Work) : (s.setWork k w).ctx.wheel = s.ctx.wheel := rfl
@[simp] theorem setWork_dieQ (k : Nat) (w : Work) : (s.setWork k w).ctx.dieQ = s.ctx.dieQ := rfl
@[simp] theorem setWork_clusterQ (k : Nat) (w : Work) : (s.setWork k w).ctx.clusterQ = s.ctx.clusterQ := rfl
@[simp] theorem setWork_triggers (k : Nat) (w : Work) : (s.setWork k w).ctx.triggers = s.ctx.triggers := rfl
@[simp] theorem setWork_circles (k : Nat) (w : Work) : (s.setWork k w).ctx.circles = s.ctx.circles := rfl
@[simp] theorem setWork_fq (k : Nat) (w : Work) : (s.setWork k w).ctx.fq = s.ctx.fq := rfl
@[simp] theorem setWork_misses (k : Nat) (w : Work) : (s.setWork k w).ctx.misses = s.ctx.misses := rfl
@[simp] theorem setWork_redHold (k : Nat) (w : Work) : (s.setWork k w).ctx.redHold = s.ctx.redHold := rfl
@[simp] theorem setWork_millSlots (k : Nat) (w : Work) : (s.setWork k w).ctx.millSlots = s.ctx.millSlots := rfl
@[simp] theorem setWork_mills (k : Nat) (w : Work) : (s.setWork k w).ctx.mills = s.ctx.mills := rfl
@[simp] theorem setWork_accs (k : Nat) (w : Work) : (s.setWork k w).ctx.accs = s.ctx.accs := rfl
@[simp] theorem setWork_replies (k : Nat) (w : Work) : (s.setWork k w).ctx.replies = s.ctx.replies := rfl
@[simp] theorem setWork_holds (k : Nat) (w : Work) : (s.setWork k w).ctx.holds = s.ctx.holds := rfl
@[simp] theorem setWork_custody (k : Nat) (w : Work) : (s.setWork k w).ctx.custody = s.ctx.custody := rfl
@[simp] theorem setWork_sessions (k : Nat) (w : Work) : (s.setWork k w).ctx.sessions = s.ctx.sessions := rfl
@[simp] theorem setWork_order (k : Nat) (w : Work) : (s.setWork k w).ctx.order = s.ctx.order := rfl
@[simp] theorem setWork_stashOld (k : Nat) (w : Work) : (s.setWork k w).ctx.stashOld = s.ctx.stashOld := rfl
@[simp] theorem setWork_poolPast (k : Nat) (w : Work) : (s.setWork k w).ctx.poolPast = s.ctx.poolPast := rfl
@[simp] theorem setWork_log (k : Nat) (w : Work) : (s.setWork k w).ctx.log = s.ctx.log := rfl
@[simp] theorem setWork_logWrite (k : Nat) (w : Work) : (s.setWork k w).ctx.logWrite = s.ctx.logWrite := rfl
@[simp] theorem setWork_logSeen (k : Nat) (w : Work) : (s.setWork k w).ctx.logSeen = s.ctx.logSeen := rfl
@[simp] theorem setWork_logDropped (k : Nat) (w : Work) : (s.setWork k w).ctx.logDropped = s.ctx.logDropped := rfl
@[simp] theorem setWork_nextId (k : Nat) (w : Work) : (s.setWork k w).ctx.nextId = s.ctx.nextId := rfl
@[simp] theorem setWork_seq (k : Nat) (w : Work) : (s.setWork k w).ctx.seq = s.ctx.seq := rfl
@[simp] theorem setWork_halt (k : Nat) (w : Work) : (s.setWork k w).ctx.halt = s.ctx.halt := rfl
@[simp] theorem setWork_wct (k : Nat) (w : Work) : (s.setWork k w).ctx.wct = s.ctx.wct := rfl

/-! dropWork. -/

@[simp] theorem dropWork_dev (k : Nat) : (s.dropWork k).dev = s.dev := rfl
@[simp] theorem dropWork_saved (k : Nat) : (s.dropWork k).saved = s.saved := rfl
@[simp] theorem dropWork_cur (k : Nat) : (s.dropWork k).cur = s.cur := rfl
@[simp] theorem dropWork_eng (k : Nat) : (s.dropWork k).eng = s.eng := rfl
@[simp] theorem dropWork_inputs (k : Nat) : (s.dropWork k).inputs = s.inputs := rfl
@[simp] theorem dropWork_ticks (k : Nat) : (s.dropWork k).ticks = s.ticks := rfl
@[simp] theorem dropWork_gangs (k : Nat) : (s.dropWork k).ctx.gangs = s.ctx.gangs := rfl
@[simp] theorem dropWork_teams (k : Nat) : (s.dropWork k).ctx.teams = s.ctx.teams := rfl
@[simp] theorem dropWork_cores (k : Nat) : (s.dropWork k).ctx.cores = s.ctx.cores := rfl
@[simp] theorem dropWork_grids (k : Nat) : (s.dropWork k).ctx.grids = s.ctx.grids := rfl
@[simp] theorem dropWork_wheel (k : Nat) : (s.dropWork k).ctx.wheel = s.ctx.wheel := rfl
@[simp] theorem dropWork_dieQ (k : Nat) : (s.dropWork k).ctx.dieQ = s.ctx.dieQ := rfl
@[simp] theorem dropWork_clusterQ (k : Nat) : (s.dropWork k).ctx.clusterQ = s.ctx.clusterQ := rfl
@[simp] theorem dropWork_triggers (k : Nat) : (s.dropWork k).ctx.triggers = s.ctx.triggers := rfl
@[simp] theorem dropWork_circles (k : Nat) : (s.dropWork k).ctx.circles = s.ctx.circles := rfl
@[simp] theorem dropWork_fq (k : Nat) : (s.dropWork k).ctx.fq = s.ctx.fq := rfl
@[simp] theorem dropWork_misses (k : Nat) : (s.dropWork k).ctx.misses = s.ctx.misses := rfl
@[simp] theorem dropWork_redHold (k : Nat) : (s.dropWork k).ctx.redHold = s.ctx.redHold := rfl
@[simp] theorem dropWork_millSlots (k : Nat) : (s.dropWork k).ctx.millSlots = s.ctx.millSlots := rfl
@[simp] theorem dropWork_mills (k : Nat) : (s.dropWork k).ctx.mills = s.ctx.mills := rfl
@[simp] theorem dropWork_accs (k : Nat) : (s.dropWork k).ctx.accs = s.ctx.accs := rfl
@[simp] theorem dropWork_holds (k : Nat) : (s.dropWork k).ctx.holds = s.ctx.holds := rfl
@[simp] theorem dropWork_custody (k : Nat) : (s.dropWork k).ctx.custody = s.ctx.custody := rfl
@[simp] theorem dropWork_sessions (k : Nat) : (s.dropWork k).ctx.sessions = s.ctx.sessions := rfl
@[simp] theorem dropWork_order (k : Nat) : (s.dropWork k).ctx.order = s.ctx.order := rfl
@[simp] theorem dropWork_stashOld (k : Nat) : (s.dropWork k).ctx.stashOld = s.ctx.stashOld := rfl
@[simp] theorem dropWork_poolPast (k : Nat) : (s.dropWork k).ctx.poolPast = s.ctx.poolPast := rfl
@[simp] theorem dropWork_log (k : Nat) : (s.dropWork k).ctx.log = s.ctx.log := rfl
@[simp] theorem dropWork_logWrite (k : Nat) : (s.dropWork k).ctx.logWrite = s.ctx.logWrite := rfl
@[simp] theorem dropWork_logSeen (k : Nat) : (s.dropWork k).ctx.logSeen = s.ctx.logSeen := rfl
@[simp] theorem dropWork_logDropped (k : Nat) : (s.dropWork k).ctx.logDropped = s.ctx.logDropped := rfl
@[simp] theorem dropWork_nextId (k : Nat) : (s.dropWork k).ctx.nextId = s.ctx.nextId := rfl
@[simp] theorem dropWork_seq (k : Nat) : (s.dropWork k).ctx.seq = s.ctx.seq := rfl
@[simp] theorem dropWork_halt (k : Nat) : (s.dropWork k).ctx.halt = s.ctx.halt := rfl
@[simp] theorem dropWork_wct (k : Nat) : (s.dropWork k).ctx.wct = s.ctx.wct := rfl

/-! addWork. -/

@[simp] theorem addWork_dev (w : Work) : (s.addWork w).dev = s.dev := rfl
@[simp] theorem addWork_saved (w : Work) : (s.addWork w).saved = s.saved := rfl
@[simp] theorem addWork_cur (w : Work) : (s.addWork w).cur = s.cur := rfl
@[simp] theorem addWork_eng (w : Work) : (s.addWork w).eng = s.eng := rfl
@[simp] theorem addWork_inputs (w : Work) : (s.addWork w).inputs = s.inputs := rfl
@[simp] theorem addWork_ticks (w : Work) : (s.addWork w).ticks = s.ticks := rfl
@[simp] theorem addWork_gangs (w : Work) : (s.addWork w).ctx.gangs = s.ctx.gangs := rfl
@[simp] theorem addWork_teams (w : Work) : (s.addWork w).ctx.teams = s.ctx.teams := rfl
@[simp] theorem addWork_cores (w : Work) : (s.addWork w).ctx.cores = s.ctx.cores := rfl
@[simp] theorem addWork_grids (w : Work) : (s.addWork w).ctx.grids = s.ctx.grids := rfl
@[simp] theorem addWork_wheel (w : Work) : (s.addWork w).ctx.wheel = s.ctx.wheel := rfl
@[simp] theorem addWork_dieQ (w : Work) : (s.addWork w).ctx.dieQ = s.ctx.dieQ := rfl
@[simp] theorem addWork_clusterQ (w : Work) : (s.addWork w).ctx.clusterQ = s.ctx.clusterQ := rfl
@[simp] theorem addWork_triggers (w : Work) : (s.addWork w).ctx.triggers = s.ctx.triggers := rfl
@[simp] theorem addWork_circles (w : Work) : (s.addWork w).ctx.circles = s.ctx.circles := rfl
@[simp] theorem addWork_fq (w : Work) : (s.addWork w).ctx.fq = s.ctx.fq := rfl
@[simp] theorem addWork_misses (w : Work) : (s.addWork w).ctx.misses = s.ctx.misses := rfl
@[simp] theorem addWork_redHold (w : Work) : (s.addWork w).ctx.redHold = s.ctx.redHold := rfl
@[simp] theorem addWork_millSlots (w : Work) : (s.addWork w).ctx.millSlots = s.ctx.millSlots := rfl
@[simp] theorem addWork_mills (w : Work) : (s.addWork w).ctx.mills = s.ctx.mills := rfl
@[simp] theorem addWork_accs (w : Work) : (s.addWork w).ctx.accs = s.ctx.accs := rfl
@[simp] theorem addWork_replies (w : Work) : (s.addWork w).ctx.replies = s.ctx.replies := rfl
@[simp] theorem addWork_holds (w : Work) : (s.addWork w).ctx.holds = s.ctx.holds := rfl
@[simp] theorem addWork_custody (w : Work) : (s.addWork w).ctx.custody = s.ctx.custody := rfl
@[simp] theorem addWork_sessions (w : Work) : (s.addWork w).ctx.sessions = s.ctx.sessions := rfl
@[simp] theorem addWork_order (w : Work) : (s.addWork w).ctx.order = s.ctx.order := rfl
@[simp] theorem addWork_stashOld (w : Work) : (s.addWork w).ctx.stashOld = s.ctx.stashOld := rfl
@[simp] theorem addWork_poolPast (w : Work) : (s.addWork w).ctx.poolPast = s.ctx.poolPast := rfl
@[simp] theorem addWork_log (w : Work) : (s.addWork w).ctx.log = s.ctx.log := rfl
@[simp] theorem addWork_logWrite (w : Work) : (s.addWork w).ctx.logWrite = s.ctx.logWrite := rfl
@[simp] theorem addWork_logSeen (w : Work) : (s.addWork w).ctx.logSeen = s.ctx.logSeen := rfl
@[simp] theorem addWork_logDropped (w : Work) : (s.addWork w).ctx.logDropped = s.ctx.logDropped := rfl
@[simp] theorem addWork_seq (w : Work) : (s.addWork w).ctx.seq = s.ctx.seq := rfl
@[simp] theorem addWork_halt (w : Work) : (s.addWork w).ctx.halt = s.ctx.halt := rfl
@[simp] theorem addWork_wct (w : Work) : (s.addWork w).ctx.wct = s.ctx.wct := rfl

/-! addHold. -/

@[simp] theorem addHold_dev (h : Hold) : (s.addHold h).dev = s.dev := rfl
@[simp] theorem addHold_saved (h : Hold) : (s.addHold h).saved = s.saved := rfl
@[simp] theorem addHold_cur (h : Hold) : (s.addHold h).cur = s.cur := rfl
@[simp] theorem addHold_eng (h : Hold) : (s.addHold h).eng = s.eng := rfl
@[simp] theorem addHold_inputs (h : Hold) : (s.addHold h).inputs = s.inputs := rfl
@[simp] theorem addHold_ticks (h : Hold) : (s.addHold h).ticks = s.ticks := rfl
@[simp] theorem addHold_gangs (h : Hold) : (s.addHold h).ctx.gangs = s.ctx.gangs := rfl
@[simp] theorem addHold_teams (h : Hold) : (s.addHold h).ctx.teams = s.ctx.teams := rfl
@[simp] theorem addHold_cores (h : Hold) : (s.addHold h).ctx.cores = s.ctx.cores := rfl
@[simp] theorem addHold_grids (h : Hold) : (s.addHold h).ctx.grids = s.ctx.grids := rfl
@[simp] theorem addHold_wheel (h : Hold) : (s.addHold h).ctx.wheel = s.ctx.wheel := rfl
@[simp] theorem addHold_dieQ (h : Hold) : (s.addHold h).ctx.dieQ = s.ctx.dieQ := rfl
@[simp] theorem addHold_clusterQ (h : Hold) : (s.addHold h).ctx.clusterQ = s.ctx.clusterQ := rfl
@[simp] theorem addHold_triggers (h : Hold) : (s.addHold h).ctx.triggers = s.ctx.triggers := rfl
@[simp] theorem addHold_circles (h : Hold) : (s.addHold h).ctx.circles = s.ctx.circles := rfl
@[simp] theorem addHold_fq (h : Hold) : (s.addHold h).ctx.fq = s.ctx.fq := rfl
@[simp] theorem addHold_misses (h : Hold) : (s.addHold h).ctx.misses = s.ctx.misses := rfl
@[simp] theorem addHold_redHold (h : Hold) : (s.addHold h).ctx.redHold = s.ctx.redHold := rfl
@[simp] theorem addHold_millSlots (h : Hold) : (s.addHold h).ctx.millSlots = s.ctx.millSlots := rfl
@[simp] theorem addHold_mills (h : Hold) : (s.addHold h).ctx.mills = s.ctx.mills := rfl
@[simp] theorem addHold_accs (h : Hold) : (s.addHold h).ctx.accs = s.ctx.accs := rfl
@[simp] theorem addHold_works (h : Hold) : (s.addHold h).ctx.works = s.ctx.works := rfl
@[simp] theorem addHold_replies (h : Hold) : (s.addHold h).ctx.replies = s.ctx.replies := rfl
@[simp] theorem addHold_custody (h : Hold) : (s.addHold h).ctx.custody = s.ctx.custody := rfl
@[simp] theorem addHold_sessions (h : Hold) : (s.addHold h).ctx.sessions = s.ctx.sessions := rfl
@[simp] theorem addHold_order (h : Hold) : (s.addHold h).ctx.order = s.ctx.order := rfl
@[simp] theorem addHold_stashOld (h : Hold) : (s.addHold h).ctx.stashOld = s.ctx.stashOld := rfl
@[simp] theorem addHold_poolPast (h : Hold) : (s.addHold h).ctx.poolPast = s.ctx.poolPast := rfl
@[simp] theorem addHold_log (h : Hold) : (s.addHold h).ctx.log = s.ctx.log := rfl
@[simp] theorem addHold_logWrite (h : Hold) : (s.addHold h).ctx.logWrite = s.ctx.logWrite := rfl
@[simp] theorem addHold_logSeen (h : Hold) : (s.addHold h).ctx.logSeen = s.ctx.logSeen := rfl
@[simp] theorem addHold_logDropped (h : Hold) : (s.addHold h).ctx.logDropped = s.ctx.logDropped := rfl
@[simp] theorem addHold_seq (h : Hold) : (s.addHold h).ctx.seq = s.ctx.seq := rfl
@[simp] theorem addHold_halt (h : Hold) : (s.addHold h).ctx.halt = s.ctx.halt := rfl
@[simp] theorem addHold_wct (h : Hold) : (s.addHold h).ctx.wct = s.ctx.wct := rfl

/-! dropHold. -/

@[simp] theorem dropHold_dev (k : Nat) : (s.dropHold k).dev = s.dev := rfl
@[simp] theorem dropHold_saved (k : Nat) : (s.dropHold k).saved = s.saved := rfl
@[simp] theorem dropHold_cur (k : Nat) : (s.dropHold k).cur = s.cur := rfl
@[simp] theorem dropHold_eng (k : Nat) : (s.dropHold k).eng = s.eng := rfl
@[simp] theorem dropHold_inputs (k : Nat) : (s.dropHold k).inputs = s.inputs := rfl
@[simp] theorem dropHold_ticks (k : Nat) : (s.dropHold k).ticks = s.ticks := rfl
@[simp] theorem dropHold_gangs (k : Nat) : (s.dropHold k).ctx.gangs = s.ctx.gangs := rfl
@[simp] theorem dropHold_teams (k : Nat) : (s.dropHold k).ctx.teams = s.ctx.teams := rfl
@[simp] theorem dropHold_cores (k : Nat) : (s.dropHold k).ctx.cores = s.ctx.cores := rfl
@[simp] theorem dropHold_grids (k : Nat) : (s.dropHold k).ctx.grids = s.ctx.grids := rfl
@[simp] theorem dropHold_wheel (k : Nat) : (s.dropHold k).ctx.wheel = s.ctx.wheel := rfl
@[simp] theorem dropHold_dieQ (k : Nat) : (s.dropHold k).ctx.dieQ = s.ctx.dieQ := rfl
@[simp] theorem dropHold_clusterQ (k : Nat) : (s.dropHold k).ctx.clusterQ = s.ctx.clusterQ := rfl
@[simp] theorem dropHold_triggers (k : Nat) : (s.dropHold k).ctx.triggers = s.ctx.triggers := rfl
@[simp] theorem dropHold_circles (k : Nat) : (s.dropHold k).ctx.circles = s.ctx.circles := rfl
@[simp] theorem dropHold_fq (k : Nat) : (s.dropHold k).ctx.fq = s.ctx.fq := rfl
@[simp] theorem dropHold_misses (k : Nat) : (s.dropHold k).ctx.misses = s.ctx.misses := rfl
@[simp] theorem dropHold_redHold (k : Nat) : (s.dropHold k).ctx.redHold = s.ctx.redHold := rfl
@[simp] theorem dropHold_millSlots (k : Nat) : (s.dropHold k).ctx.millSlots = s.ctx.millSlots := rfl
@[simp] theorem dropHold_mills (k : Nat) : (s.dropHold k).ctx.mills = s.ctx.mills := rfl
@[simp] theorem dropHold_accs (k : Nat) : (s.dropHold k).ctx.accs = s.ctx.accs := rfl
@[simp] theorem dropHold_works (k : Nat) : (s.dropHold k).ctx.works = s.ctx.works := rfl
@[simp] theorem dropHold_replies (k : Nat) : (s.dropHold k).ctx.replies = s.ctx.replies := rfl
@[simp] theorem dropHold_custody (k : Nat) : (s.dropHold k).ctx.custody = s.ctx.custody := rfl
@[simp] theorem dropHold_sessions (k : Nat) : (s.dropHold k).ctx.sessions = s.ctx.sessions := rfl
@[simp] theorem dropHold_order (k : Nat) : (s.dropHold k).ctx.order = s.ctx.order := rfl
@[simp] theorem dropHold_stashOld (k : Nat) : (s.dropHold k).ctx.stashOld = s.ctx.stashOld := rfl
@[simp] theorem dropHold_poolPast (k : Nat) : (s.dropHold k).ctx.poolPast = s.ctx.poolPast := rfl
@[simp] theorem dropHold_log (k : Nat) : (s.dropHold k).ctx.log = s.ctx.log := rfl
@[simp] theorem dropHold_logWrite (k : Nat) : (s.dropHold k).ctx.logWrite = s.ctx.logWrite := rfl
@[simp] theorem dropHold_logSeen (k : Nat) : (s.dropHold k).ctx.logSeen = s.ctx.logSeen := rfl
@[simp] theorem dropHold_logDropped (k : Nat) : (s.dropHold k).ctx.logDropped = s.ctx.logDropped := rfl
@[simp] theorem dropHold_nextId (k : Nat) : (s.dropHold k).ctx.nextId = s.ctx.nextId := rfl
@[simp] theorem dropHold_seq (k : Nat) : (s.dropHold k).ctx.seq = s.ctx.seq := rfl
@[simp] theorem dropHold_halt (k : Nat) : (s.dropHold k).ctx.halt = s.ctx.halt := rfl
@[simp] theorem dropHold_wct (k : Nat) : (s.dropHold k).ctx.wct = s.ctx.wct := rfl

/-! The device updates leave the context and the rest. -/

@[simp] theorem setDev_ctx (f : Dev → Dev) : (s.setDev f).ctx = s.ctx := rfl
@[simp] theorem setDev_saved (f : Dev → Dev) : (s.setDev f).saved = s.saved := rfl
@[simp] theorem setDev_cur (f : Dev → Dev) : (s.setDev f).cur = s.cur := rfl
@[simp] theorem setDev_eng (f : Dev → Dev) : (s.setDev f).eng = s.eng := rfl
@[simp] theorem setDev_inputs (f : Dev → Dev) : (s.setDev f).inputs = s.inputs := rfl
@[simp] theorem setDev_ticks (f : Dev → Dev) : (s.setDev f).ticks = s.ticks := rfl
@[simp] theorem setHost_ctx (f : HostRegs → HostRegs) : (s.setHost f).ctx = s.ctx := rfl
@[simp] theorem setHost_saved (f : HostRegs → HostRegs) : (s.setHost f).saved = s.saved := rfl
@[simp] theorem setHost_cur (f : HostRegs → HostRegs) : (s.setHost f).cur = s.cur := rfl
@[simp] theorem setHost_eng (f : HostRegs → HostRegs) : (s.setHost f).eng = s.eng := rfl
@[simp] theorem setHost_inputs (f : HostRegs → HostRegs) : (s.setHost f).inputs = s.inputs := rfl
@[simp] theorem setHost_ticks (f : HostRegs → HostRegs) : (s.setHost f).ticks = s.ticks := rfl
@[simp] theorem setCoreDev_ctx (k : Nat) (x : CoreDev) : (s.setCoreDev k x).ctx = s.ctx := rfl
@[simp] theorem setCoreDev_saved (k : Nat) (x : CoreDev) : (s.setCoreDev k x).saved = s.saved := rfl
@[simp] theorem setCoreDev_cur (k : Nat) (x : CoreDev) : (s.setCoreDev k x).cur = s.cur := rfl
@[simp] theorem setCoreDev_eng (k : Nat) (x : CoreDev) : (s.setCoreDev k x).eng = s.eng := rfl
@[simp] theorem setCoreDev_inputs (k : Nat) (x : CoreDev) : (s.setCoreDev k x).inputs = s.inputs := rfl
@[simp] theorem setCoreDev_ticks (k : Nat) (x : CoreDev) : (s.setCoreDev k x).ticks = s.ticks := rfl
@[simp] theorem setDev_dev (f : Dev → Dev) : (s.setDev f).dev = f s.dev := rfl
@[simp] theorem setCtx_ctx (f : Ctx → Ctx) : (s.setCtx f).ctx = f s.ctx := rfl
@[simp] theorem setCtx_dev (f : Ctx → Ctx) : (s.setCtx f).dev = s.dev := rfl
@[simp] theorem setCtx_saved (f : Ctx → Ctx) : (s.setCtx f).saved = s.saved := rfl
@[simp] theorem setCtx_cur (f : Ctx → Ctx) : (s.setCtx f).cur = s.cur := rfl
@[simp] theorem setCtx_eng (f : Ctx → Ctx) : (s.setCtx f).eng = s.eng := rfl
@[simp] theorem setCtx_inputs (f : Ctx → Ctx) : (s.setCtx f).inputs = s.inputs := rfl
@[simp] theorem setCtx_ticks (f : Ctx → Ctx) : (s.setCtx f).ticks = s.ticks := rfl

/-! Reads of the tables after their updates. -/

@[simp] theorem gang_setGang_same (k : Nat) (x : Gang) : (s.setGang k x).gang k = x := by simp [setGang, gang]
theorem gang_setGang_other {k j : Nat} (x : Gang) (h : j ≠ k) : (s.setGang k x).gang j = s.gang j := by
  simp [setGang, gang, Tbl.get_set_other _ _ _ h]
@[simp] theorem gang_modGang_same (k : Nat) (f : Gang → Gang) : (s.modGang k f).gang k = f (s.gang k) := by simp [modGang]
theorem gang_modGang_other {k j : Nat} (f : Gang → Gang) (h : j ≠ k) : (s.modGang k f).gang j = s.gang j := by
  simp [modGang, gang_setGang_other _ _ h]
@[simp] theorem gang_setTeam (k : Nat) (x : Team) (j : Nat) : (s.setTeam k x).gang j = s.gang j := rfl
@[simp] theorem gang_modTeam (k : Nat) (f : Team → Team) (j : Nat) : (s.modTeam k f).gang j = s.gang j := rfl
@[simp] theorem gang_setCore (k : Nat) (x : Core) (j : Nat) : (s.setCore k x).gang j = s.gang j := rfl
@[simp] theorem gang_modCore (k : Nat) (f : Core → Core) (j : Nat) : (s.modCore k f).gang j = s.gang j := rfl
@[simp] theorem gang_setGrid (k : Nat) (x : Grid) (j : Nat) : (s.setGrid k x).gang j = s.gang j := rfl
@[simp] theorem gang_addAccess (x : Access) (j : Nat) : (s.addAccess x).gang j = s.gang j := rfl
@[simp] theorem gang_addWork (w : Work) (j : Nat) : (s.addWork w).gang j = s.gang j := rfl
@[simp] theorem gang_addHold (h : Hold) (j : Nat) : (s.addHold h).gang j = s.gang j := rfl
@[simp] theorem gang_dropAccess (k : Nat) (j : Nat) : (s.dropAccess k).gang j = s.gang j := rfl
@[simp] theorem gang_dropWork (k : Nat) (j : Nat) : (s.dropWork k).gang j = s.gang j := rfl
@[simp] theorem gang_dropHold (k : Nat) (j : Nat) : (s.dropHold k).gang j = s.gang j := rfl
@[simp] theorem gang_setDev (f : Dev → Dev) (j : Nat) : (s.setDev f).gang j = s.gang j := rfl
@[simp] theorem team_setTeam_same (k : Nat) (x : Team) : (s.setTeam k x).team k = x := by simp [setTeam, team]
theorem team_setTeam_other {k j : Nat} (x : Team) (h : j ≠ k) : (s.setTeam k x).team j = s.team j := by
  simp [setTeam, team, Tbl.get_set_other _ _ _ h]
@[simp] theorem team_modTeam_same (k : Nat) (f : Team → Team) : (s.modTeam k f).team k = f (s.team k) := by simp [modTeam]
theorem team_modTeam_other {k j : Nat} (f : Team → Team) (h : j ≠ k) : (s.modTeam k f).team j = s.team j := by
  simp [modTeam, team_setTeam_other _ _ h]
@[simp] theorem team_setGang (k : Nat) (x : Gang) (j : Nat) : (s.setGang k x).team j = s.team j := rfl
@[simp] theorem team_modGang (k : Nat) (f : Gang → Gang) (j : Nat) : (s.modGang k f).team j = s.team j := rfl
@[simp] theorem team_setCore (k : Nat) (x : Core) (j : Nat) : (s.setCore k x).team j = s.team j := rfl
@[simp] theorem team_modCore (k : Nat) (f : Core → Core) (j : Nat) : (s.modCore k f).team j = s.team j := rfl
@[simp] theorem team_setGrid (k : Nat) (x : Grid) (j : Nat) : (s.setGrid k x).team j = s.team j := rfl
@[simp] theorem team_addAccess (x : Access) (j : Nat) : (s.addAccess x).team j = s.team j := rfl
@[simp] theorem team_addWork (w : Work) (j : Nat) : (s.addWork w).team j = s.team j := rfl
@[simp] theorem team_addHold (h : Hold) (j : Nat) : (s.addHold h).team j = s.team j := rfl
@[simp] theorem team_dropAccess (k : Nat) (j : Nat) : (s.dropAccess k).team j = s.team j := rfl
@[simp] theorem team_dropWork (k : Nat) (j : Nat) : (s.dropWork k).team j = s.team j := rfl
@[simp] theorem team_dropHold (k : Nat) (j : Nat) : (s.dropHold k).team j = s.team j := rfl
@[simp] theorem team_setDev (f : Dev → Dev) (j : Nat) : (s.setDev f).team j = s.team j := rfl
@[simp] theorem core_setCore_same (k : Nat) (x : Core) : (s.setCore k x).core k = x := by simp [setCore, core]
theorem core_setCore_other {k j : Nat} (x : Core) (h : j ≠ k) : (s.setCore k x).core j = s.core j := by
  simp [setCore, core, Tbl.get_set_other _ _ _ h]
@[simp] theorem core_modCore_same (k : Nat) (f : Core → Core) : (s.modCore k f).core k = f (s.core k) := by simp [modCore]
theorem core_modCore_other {k j : Nat} (f : Core → Core) (h : j ≠ k) : (s.modCore k f).core j = s.core j := by
  simp [modCore, core_setCore_other _ _ h]
@[simp] theorem core_setGang (k : Nat) (x : Gang) (j : Nat) : (s.setGang k x).core j = s.core j := rfl
@[simp] theorem core_modGang (k : Nat) (f : Gang → Gang) (j : Nat) : (s.modGang k f).core j = s.core j := rfl
@[simp] theorem core_setTeam (k : Nat) (x : Team) (j : Nat) : (s.setTeam k x).core j = s.core j := rfl
@[simp] theorem core_modTeam (k : Nat) (f : Team → Team) (j : Nat) : (s.modTeam k f).core j = s.core j := rfl
@[simp] theorem core_setGrid (k : Nat) (x : Grid) (j : Nat) : (s.setGrid k x).core j = s.core j := rfl
@[simp] theorem core_addAccess (x : Access) (j : Nat) : (s.addAccess x).core j = s.core j := rfl
@[simp] theorem core_addWork (w : Work) (j : Nat) : (s.addWork w).core j = s.core j := rfl
@[simp] theorem core_addHold (h : Hold) (j : Nat) : (s.addHold h).core j = s.core j := rfl
@[simp] theorem core_dropAccess (k : Nat) (j : Nat) : (s.dropAccess k).core j = s.core j := rfl
@[simp] theorem core_dropWork (k : Nat) (j : Nat) : (s.dropWork k).core j = s.core j := rfl
@[simp] theorem core_dropHold (k : Nat) (j : Nat) : (s.dropHold k).core j = s.core j := rfl
@[simp] theorem core_setDev (f : Dev → Dev) (j : Nat) : (s.setDev f).core j = s.core j := rfl
@[simp] theorem grid_setGrid_same (k : Nat) (x : Grid) : (s.setGrid k x).grid k = x := by simp [setGrid, grid]
theorem grid_setGrid_other {k j : Nat} (x : Grid) (h : j ≠ k) : (s.setGrid k x).grid j = s.grid j := by
  simp [setGrid, grid, Tbl.get_set_other _ _ _ h]
@[simp] theorem grid_setGang (k : Nat) (x : Gang) (j : Nat) : (s.setGang k x).grid j = s.grid j := rfl
@[simp] theorem grid_modGang (k : Nat) (f : Gang → Gang) (j : Nat) : (s.modGang k f).grid j = s.grid j := rfl
@[simp] theorem grid_setTeam (k : Nat) (x : Team) (j : Nat) : (s.setTeam k x).grid j = s.grid j := rfl
@[simp] theorem grid_modTeam (k : Nat) (f : Team → Team) (j : Nat) : (s.modTeam k f).grid j = s.grid j := rfl
@[simp] theorem grid_setCore (k : Nat) (x : Core) (j : Nat) : (s.setCore k x).grid j = s.grid j := rfl
@[simp] theorem grid_modCore (k : Nat) (f : Core → Core) (j : Nat) : (s.modCore k f).grid j = s.grid j := rfl
@[simp] theorem grid_addAccess (x : Access) (j : Nat) : (s.addAccess x).grid j = s.grid j := rfl
@[simp] theorem grid_addWork (w : Work) (j : Nat) : (s.addWork w).grid j = s.grid j := rfl
@[simp] theorem grid_addHold (h : Hold) (j : Nat) : (s.addHold h).grid j = s.grid j := rfl
@[simp] theorem grid_dropAccess (k : Nat) (j : Nat) : (s.dropAccess k).grid j = s.grid j := rfl
@[simp] theorem grid_dropWork (k : Nat) (j : Nat) : (s.dropWork k).grid j = s.grid j := rfl
@[simp] theorem grid_dropHold (k : Nat) (j : Nat) : (s.dropHold k).grid j = s.grid j := rfl
@[simp] theorem grid_setDev (f : Dev → Dev) (j : Nat) : (s.setDev f).grid j = s.grid j := rfl

@[simp] theorem access?_addAccess (x : Access) : (s.addAccess x).access? s.ctx.nextId = some x := by
  simp [addAccess, fresh, setAccess, access?]
theorem access?_addAccess_other (x : Access) {j : Nat} (h : j ≠ s.ctx.nextId) : (s.addAccess x).access? j = s.access? j := by
  simp [addAccess, fresh, setAccess, access?, Tbl.find?_set_other _ _ h]
@[simp] theorem work?_addWork (w : Work) : (s.addWork w).work? s.ctx.nextId = some w := by
  simp [addWork, fresh, setWork, work?]
theorem work?_addWork_other (w : Work) {j : Nat} (h : j ≠ s.ctx.nextId) : (s.addWork w).work? j = s.work? j := by
  simp [addWork, fresh, setWork, work?, Tbl.find?_set_other _ _ h]
@[simp] theorem access?_modGang (k : Nat) (f : Gang → Gang) (j : Nat) : (s.modGang k f).access? j = s.access? j := rfl
@[simp] theorem work?_modGang (k : Nat) (f : Gang → Gang) (j : Nat) : (s.modGang k f).work? j = s.work? j := rfl
@[simp] theorem nextId_addAccess (x : Access) : (s.addAccess x).ctx.nextId = s.ctx.nextId + 1 := rfl
@[simp] theorem nextId_addWork (w : Work) : (s.addWork w).ctx.nextId = s.ctx.nextId + 1 := rfl
@[simp] theorem nextId_addHold (h : Hold) : (s.addHold h).ctx.nextId = s.ctx.nextId + 1 := rfl

end State

end Sys2Proof.Machine
end

