-- ==== Sys2Proof/Laws/Gang.lean ====
section
/-! SUPPORT. Laws of lanes, gangs and lane sets: register reads after writes, and one function applied to the lanes of a set. -/

namespace Sys2Proof.Machine

open Sys2Proof

@[simp] theorem Lane.reg_setReg_same (l : Lane) (n : Nat) (x : Word) : (l.setReg n x).reg n = x := by simp [Lane.reg, Lane.setReg]
theorem Lane.reg_setReg_other (l : Lane) {n k : Nat} (x : Word) (h : k ≠ n) : (l.setReg n x).reg k = l.reg k := by
  simp [Lane.reg, Lane.setReg, Tbl.get_set_other _ _ _ h]

namespace Gang

variable (g : Gang)

@[simp] theorem sreg_setS_same (n : Nat) (x : Word) : (g.setS n x).sreg n = x := by simp [sreg, setS]
theorem sreg_setS_other {n k : Nat} (x : Word) (h : k ≠ n) : (g.setS n x).sreg k = g.sreg k := by
  simp [sreg, setS, Tbl.get_set_other _ _ _ h]
@[simp] theorem mask_setMask_same (n : Nat) (x : Lanes) : (g.setMask n x).mask n = x := by simp [mask, setMask]
theorem mask_setMask_other {n k : Nat} (x : Lanes) (h : k ≠ n) : (g.setMask n x).mask k = g.mask k := by
  simp [mask, setMask, Tbl.get_set_other _ _ _ h]
@[simp] theorem lane_setLane_same (l : Nat) (x : Lane) : (g.setLane l x).lane l = x := by simp [lane, setLane]
theorem lane_setLane_other {l k : Nat} (x : Lane) (h : k ≠ l) : (g.setLane l x).lane k = g.lane k := by
  simp [lane, setLane, Tbl.get_set_other _ _ _ h]
@[simp] theorem lane_modLane_same (l : Nat) (f : Lane → Lane) : (g.modLane l f).lane l = f (g.lane l) := by simp [modLane]
theorem lane_modLane_other {l k : Nat} (f : Lane → Lane) (h : k ≠ l) : (g.modLane l f).lane k = g.lane k := by
  simp [modLane, lane_setLane_other _ _ h]
@[simp] theorem lane_setS (n : Nat) (x : Word) (l : Nat) : (g.setS n x).lane l = g.lane l := rfl
@[simp] theorem lane_flag (f : BitVec 5) (l : Nat) : (g.flag f).lane l = g.lane l := rfl
@[simp] theorem lane_setMask (n : Nat) (x : Lanes) (l : Nat) : (g.setMask n x).lane l = g.lane l := rfl
@[simp] theorem lane_setZ (n : Nat) (b : Bool) (l : Nat) : (g.setZ n b).lane l = g.lane l := by unfold setZ; split <;> rfl
@[simp] theorem flag_zero : g.flag 0 = g := by cases g; simp [flag]

/-- One function on the lanes of a list leaves the rest of the gang as it is. -/
theorem modLanes_eq (ls : List Nat) (f : Nat → Lane → Lane) : g.modLanes ls f = { g with lanes := (g.modLanes ls f).lanes } := by
  unfold modLanes
  induction ls generalizing g with
  | nil => rfl
  | cons l ls ih => simp only [List.foldl_cons]; rw [ih]; rfl

/-- One function on the lanes of a list of distinct lanes: each lane of it has changed once, the others not. -/
theorem lane_modLanes {ls : List Nat} (hn : ls.Nodup) (f : Nat → Lane → Lane) (k : Nat) :
    (g.modLanes ls f).lane k = if k ∈ ls then f k (g.lane k) else g.lane k := by
  unfold modLanes
  induction ls generalizing g with
  | nil => simp
  | cons l ls ih =>
    simp only [List.foldl_cons, List.mem_cons]
    rw [ih _ (List.nodup_cons.1 hn).2]
    by_cases hk : k = l
    · subst hk
      simp [(List.nodup_cons.1 hn).1]
    · simp [hk, lane_modLane_other _ _ hk]

end Gang

theorem laneList_nodup (m : Lanes) : (laneList m).Nodup := List.Nodup.filter _ List.nodup_range

theorem mem_laneList {m : Lanes} {l : Nat} : l ∈ laneList m ↔ l < 64 ∧ m.getLsbD l = true := by simp [laneList]

theorem laneList_eq_filter (m : Lanes) (p : Nat → Bool) : ((laneList m).filter p).Nodup := (laneList_nodup m).filter _

/-- The lanes that execute are distinct lanes of the issuing set (R66). -/
theorem executing_nodup (g : Gang) (m : Lanes) (i : Instr) : (executing g m i).Nodup := by
  unfold executing
  split
  · exact laneList_eq_filter _ _
  · exact laneList_nodup m
  · split
    · exact laneList_nodup m
    · simp

theorem executing_subset {g : Gang} {m : Lanes} {i : Instr} {l : Nat} (h : l ∈ executing g m i) : l ∈ laneList m := by
  unfold executing at h
  split at h
  · exact List.mem_of_mem_filter h
  · exact h
  · split at h
    · exact h
    · simp at h

/-- The set of a list has the lanes of the list below 64. -/
theorem getLsbD_foldl_laneSet (ls : List Nat) (m : Lanes) (k : Nat) :
    (ls.foldl (fun m l => m ||| (1#64 <<< l)) m).getLsbD k = (m.getLsbD k || (decide (k < 64) && ls.contains k)) := by
  induction ls generalizing m with
  | nil => simp
  | cons l ls ih =>
    simp only [List.foldl_cons, ih]
    by_cases hk : k < 64
    · by_cases hl : k = l
      · subst hl; simp [hk]
      · by_cases h2 : k < l
        · simp [hk, h2, hl]
        · have : k - l ≠ 0 := by omega
          simp [hk, h2, hl, this]
    · simp [hk, BitVec.getLsbD_of_ge _ _ (Nat.le_of_not_lt hk)]

theorem getLsbD_laneSet (ls : List Nat) (k : Nat) : (laneSet ls).getLsbD k = (decide (k < 64) && ls.contains k) := by
  simp [laneSet, getLsbD_foldl_laneSet]

theorem lanesWhere_getLsbD (g : Gang) (p : Nat → Lane → Bool) (k : Nat) :
    (g.lanesWhere p).getLsbD k = (decide (k < 64) && p k (g.lane k)) := by
  simp only [Gang.lanesWhere, getLsbD_laneSet]
  by_cases hk : k < 64 <;> simp [hk]

end Sys2Proof.Machine
end

