-- ==== Sys2Proof/Laws/Issue.lean ====
section
/-! SUPPORT. What issue does, said once: every instruction word is an issue of its own part; where a word executes, its part has its
effect; and the effects of the shared shapes of lane, cross-lane and uniform words. -/

namespace Sys2Proof.Machine

open Sys2Proof Claims

/-- Every instruction word is the issue of some part of its own. -/
theorem exec_isCode {i : Instr} (h : i.isCode = true) : ∃ body : At → State → Res, ∀ s, exec i s = issue i body s := by
  cases i <;> first | exact ⟨_, fun _ => rfl⟩ | exact absurd h Bool.false_ne_true

/-- An admitted word whose issuing set is known, up to its guard. -/
theorem issue_admitted {i : Instr} {c : Issue} {s : State} (h : admitted i c s = true) (body : At → State → Res) :
    issue i body s = .next (
      if (at' i c s).exec.isEmpty then (at' i c s).finish { s with cur := none } (.done ((at' i c s).step { s with cur := none }))
      else if collective i && issuing i c s != (gang c s).nonExited then
        raised i c s { s with cur := none } { s with cur := none } (issuing i c s) cPARTIAL 0 0
      else (at' i c s).finish (begun i c s) (body (at' i c s) (begun i c s))) := by
  simp only [admitted, Bool.and_eq_true, beq_iff_eq, Bool.not_eq_true', Bool.or_eq_true] at h
  obtain ⟨⟨⟨⟨⟨⟨⟨⟨⟨hc, ha⟩, -⟩, hw⟩, hwf⟩, hf⟩, hp⟩, hh⟩, hav⟩, hr⟩ := h
  have hq : (reconverges i && issuing i c s != (gang c s).nonExited) = false := by
    rw [whole, Bool.or_eq_true] at hr
    rcases hr with hr | hr
    · rw [Bool.not_eq_true'] at hr; rw [hr]; rfl
    · rw [beq_iff_eq] at hr; simp [hr]
  have hpv : (privileged i && !(gang c s).hmode) = false := by rcases hp with hp | hp <;> simp [hp]
  unfold issue
  rw [hc]
  refine congrArg Host.Outcome.next ?_
  unfold issueAt
  change (if c.again then _ else if reconverges i && issuing i c s != (gang c s).nonExited then _
    else if s.windowWait (key c) (issuing i c s) i then _
    else if !i.wf || !s.fits (key c) i then _
    else if privileged i && !(gang c s).hmode then _
    else if s.hazards (key c) (issuing i c s) i != 0 then _
    else if !s.available (key c) i then _
    else _) = _
  rw [hw, hwf, hf, hpv, hh, hav, hq, ha]
  rfl

/-- Where a word executes, its own part has its effect. -/
theorem issue_ready {i : Instr} {c : Issue} {s : State} (h : ready i c s = true) (body : At → State → Res) :
    issue i body s = .next ((at' i c s).finish (begun i c s) (body (at' i c s) (begun i c s))) := by
  simp only [ready, Bool.and_eq_true, Bool.not_eq_true', Bool.or_eq_true, beq_iff_eq] at h
  obtain ⟨⟨ha, he⟩, hc⟩ := h
  have : (collective i && issuing i c s != (gang c s).nonExited) = false := by rcases hc with hc | hc <;> simp [hc]
  rw [issue_admitted ha, he, this]
  rfl

theorem finish_done (i : Instr) (c : Issue) (s b t : State) : (at' i c s).finish b (.done t) = settle c b t := rfl
theorem finish_hold (i : Instr) (c : Issue) (s b t : State) : (at' i c s).finish b (.hold t) = settle c b t := rfl

theorem issue_done {i : Instr} {c : Issue} {s : State} (h : ready i c s = true) {body : At → State → Res} {t : State}
    (hb : body (at' i c s) (begun i c s) = .done t) : issue i body s = .next (settle c (begun i c s) t) := by
  rw [issue_ready h, hb, finish_done]

theorem issue_hold {i : Instr} {c : Issue} {s : State} (h : ready i c s = true) {body : At → State → Res} {t : State}
    (hb : body (at' i c s) (begun i c s) = .hold t) : issue i body s = .next (settle c (begun i c s) t) := by
  rw [issue_ready h, hb, finish_hold]

/-- The executing lanes of an issue are distinct lanes of its set. -/
theorem at'_exec_nodup (i : Instr) (c : Issue) (s : State) : (at' i c s).exec.Nodup := executing_nodup _ _ _
theorem at'_exec_subset {i : Instr} {c : Issue} {s : State} {l : Nat} (h : l ∈ (at' i c s).exec) : l ∈ laneList (at' i c s).set :=
  executing_subset h

/-! The shared shapes. -/

/-- The issuing set moves on, and nothing else changes. -/
theorem step_moved (a : At) (s : State) : Moved a s (a.step s) (s.gang a.gang) fun _ x => x where
  frame := ⟨rfl, fun k hk => State.gang_modGang_other _ _ hk⟩
  gang := by simp only [At.step, State.gang_modGang_same]; exact Gang.modLanes_eq _ _ _
  lanes l := by simp [At.step, State.gang_modGang_same, Gang.lane_modLanes _ (laneList_nodup _), laneAfter]

/-- The gang is changed, its lanes apart, after its issuing set has moved on. -/
theorem gangOp_moved {f : Gang → Gang} (hf : ∀ g ls, f { g with lanes := ls } = { f g with lanes := ls }) (a : At) (s : State) :
    ∃ t, gangOp f a s = .done t ∧ Moved a s t (f (s.gang a.gang)) fun _ x => x := by
  refine ⟨_, rfl, ⟨rfl, fun k hk => ?_⟩, ?_, fun l => ?_⟩
  · rw [State.gang_modGang_other _ _ hk]; exact (step_moved a s).frame.others k hk
  · rw [State.gang_modGang_same, (step_moved a s).gang, hf]
  · rw [State.gang_modGang_same, (step_moved a s).gang, hf]
    exact (step_moved a s).lanes l

/-- A lane word changes each executing lane once, after it has moved on, and raises its flags. -/
theorem laneOp_moved (f : Nat → Lane → Lane) (fl : Gang → Nat → Lane → BitVec 5) {a : At} {s : State} (hn : a.exec.Nodup)
    (hs : ∀ l ∈ a.exec, l ∈ laneList a.set) :
    ∃ t, laneOp f fl a s = .done t ∧
      Moved a s t ((s.gang a.gang).flag (a.exec.foldl (fun x l => x ||| fl (s.gang a.gang) l ((s.gang a.gang).lane l)) 0)) f := by
  refine ⟨_, rfl, ⟨rfl, fun k hk => ?_⟩, ?_, fun l => ?_⟩
  · rw [State.gang_modGang_other _ _ hk]; exact (step_moved a s).frame.others k hk
  · rw [State.gang_modGang_same, Gang.modLanes_eq, (step_moved a s).gang]; rfl
  · rw [State.gang_modGang_same, Gang.lane_flag, Gang.lane_modLanes _ hn, (step_moved a s).lanes l]
    simp only [laneAfter]
    by_cases hl : l ∈ a.exec
    · simp [hl, hs l hl]
    · simp [hl]

/-- A cross-lane word changes each executing lane by the gang as it was, and raises its flags (R218). -/
theorem crossOp_moved (f : Gang → List Nat → Nat → Lane → Lane) (fl : Gang → List Nat → BitVec 5) {a : At} {s : State}
    (hn : a.exec.Nodup) (hs : ∀ l ∈ a.exec, l ∈ laneList a.set) :
    ∃ t, crossOp f fl a s = .done t ∧
      Moved a s t ((s.gang a.gang).flag (fl (s.gang a.gang) a.exec)) (f (s.gang a.gang) a.exec) := by
  refine ⟨_, rfl, ⟨rfl, fun k hk => ?_⟩, ?_, fun l => ?_⟩
  · rw [State.gang_modGang_other _ _ hk]; exact (step_moved a s).frame.others k hk
  · rw [State.gang_modGang_same, Gang.modLanes_eq, (step_moved a s).gang]; rfl
  · rw [State.gang_modGang_same, Gang.lane_flag, Gang.lane_modLanes _ hn, (step_moved a s).lanes l]
    simp only [laneAfter]
    by_cases hl : l ∈ a.exec
    · simp [hl, hs l hl]
    · simp [hl]

/-- A state that agrees lane by lane with a described one is described by it too. -/
theorem moved_congr {a : At} {b t : State} {g g' : Gang} {f f' : Nat → Lane → Lane} (h : Moved a b t g f) (hg : g = g')
    (hf : ∀ l ∈ a.exec, ∀ x, x = ((b.gang a.gang).lane l).advance a.next → f l x = f' l x) : Moved a b t g' f' where
  frame := h.frame
  gang := hg ▸ h.gang
  lanes l := by
    rw [h.lanes l]
    simp only [laneAfter]
    by_cases hl : l ∈ a.exec
    · rw [hf l hl _ rfl]
    · simp [hl]

/-- A lane word that writes one register completes as a lane result. -/
theorem laneResult_of {i : Instr} {d : Nat} {v : State → At → Nat → Lane → Word} {fl : State → At → Flags}
    {f : Nat → Lane → Lane} {fg : Gang → Nat → Lane → BitVec 5} (hi : ∀ s, exec i s = issue i (laneOp f fg) s)
    (hv : ∀ (b : State) (a : At) (l : Nat), l ∈ a.exec →
      f l (((b.gang a.gang).lane l).advance a.next) =
        (((b.gang a.gang).lane l).advance a.next).setReg d (v b a l ((b.gang a.gang).lane l)))
    (hfl : ∀ (b : State) (a : At), a.exec.foldl (fun x l => x ||| fg (b.gang a.gang) l ((b.gang a.gang).lane l)) 0 = fl b a) :
    LaneResult i d v fl := by
  intro c s h
  obtain ⟨t, ht, hm⟩ := laneOp_moved (s := begun i c s) f fg (at'_exec_nodup i c s) (fun l => at'_exec_subset)
  refine ⟨t, by rw [hi, issue_done h ht], moved_congr hm ?_ ?_⟩
  · rw [hfl]; rfl
  · rintro l hl x rfl; exact hv _ _ l hl

end Sys2Proof.Machine
end

