-- ==== Sys2Proof/Laws/PerInstr.lean ====
section
/-! SUPPORT. Laws made per instruction: a word's encoding is as long as the layouts of R55 say, and an event has none. -/

namespace Sys2Proof.Laws.EncodedLength

open Sys2Proof Machine

/-- An instruction takes the bytes of its set's length in code (R54, R55); an event takes none. -/
def Statement (i : Instr) : Prop := 4 * i.encode.length = if i.isCode then codeBytes i else 0

theorem short_ls (op : Nat) (g : GReg) (d a b : Nat) (ho : op < 64) (hd : d < 128) (ha : a < 128) (hb : b < 128) :
    isLong (encLS op g d a b) = false := by
  simp only [isLong, bitOf, encLS, beq_eq_false_iff_ne]; omega

theorem long_ll (op : Nat) (g : LGuard) (d a : Nat) (ho : op < 1024) (hd : d < 128) (ha : a < 128) : isLong (encLL op g d a) = true := by
  have : b1 g.neg ≤ 1 := by unfold b1; split <;> omega
  simp only [isLong, bitOf, encLL, beq_iff_eq]; omega

theorem short_us (op : Nat) (z : ZReg) (d a b x : Nat) (ho : op < 64) (hd : d < 64) (ha : a < 64) (hb : b < 64) (hx : x < 16) :
    isLong (encUS op z d a b x) = false := by
  simp only [isLong, bitOf, encUS, beq_eq_false_iff_ne]; omega

theorem long_ul (op : Nat) (u : UGuard) (d a : Nat) (ho : op < 1024) (hd : d < 64) (ha : a < 64) : isLong (encUL op u d a) = true := by
  have : b1 u.neg ≤ 1 := by unfold b1; split <;> omega
  simp only [isLong, bitOf, encUL, beq_iff_eq]; omega

theorem b1_lt1 (b : Bool) : b1 b < 2 := by unfold b1; split <;> omega
theorem b1_lt (b : Bool) : b1 b < 16 := by unfold b1; split <;> omega

/-- A word of one word, and a word of two, whose first has bit 30 as R55 sets it. -/
theorem of_short (i : Instr) (hc : i.isCode = true) (hn : codeBytes i = 4) (h : isLong i.encodeNat.1 = false) : Statement i := by
  unfold Statement Instr.encode
  rw [if_pos hc, if_pos hc, hn]
  dsimp only
  rw [h]; rfl

theorem of_long (i : Instr) (hc : i.isCode = true) (hn : codeBytes i = 8) (h : isLong i.encodeNat.1 = true) : Statement i := by
  unfold Statement Instr.encode
  rw [if_pos hc, if_pos hc, hn]
  dsimp only
  rw [h]; rfl

theorem iadd (g : GReg) (vd va vb : VReg) : Statement (.iadd g vd va vb) :=
  of_short _ rfl rfl (short_ls _ _ _ _ _ (by omega) (by omega) (by omega) (by omega))
theorem isub (g : GReg) (vd va vb : VReg) : Statement (.isub g vd va vb) :=
  of_short _ rfl rfl (short_ls _ _ _ _ _ (by omega) (by omega) (by omega) (by omega))
theorem imul (g : GReg) (vd va vb : VReg) : Statement (.imul g vd va vb) :=
  of_short _ rfl rfl (short_ls _ _ _ _ _ (by omega) (by omega) (by omega) (by omega))
theorem imulhs (g : GReg) (vd va vb : VReg) : Statement (.imulhs g vd va vb) :=
  of_short _ rfl rfl (short_ls _ _ _ _ _ (by omega) (by omega) (by omega) (by omega))
theorem imulhu (g : GReg) (vd va vb : VReg) : Statement (.imulhu g vd va vb) :=
  of_short _ rfl rfl (short_ls _ _ _ _ _ (by omega) (by omega) (by omega) (by omega))
theorem imin (g : GReg) (vd va vb : VReg) : Statement (.imin g vd va vb) :=
  of_short _ rfl rfl (short_ls _ _ _ _ _ (by omega) (by omega) (by omega) (by omega))
theorem imax (g : GReg) (vd va vb : VReg) : Statement (.imax g vd va vb) :=
  of_short _ rfl rfl (short_ls _ _ _ _ _ (by omega) (by omega) (by omega) (by omega))
theorem umin (g : GReg) (vd va vb : VReg) : Statement (.umin g vd va vb) :=
  of_short _ rfl rfl (short_ls _ _ _ _ _ (by omega) (by omega) (by omega) (by omega))
theorem umax (g : GReg) (vd va vb : VReg) : Statement (.umax g vd va vb) :=
  of_short _ rfl rfl (short_ls _ _ _ _ _ (by omega) (by omega) (by omega) (by omega))
theorem and (g : GReg) (vd va vb : VReg) : Statement (.and g vd va vb) :=
  of_short _ rfl rfl (short_ls _ _ _ _ _ (by omega) (by omega) (by omega) (by omega))
theorem or (g : GReg) (vd va vb : VReg) : Statement (.or g vd va vb) :=
  of_short _ rfl rfl (short_ls _ _ _ _ _ (by omega) (by omega) (by omega) (by omega))
theorem xor (g : GReg) (vd va vb : VReg) : Statement (.xor g vd va vb) :=
  of_short _ rfl rfl (short_ls _ _ _ _ _ (by omega) (by omega) (by omega) (by omega))
theorem andn (g : GReg) (vd va vb : VReg) : Statement (.andn g vd va vb) :=
  of_short _ rfl rfl (short_ls _ _ _ _ _ (by omega) (by omega) (by omega) (by omega))
theorem shl (g : GReg) (vd va vb : VReg) : Statement (.shl g vd va vb) :=
  of_short _ rfl rfl (short_ls _ _ _ _ _ (by omega) (by omega) (by omega) (by omega))
theorem shr (g : GReg) (vd va vb : VReg) : Statement (.shr g vd va vb) :=
  of_short _ rfl rfl (short_ls _ _ _ _ _ (by omega) (by omega) (by omega) (by omega))
theorem sar (g : GReg) (vd va vb : VReg) : Statement (.sar g vd va vb) :=
  of_short _ rfl rfl (short_ls _ _ _ _ _ (by omega) (by omega) (by omega) (by omega))
theorem rotl (g : GReg) (vd va vb : VReg) : Statement (.rotl g vd va vb) :=
  of_short _ rfl rfl (short_ls _ _ _ _ _ (by omega) (by omega) (by omega) (by omega))
theorem popc (g : GReg) (vd va : VReg) : Statement (.popc g vd va) :=
  of_short _ rfl rfl (short_ls _ _ _ _ _ (by omega) (by omega) (by omega) (by omega))
theorem clz (g : GReg) (vd va : VReg) : Statement (.clz g vd va) :=
  of_short _ rfl rfl (short_ls _ _ _ _ _ (by omega) (by omega) (by omega) (by omega))
theorem brev (g : GReg) (vd va : VReg) : Statement (.brev g vd va) :=
  of_short _ rfl rfl (short_ls _ _ _ _ _ (by omega) (by omega) (by omega) (by omega))
theorem mov (g : GReg) (vd va : VReg) : Statement (.mov g vd va) :=
  of_short _ rfl rfl (short_ls _ _ _ _ _ (by omega) (by omega) (by omega) (by omega))
theorem fadd (g : GReg) (vd va vb : VReg) : Statement (.fadd g vd va vb) :=
  of_short _ rfl rfl (short_ls _ _ _ _ _ (by omega) (by omega) (by omega) (by omega))
theorem fsub (g : GReg) (vd va vb : VReg) : Statement (.fsub g vd va vb) :=
  of_short _ rfl rfl (short_ls _ _ _ _ _ (by omega) (by omega) (by omega) (by omega))
theorem fmul (g : GReg) (vd va vb : VReg) : Statement (.fmul g vd va vb) :=
  of_short _ rfl rfl (short_ls _ _ _ _ _ (by omega) (by omega) (by omega) (by omega))
theorem fmin (g : GReg) (vd va vb : VReg) : Statement (.fmin g vd va vb) :=
  of_short _ rfl rfl (short_ls _ _ _ _ _ (by omega) (by omega) (by omega) (by omega))
theorem fmax (g : GReg) (vd va vb : VReg) : Statement (.fmax g vd va vb) :=
  of_short _ rfl rfl (short_ls _ _ _ _ _ (by omega) (by omega) (by omega) (by omega))
theorem frcp (g : GReg) (vd va : VReg) : Statement (.frcp g vd va) :=
  of_short _ rfl rfl (short_ls _ _ _ _ _ (by omega) (by omega) (by omega) (by omega))
theorem frsq (g : GReg) (vd va : VReg) : Statement (.frsq g vd va) :=
  of_short _ rfl rfl (short_ls _ _ _ _ _ (by omega) (by omega) (by omega) (by omega))
theorem fsqrt (g : GReg) (vd va : VReg) : Statement (.fsqrt g vd va) :=
  of_short _ rfl rfl (short_ls _ _ _ _ _ (by omega) (by omega) (by omega) (by omega))
theorem fexp2 (g : GReg) (vd va : VReg) : Statement (.fexp2 g vd va) :=
  of_short _ rfl rfl (short_ls _ _ _ _ _ (by omega) (by omega) (by omega) (by omega))
theorem flog2 (g : GReg) (vd va : VReg) : Statement (.flog2 g vd va) :=
  of_short _ rfl rfl (short_ls _ _ _ _ _ (by omega) (by omega) (by omega) (by omega))
theorem hadd2 (g : GReg) (vd va vb : VReg) : Statement (.hadd2 g vd va vb) :=
  of_short _ rfl rfl (short_ls _ _ _ _ _ (by omega) (by omega) (by omega) (by omega))
theorem hmul2 (g : GReg) (vd va vb : VReg) : Statement (.hmul2 g vd va vb) :=
  of_short _ rfl rfl (short_ls _ _ _ _ _ (by omega) (by omega) (by omega) (by omega))
theorem hmax2 (g : GReg) (vd va vb : VReg) : Statement (.hmax2 g vd va vb) :=
  of_short _ rfl rfl (short_ls _ _ _ _ _ (by omega) (by omega) (by omega) (by omega))
theorem cvtif (g : GReg) (vd va : VReg) : Statement (.cvtif g vd va) :=
  of_short _ rfl rfl (short_ls _ _ _ _ _ (by omega) (by omega) (by omega) (by omega))
theorem cvtfi (g : GReg) (vd va : VReg) : Statement (.cvtfi g vd va) :=
  of_short _ rfl rfl (short_ls _ _ _ _ _ (by omega) (by omega) (by omega) (by omega))
theorem pkbf (g : GReg) (vd va vb : VReg) : Statement (.pkbf g vd va vb) :=
  of_short _ rfl rfl (short_ls _ _ _ _ _ (by omega) (by omega) (by omega) (by omega))
theorem upbfl (g : GReg) (vd va : VReg) : Statement (.upbfl g vd va) :=
  of_short _ rfl rfl (short_ls _ _ _ _ _ (by omega) (by omega) (by omega) (by omega))
theorem upbfh (g : GReg) (vd va : VReg) : Statement (.upbfh g vd va) :=
  of_short _ rfl rfl (short_ls _ _ _ _ _ (by omega) (by omega) (by omega) (by omega))
theorem sel (g : GReg) (vd va vb : VReg) : Statement (.sel g vd va vb) :=
  of_short _ rfl rfl (short_ls _ _ _ _ _ (by omega) (by omega) (by omega) (by omega))
theorem lane (g : GReg) (vd : VReg) : Statement (.lane g vd) :=
  of_short _ rfl rfl (short_ls _ _ _ _ _ (by omega) (by omega) (by omega) (by omega))
theorem fabs (g : GReg) (vd va : VReg) : Statement (.fabs g vd va) :=
  of_short _ rfl rfl (short_ls _ _ _ _ _ (by omega) (by omega) (by omega) (by omega))
theorem fneg (g : GReg) (vd va : VReg) : Statement (.fneg g vd va) :=
  of_short _ rfl rfl (short_ls _ _ _ _ _ (by omega) (by omega) (by omega) (by omega))
theorem iaddi (g : LGuard) (vd va : VReg) (imm : Word) : Statement (.iaddi g vd va imm) :=
  of_long _ rfl rfl (long_ll _ _ _ _ (by omega) (by omega) (by omega))
theorem limm (g : LGuard) (vd : VReg) (imm : Word) : Statement (.limm g vd imm) :=
  of_long _ rfl rfl (long_ll _ _ _ _ (by omega) (by omega) (by omega))
theorem imad (g : LGuard) (vd va vb vc : VReg) (ty : IntType) (wide : Bool) : Statement (.imad g vd va vb vc ty wide) :=
  of_long _ rfl rfl (long_ll _ _ _ _ (by omega) (by omega) (by omega))
theorem ffma (g : LGuard) (vd va vb vc : VReg) (typed negp negc : Bool) : Statement (.ffma g vd va vb vc typed negp negc) :=
  of_long _ rfl rfl (long_ll _ _ _ _ (by omega) (by omega) (by omega))
theorem hfma2 (g : LGuard) (vd va vb vc : VReg) (typed negp negc : Bool) : Statement (.hfma2 g vd va vb vc typed negp negc) :=
  of_long _ rfl rfl (long_ll _ _ _ _ (by omega) (by omega) (by omega))
theorem icmp (g : LGuard) (gd : GReg) (va vb : VReg) (ty : IntType) (pred : Pred) (comb : Comb) : Statement (.icmp g gd va vb ty pred comb) :=
  of_long _ rfl rfl (long_ll _ _ _ _ (by omega) (by omega) (by omega))
theorem fcmp (g : LGuard) (gd : GReg) (va vb : VReg) (typed : Bool) (pred : FPred) (comb : Comb) : Statement (.fcmp g gd va vb typed pred comb) :=
  of_long _ rfl rfl (long_ll _ _ _ _ (by omega) (by omega) (by omega))
theorem bfx (g : LGuard) (vd va : VReg) (ty : IntType) (pos len1 : Fin 32) : Statement (.bfx g vd va ty pos len1) :=
  of_long _ rfl rfl (long_ll _ _ _ _ (by omega) (by omega) (by omega))
theorem bfi (g : LGuard) (vd va vb : VReg) (pos len1 : Fin 32) : Statement (.bfi g vd va vb pos len1) :=
  of_long _ rfl rfl (long_ll _ _ _ _ (by omega) (by omega) (by omega))
theorem idiv (g : LGuard) (vd va vb : VReg) (ty : IntType) (la : Fin 16) : Statement (.idiv g vd va vb ty la) :=
  of_long _ rfl rfl (long_ll _ _ _ _ (by omega) (by omega) (by omega))
theorem irem (g : LGuard) (vd va vb : VReg) (ty : IntType) (la : Fin 16) : Statement (.irem g vd va vb ty la) :=
  of_long _ rfl rfl (long_ll _ _ _ _ (by omega) (by omega) (by omega))
theorem lea (g : LGuard) (vd : VReg) (hs : SReg) (vo : VReg) (wd : Width) (imm : BitVec 10) : Statement (.lea g vd hs vo wd imm) :=
  of_long _ rfl rfl (long_ll _ _ _ _ (by omega) (by omega) (by omega))
theorem cvt (g : LGuard) (vd va : VReg) (dst src : CType) (rz : Bool) : Statement (.cvt g vd va dst src rz) :=
  of_long _ rfl rfl (long_ll _ _ _ _ (by omega) (by omega) (by omega))
theorem tidx (g : LGuard) (vd : VReg) (what : Fin 8) (xm ym : Fin 128) : Statement (.tidx g vd what xm ym) :=
  of_long _ rfl rfl (long_ll _ _ _ _ (by omega) (by omega) (by omega))
theorem urand (g : LGuard) (vd va vb : VReg) (fp : Bool) : Statement (.urand g vd va vb fp) :=
  of_long _ rfl rfl (long_ll _ _ _ _ (by omega) (by omega) (by omega))
theorem shfi (g : LGuard) (vd va : VReg) (kind : ShiftKind) (n : Fin 32) : Statement (.shfi g vd va kind n) :=
  of_long _ rfl rfl (long_ll _ _ _ _ (by omega) (by omega) (by omega))
theorem logi (g : LGuard) (vd va vb vc : VReg) (table : BitVec 8) : Statement (.logi g vd va vb vc table) :=
  of_long _ rfl rfl (long_ll _ _ _ _ (by omega) (by omega) (by omega))
theorem shfl (g : LGuard) (vd va vb : VReg) (mode : ShflMode) (wrel : Bool) (lit : Fin 64) : Statement (.shfl g vd va vb mode wrel lit) :=
  of_long _ rfl rfl (long_ll _ _ _ _ (by omega) (by omega) (by omega))
theorem vote (g : LGuard) (vd va : VReg) (mode : VoteMode) (gd : GReg) (gw : Bool) : Statement (.vote g vd va mode gd gw) :=
  of_long _ rfl rfl (long_ll _ _ _ _ (by omega) (by omega) (by omega))
theorem redl (g : LGuard) (vd va : VReg) (rop : Rop) : Statement (.redl g vd va rop) :=
  of_long _ rfl rfl (long_ll _ _ _ _ (by omega) (by omega) (by omega))
theorem scanl (g : LGuard) (vd va : VReg) (rop : Rop) (excl : Bool) : Statement (.scanl g vd va rop excl) :=
  of_long _ rfl rfl (long_ll _ _ _ _ (by omega) (by omega) (by omega))
theorem bcast (g : LGuard) (vd va : VReg) (src : Fin 128) (first : Bool) : Statement (.bcast g vd va src first) :=
  of_long _ rfl rfl (long_ll _ _ _ _ (by omega) (by omega) (by omega))
theorem br (g : LGuard) (disp : Word) : Statement (.br g disp) :=
  of_long _ rfl rfl (long_ll _ _ _ _ (by omega) (by omega) (by omega))
theorem brx (g : LGuard) (va : VReg) : Statement (.brx g va) :=
  of_long _ rfl rfl (long_ll _ _ _ _ (by omega) (by omega) (by omega))
theorem call (g : LGuard) (disp : Word) : Statement (.call g disp) :=
  of_long _ rfl rfl (long_ll _ _ _ _ (by omega) (by omega) (by omega))
theorem ld (g : LGuard) (vd : VReg) (hs : SReg) (vo : VReg) (la : Fin 16) (wd : Width) (pol : Policy) (imm : BitVec 10) : Statement (.ld g vd hs vo la wd pol imm) :=
  of_long _ rfl rfl (long_ll _ _ _ _ (by omega) (by omega) (by omega))
theorem st (g : LGuard) (vd : VReg) (hs : SReg) (vo : VReg) (wd : Width) (pol : Policy) (imm : BitVec 10) : Statement (.st g vd hs vo wd pol imm) :=
  of_long _ rfl rfl (long_ll _ _ _ _ (by omega) (by omega) (by omega))
theorem lds (g : LGuard) (vd : VReg) (hs : SReg) (vo : VReg) (la : Fin 16) (wd : Width) (imm : BitVec 10) : Statement (.lds g vd hs vo la wd imm) :=
  of_long _ rfl rfl (long_ll _ _ _ _ (by omega) (by omega) (by omega))
theorem sts (g : LGuard) (vd : VReg) (hs : SReg) (vo : VReg) (wd : Width) (imm : BitVec 10) : Statement (.sts g vd hs vo wd imm) :=
  of_long _ rfl rfl (long_ll _ _ _ _ (by omega) (by omega) (by omega))
theorem atom (g : LGuard) (vd va : VReg) (hs : SReg) (vo : VReg) (la : Fin 16) (wd : Width) (aop : Aop) (scope : Scope) : Statement (.atom g vd va hs vo la wd aop scope) :=
  of_long _ rfl rfl (long_ll _ _ _ _ (by omega) (by omega) (by omega))
theorem red (g : LGuard) (va : VReg) (hs : SReg) (vo : VReg) (wd : Width) (aop : Aop) (scope : Scope) : Statement (.red g va hs vo wd aop scope) :=
  of_long _ rfl rfl (long_ll _ _ _ _ (by omega) (by omega) (by omega))
theorem atoms (g : LGuard) (vd va : VReg) (hs : SReg) (vo : VReg) (la : Fin 16) (wd : Width) (aop : Aop) (scope : Scope) : Statement (.atoms g vd va hs vo la wd aop scope) :=
  of_long _ rfl rfl (long_ll _ _ _ _ (by omega) (by omega) (by omega))
theorem pf (g : LGuard) (hs : SReg) (vo : VReg) (wd : Width) (pol : Policy) (imm : BitVec 10) : Statement (.pf g hs vo wd pol imm) :=
  of_long _ rfl rfl (long_ll _ _ _ _ (by omega) (by omega) (by omega))
theorem refill (g : LGuard) (vd : VReg) (disp : Word) : Statement (.refill g vd disp) :=
  of_long _ rfl rfl (long_ll _ _ _ _ (by omega) (by omega) (by omega))
theorem nop (z : ZReg) : Statement (.nop z) :=
  of_short _ rfl rfl (short_us _ _ _ _ _ _ (by omega) (by omega) (by omega) (by omega) (by omega))
theorem sadd (z : ZReg) (sd sa sb : SReg) : Statement (.sadd z sd sa sb) :=
  of_short _ rfl rfl (short_us _ _ _ _ _ _ (by omega) (by omega) (by omega) (by omega) (by omega))
theorem ssub (z : ZReg) (sd sa sb : SReg) : Statement (.ssub z sd sa sb) :=
  of_short _ rfl rfl (short_us _ _ _ _ _ _ (by omega) (by omega) (by omega) (by omega) (by omega))
theorem smul (z : ZReg) (sd sa sb : SReg) : Statement (.smul z sd sa sb) :=
  of_short _ rfl rfl (short_us _ _ _ _ _ _ (by omega) (by omega) (by omega) (by omega) (by omega))
theorem sand (z : ZReg) (sd sa sb : SReg) : Statement (.sand z sd sa sb) :=
  of_short _ rfl rfl (short_us _ _ _ _ _ _ (by omega) (by omega) (by omega) (by omega) (by omega))
theorem sor (z : ZReg) (sd sa sb : SReg) : Statement (.sor z sd sa sb) :=
  of_short _ rfl rfl (short_us _ _ _ _ _ _ (by omega) (by omega) (by omega) (by omega) (by omega))
theorem sxor (z : ZReg) (sd sa sb : SReg) : Statement (.sxor z sd sa sb) :=
  of_short _ rfl rfl (short_us _ _ _ _ _ _ (by omega) (by omega) (by omega) (by omega) (by omega))
theorem sshl (z : ZReg) (sd sa sb : SReg) : Statement (.sshl z sd sa sb) :=
  of_short _ rfl rfl (short_us _ _ _ _ _ _ (by omega) (by omega) (by omega) (by omega) (by omega))
theorem sshr (z : ZReg) (sd sa sb : SReg) : Statement (.sshr z sd sa sb) :=
  of_short _ rfl rfl (short_us _ _ _ _ _ _ (by omega) (by omega) (by omega) (by omega) (by omega))
theorem ssar (z : ZReg) (sd sa sb : SReg) : Statement (.ssar z sd sa sb) :=
  of_short _ rfl rfl (short_us _ _ _ _ _ _ (by omega) (by omega) (by omega) (by omega) (by omega))
theorem smov (z : ZReg) (sd sa : SReg) : Statement (.smov z sd sa) :=
  of_short _ rfl rfl (short_us _ _ _ _ _ _ (by omega) (by omega) (by omega) (by omega) (by omega))
theorem smin (z : ZReg) (sd sa sb : SReg) (uns : Bool) : Statement (.smin z sd sa sb uns) :=
  of_short _ rfl rfl (short_us _ _ _ _ _ _ (by omega) (by omega) (by omega) (by omega) (b1_lt uns))
theorem smax (z : ZReg) (sd sa sb : SReg) (uns : Bool) : Statement (.smax z sd sa sb uns) :=
  of_short _ rfl rfl (short_us _ _ _ _ _ _ (by omega) (by omega) (by omega) (by omega) (b1_lt uns))
theorem scmp (z : ZReg) (zd : ZReg) (sa sb : SReg) (pred : Pred) (uns : Bool) : Statement (.scmp z zd sa sb pred uns) :=
  of_short _ rfl rfl (short_us _ _ _ _ _ _ (by omega) (by have := b1_lt1 uns; cases pred <;> simp only [Pred.code] <;> omega) (by omega) (by omega) (by omega))
theorem twait (z : ZReg) (sa : SReg) (chk : Bool) : Statement (.twait z sa chk) :=
  of_short _ rfl rfl (short_us _ _ _ _ _ _ (by omega) (by omega) (by omega) (by omega) (b1_lt chk))
theorem ttest (z : ZReg) (sd sa : SReg) (zout : ZReg) : Statement (.ttest z sd sa zout) :=
  of_short _ rfl rfl (short_us _ _ _ _ _ _ (by omega) (by omega) (by omega) (by omega) (by omega))
theorem join (z : ZReg) (m : MReg) : Statement (.join z m) :=
  of_short _ rfl rfl (short_us _ _ _ _ _ _ (by omega) (by omega) (by omega) (by omega) (by omega))
theorem leave (z : ZReg) (m : MReg) : Statement (.leave z m) :=
  of_short _ rfl rfl (short_us _ _ _ _ _ _ (by omega) (by omega) (by omega) (by omega) (by omega))
theorem waitm (z : ZReg) (m : MReg) (clr : Bool) : Statement (.waitm z m clr) :=
  of_short _ rfl rfl (short_us _ _ _ _ _ _ (by omega) (by omega) (by omega) (by omega) (b1_lt clr))
theorem yield (z : ZReg) : Statement (.yield z) :=
  of_short _ rfl rfl (short_us _ _ _ _ _ _ (by omega) (by omega) (by omega) (by omega) (by omega))
theorem exit (z : ZReg) : Statement (.exit z) :=
  of_short _ rfl rfl (short_us _ _ _ _ _ _ (by omega) (by omega) (by omega) (by omega) (by omega))
theorem ret (z : ZReg) : Statement (.ret z) :=
  of_short _ rfl rfl (short_us _ _ _ _ _ _ (by omega) (by omega) (by omega) (by omega) (by omega))
theorem eret (z : ZReg) (skip : Bool) : Statement (.eret z skip) :=
  of_short _ rfl rfl (short_us _ _ _ _ _ _ (by omega) (by omega) (by omega) (by omega) (b1_lt skip))
theorem bkpt (z : ZReg) (code : Fin 16) : Statement (.bkpt z code) :=
  of_short _ rfl rfl (short_us _ _ _ _ _ _ (by omega) (by omega) (by omega) (by omega) (by omega))
theorem trap (z : ZReg) (sa : SReg) (code : Fin 16) : Statement (.trap z sa code) :=
  of_short _ rfl rfl (short_us _ _ _ _ _ _ (by omega) (by omega) (by omega) (by omega) (by omega))
theorem cpermit (z : ZReg) (sa : SReg) (k : Fin 16) : Statement (.cpermit z sa k) :=
  of_short _ rfl rfl (short_us _ _ _ _ _ _ (by omega) (by omega) (by omega) (by omega) (by omega))
theorem saddi (u : UGuard) (sd sa : SReg) (imm : Word) : Statement (.saddi u sd sa imm) :=
  of_long _ rfl rfl (long_ul _ _ _ _ (by omega) (by omega) (by omega))
theorem sli (u : UGuard) (sd : SReg) (imm : Word) : Statement (.sli u sd imm) :=
  of_long _ rfl rfl (long_ul _ _ _ _ (by omega) (by omega) (by omega))
theorem sld (u : UGuard) (sd sa sb : SReg) (la : Fin 16) (wd : Width) (pol : Policy) (imm : BitVec 11) : Statement (.sld u sd sa sb la wd pol imm) :=
  of_long _ rfl rfl (long_ul _ _ _ _ (by omega) (by omega) (by omega))
theorem sst (u : UGuard) (sd sa sb : SReg) (wd : Width) (pol : Policy) (imm : BitVec 11) : Statement (.sst u sd sa sb wd pol imm) :=
  of_long _ rfl rfl (long_ul _ _ _ _ (by omega) (by omega) (by omega))
theorem bra (u : UGuard) (disp : Word) : Statement (.bra u disp) :=
  of_long _ rfl rfl (long_ul _ _ _ _ (by omega) (by omega) (by omega))
theorem brc (u : UGuard) (sd : SReg) (disp : Word) : Statement (.brc u sd disp) :=
  of_long _ rfl rfl (long_ul _ _ _ _ (by omega) (by omega) (by omega))
theorem callu (u : UGuard) (disp : Word) : Statement (.callu u disp) :=
  of_long _ rfl rfl (long_ul _ _ _ _ (by omega) (by omega) (by omega))
theorem jmpu (u : UGuard) (sa : SReg) : Statement (.jmpu u sa) :=
  of_long _ rfl rfl (long_ul _ _ _ _ (by omega) (by omega) (by omega))
theorem sysrd (u : UGuard) (sd : SReg) (number : BitVec 12) (dbl : Bool) : Statement (.sysrd u sd number dbl) :=
  of_long _ rfl rfl (long_ul _ _ _ _ (by omega) (by omega) (by omega))
theorem syswr (u : UGuard) (sa : SReg) (number : BitVec 12) : Statement (.syswr u sa number) :=
  of_long _ rfl rfl (long_ul _ _ _ _ (by omega) (by omega) (by omega))
theorem rdlane (u : UGuard) (sd : SReg) (vreg : VReg) (ln : Fin 128) (first : Bool) : Statement (.rdlane u sd vreg ln first) :=
  of_long _ rfl rfl (long_ul _ _ _ _ (by omega) (by omega) (by omega))
theorem mget (u : UGuard) (sd : SReg) (m : MReg) : Statement (.mget u sd m) :=
  of_long _ rfl rfl (long_ul _ _ _ _ (by omega) (by omega) (by omega))
theorem mset (u : UGuard) (sa : SReg) (m : MReg) : Statement (.mset u sa m) :=
  of_long _ rfl rfl (long_ul _ _ _ _ (by omega) (by omega) (by omega))
theorem scmpi (u : UGuard) (zd : ZReg) (sa : SReg) (pred : Pred) (uns : Bool) (imm : Word) : Statement (.scmpi u zd sa pred uns imm) :=
  of_long _ rfl rfl (long_ul _ _ _ _ (by omega) (by have := b1_lt1 uns; cases pred <;> simp only [Pred.code] <;> omega) (by omega))
theorem fence (u : UGuard) (paths : BitVec 7) (scope : Scope) (rel acq : Bool) : Statement (.fence u paths scope rel acq) :=
  of_long _ rfl rfl (long_ul _ _ _ _ (by omega) (by omega) (by omega))
theorem bari (u : UGuard) (sa sb sc : SReg) (scope : BarScope) : Statement (.bari u sa sb sc scope) :=
  of_long _ rfl rfl (long_ul _ _ _ _ (by omega) (by omega) (by omega))
theorem bara (u : UGuard) (sd sa sb sc : SReg) (scope : BarScope) (n : Fin 4096) : Statement (.bara u sd sa sb sc scope n) :=
  of_long _ rfl rfl (long_ul _ _ _ _ (by omega) (by omega) (by omega))
theorem barw (u : UGuard) (sd sa sb sc : SReg) (scope : BarScope) (zout : ZReg) (bexp : Fin 32) : Statement (.barw u sd sa sb sc scope zout bexp) :=
  of_long _ rfl rfl (long_ul _ _ _ _ (by omega) (by omega) (by omega))
theorem sigadd (u : UGuard) (sa sb sc : SReg) (d rel : Bool) (paths : BitVec 7) : Statement (.sigadd u sa sb sc d rel paths) :=
  of_long _ rfl rfl (long_ul _ _ _ _ (by omega) (by omega) (by omega))
theorem sigwait (u : UGuard) (sd sa sb sc : SReg) (zout : ZReg) (bexp : Fin 32) : Statement (.sigwait u sd sa sb sc zout bexp) :=
  of_long _ rfl rfl (long_ul _ _ _ _ (by omega) (by omega) (by omega))
theorem stmap (u : UGuard) (sa sb sc : SReg) (lines : BitVec 14) (mode : MapMode) : Statement (.stmap u sa sb sc lines mode) :=
  of_long _ rfl rfl (long_ul _ _ _ _ (by omega) (by omega) (by omega))
theorem stunmap (u : UGuard) (sa : SReg) (drop : Bool) : Statement (.stunmap u sa drop) :=
  of_long _ rfl rfl (long_ul _ _ _ _ (by omega) (by omega) (by omega))
theorem stflush (u : UGuard) (sd sa sb : SReg) (all inv : Bool) : Statement (.stflush u sd sa sb all inv) :=
  of_long _ rfl rfl (long_ul _ _ _ _ (by omega) (by omega) (by omega))
theorem cpy (u : UGuard) (sd sa : SReg) : Statement (.cpy u sd sa) :=
  of_long _ rfl rfl (long_ul _ _ _ _ (by omega) (by omega) (by omega))
theorem gath (u : UGuard) (sd sa sb sc : SReg) (wd : Width) : Statement (.gath u sd sa sb sc wd) :=
  of_long _ rfl rfl (long_ul _ _ _ _ (by omega) (by omega) (by omega))
theorem scat (u : UGuard) (sd sa sb sc : SReg) (wd : Width) (op : ScatOp) : Statement (.scat u sd sa sb sc wd op) :=
  of_long _ rfl rfl (long_ul _ _ _ _ (by omega) (by omega) (by omega))
theorem sinter (u : UGuard) (sd sa sb sc : SReg) (emit : Bool) : Statement (.sinter u sd sa sb sc emit) :=
  of_long _ rfl rfl (long_ul _ _ _ _ (by omega) (by omega) (by omega))
theorem mdec (u : UGuard) (sd sa sb sc : SReg) (n : Fin 8) (any : Bool) : Statement (.mdec u sd sa sb sc n any) :=
  of_long _ rfl rfl (long_ul _ _ _ _ (by omega) (by omega) (by omega))
theorem millld (u : UGuard) (sd sa sb : SReg) (slot : Fin 8) (gen : Byte) : Statement (.millld u sd sa sb slot gen) :=
  of_long _ rfl rfl (long_ul _ _ _ _ (by omega) (by omega) (by omega))
theorem millbind (u : UGuard) (sd sa : SReg) (slot : Fin 8) (wr unbind : Bool) : Statement (.millbind u sd sa slot wr unbind) :=
  of_long _ rfl rfl (long_ul _ _ _ _ (by omega) (by omega) (by omega))
theorem millstat (u : UGuard) (sd sa sb : SReg) (slot : Fin 8) (clr : Bool) : Statement (.millstat u sd sa sb slot clr) :=
  of_long _ rfl rfl (long_ul _ _ _ _ (by omega) (by omega) (by omega))
theorem qscale (u : UGuard) (sd sa sb sc : SReg) (bf : Bool) : Statement (.qscale u sd sa sb sc bf) :=
  of_long _ rfl rfl (long_ul _ _ _ _ (by omega) (by omega) (by omega))
theorem qsplit (u : UGuard) (sd sa sb : SReg) (bf : Bool) : Statement (.qsplit u sd sa sb bf) :=
  of_long _ rfl rfl (long_ul _ _ _ _ (by omega) (by omega) (by omega))
theorem qdeq (u : UGuard) (sd sa sb : SReg) (pq : Fin 16) (bf : Bool) : Statement (.qdeq u sd sa sb pq bf) :=
  of_long _ rfl rfl (long_ul _ _ _ _ (by omega) (by omega) (by omega))
theorem mmb (u : UGuard) (sd sa sb : SReg) (slot : Fin 4) (hold table : Bool) : Statement (.mmb u sd sa sb slot hold table) :=
  of_long _ rfl rfl (long_ul _ _ _ _ (by omega) (by omega) (by omega))
theorem mout (u : UGuard) (sd sa sb : SReg) (slot : Fin 4) (table : Bool) : Statement (.mout u sd sa sb slot table) :=
  of_long _ rfl rfl (long_ul _ _ _ _ (by omega) (by omega) (by omega))
theorem mjoin (u : UGuard) (sd : SReg) (slot : Fin 4) (ct : CReg) : Statement (.mjoin u sd slot ct) :=
  of_long _ rfl rfl (long_ul _ _ _ _ (by omega) (by omega) (by omega))
theorem mloop (u : UGuard) (sd sa sb sc : SReg) (ct : CReg) (s0 : Fin 4) (two table : Bool) : Statement (.mloop u sd sa sb sc ct s0 two table) :=
  of_long _ rfl rfl (long_ul _ _ _ _ (by omega) (by omega) (by omega))
theorem czero (u : UGuard) (ct : CReg) : Statement (.czero u ct) :=
  of_long _ rfl rfl (long_ul _ _ _ _ (by omega) (by omega) (by omega))
theorem cld (u : UGuard) (sd sa sb : SReg) (ct : CReg) (bf : Bool) : Statement (.cld u sd sa sb ct bf) :=
  of_long _ rfl rfl (long_ul _ _ _ _ (by omega) (by omega) (by omega))
theorem cst (u : UGuard) (sd sa sb : SReg) (ct : CReg) (bf clr : Bool) : Statement (.cst u sd sa sb ct bf clr) :=
  of_long _ rfl rfl (long_ul _ _ _ _ (by omega) (by omega) (by omega))
theorem cstat (u : UGuard) (sd : SReg) (ct : CReg) (clr : Bool) : Statement (.cstat u sd ct clr) :=
  of_long _ rfl rfl (long_ul _ _ _ _ (by omega) (by omega) (by omega))
theorem put (u : UGuard) (sd sa sb sc : SReg) (sstash sig : Bool) (chunk : Fin 4) : Statement (.put u sd sa sb sc sstash sig chunk) :=
  of_long _ rfl rfl (long_ul _ _ _ _ (by omega) (by omega) (by omega))
theorem get (u : UGuard) (sd sa sb sc : SReg) (dstash sig : Bool) (chunk : Fin 4) : Statement (.get u sd sa sb sc dstash sig chunk) :=
  of_long _ rfl rfl (long_ul _ _ _ _ (by omega) (by omega) (by omega))
theorem putred (u : UGuard) (sd sa sb sc : SReg) (aop : Aop) (d sig : Bool) (chunk : Fin 4) (sstash circ : Bool) (circle : Fin 64) : Statement (.putred u sd sa sb sc aop d sig chunk sstash circ circle) :=
  of_long _ rfl rfl (long_ul _ _ _ _ (by omega) (by omega) (by omega))
theorem mcst (u : UGuard) (sd sa sb : SReg) (circle : Fin 64) : Statement (.mcst u sd sa sb circle) :=
  of_long _ rfl rfl (long_ul _ _ _ _ (by omega) (by omega) (by omega))
theorem circrd (u : UGuard) (sd : SReg) (circle : Fin 64) (word : Fin 8) : Statement (.circrd u sd circle word) :=
  of_long _ rfl rfl (long_ul _ _ _ _ (by omega) (by omega) (by omega))
theorem trigset (u : UGuard) (sa sb sc : SReg) : Statement (.trigset u sa sb sc) :=
  of_long _ rfl rfl (long_ul _ _ _ _ (by omega) (by omega) (by omega))
theorem trigclr (u : UGuard) (sd sa : SReg) (peek : Bool) : Statement (.trigclr u sd sa peek) :=
  of_long _ rfl rfl (long_ul _ _ _ _ (by omega) (by omega) (by omega))
theorem spawn (u : UGuard) (sa : SReg) : Statement (.spawn u sa) :=
  of_long _ rfl rfl (long_ul _ _ _ _ (by omega) (by omega) (by omega))
theorem iqfill (u : UGuard) (sd sa sb : SReg) (seq : Bool) : Statement (.iqfill u sd sa sb seq) :=
  of_long _ rfl rfl (long_ul _ _ _ _ (by omega) (by omega) (by omega))
theorem timeat (u : UGuard) (sa sb : SReg) : Statement (.timeat u sa sb) :=
  of_long _ rfl rfl (long_ul _ _ _ _ (by omega) (by omega) (by omega))
theorem nap (u : UGuard) (ns : Word) : Statement (.nap u ns) :=
  of_long _ rfl rfl (long_ul _ _ _ _ (by omega) (by omega) (by omega))
theorem perfrd (u : UGuard) (sd : SReg) (k : Fin 8) : Statement (.perfrd u sd k) :=
  of_long _ rfl rfl (long_ul _ _ _ _ (by omega) (by omega) (by omega))
theorem loadResult (id : Nat) : Statement (.loadResult id) := rfl
theorem storePerform (id : Nat) : Statement (.storePerform id) := rfl
theorem atomicPerform (id : Nat) : Statement (.atomicPerform id) := rfl
theorem custodyReturn (line : Nat) : Statement (.custodyReturn line) := rfl
theorem channelAccess (channel sector : Nat) (ecc : EccResult) : Statement (.channelAccess channel sector ecc) := rfl
theorem refreshTick (channel : Nat) : Statement (.refreshTick channel) := rfl
theorem refreshIssue (channel : Nat) : Statement (.refreshIssue channel) := rfl
theorem scrubRow (channel row : Nat) (found : List (Nat × EccResult)) : Statement (.scrubRow channel row found) := rfl
theorem completionTimeout (port : Port) (id : Nat) : Statement (.completionTimeout port id) := rfl
theorem linkDown (port : Port) : Statement (.linkDown port) := rfl
theorem linkUpReport (port : Port) : Statement (.linkUpReport port) := rfl
theorem fabricTimeout (id : Nat) : Statement (.fabricTimeout id) := rfl
theorem remoteRequest (m : FabricMsg) : Statement (.remoteRequest m) := rfl
theorem fqdoneMapped (index : Nat) : Statement (.fqdoneMapped index) := rfl
theorem fqdoneFatal (index : Nat) : Statement (.fqdoneFatal index) := rfl
theorem millldSwitch (work : Nat) : Statement (.millldSwitch work) := rfl
theorem millbindComplete (work : Nat) : Statement (.millbindComplete work) := rfl
theorem millstatSample (work : Nat) : Statement (.millstatSample work) := rfl
theorem millWriteBeat (id : Nat) : Statement (.millWriteBeat id) := rfl
theorem tileAbandoned (tile : Nat) : Statement (.tileAbandoned tile) := rfl
theorem stflushComplete (work : Nat) : Statement (.stflushComplete work) := rfl
theorem carterTileStart (work : Nat) : Statement (.carterTileStart work) := rfl
theorem carterTileEnd (work i3 : Nat) : Statement (.carterTileEnd work i3) := rfl
theorem gathComplete (work : Nat) : Statement (.gathComplete work) := rfl
theorem scatComplete (work : Nat) : Statement (.scatComplete work) := rfl
theorem sinterComplete (work : Nat) : Statement (.sinterComplete work) := rfl
theorem mdecComplete (work : Nat) : Statement (.mdecComplete work) := rfl
theorem mmbHalfComplete (work : Nat) : Statement (.mmbHalfComplete work) := rfl
theorem moutHalfComplete (work : Nat) : Statement (.moutHalfComplete work) := rfl
theorem mjoinMerge (work : Nat) : Statement (.mjoinMerge work) := rfl
theorem mloopStep (work : Nat) : Statement (.mloopStep work) := rfl
theorem qscaleComplete (work : Nat) : Statement (.qscaleComplete work) := rfl
theorem qsplitComplete (work : Nat) : Statement (.qsplitComplete work) := rfl
theorem qdeqComplete (work : Nat) : Statement (.qdeqComplete work) := rfl
theorem cldComplete (work : Nat) : Statement (.cldComplete work) := rfl
theorem cstComplete (work : Nat) : Statement (.cstComplete work) := rfl
theorem transferChunk (work chunk : Nat) : Statement (.transferChunk work chunk) := rfl
theorem circleRecordSend (work : Nat) : Statement (.circleRecordSend work) := rfl
theorem crierStamp (circle : Fin 64) : Statement (.crierStamp circle) := rfl
theorem circleApply (circle : Fin 64) : Statement (.circleApply circle) := rfl
theorem circleGapTimeout (circle : Fin 64) : Statement (.circleGapTimeout circle) := rfl
theorem circleBrokenReceive (circle : Fin 64) : Statement (.circleBrokenReceive circle) := rfl
theorem circctlActive (circle : Fin 64) (value : DWord) : Statement (.circctlActive circle value) := rfl
theorem circctlBroken (circle : Fin 64) (value : DWord) : Statement (.circctlBroken circle value) := rfl
theorem signalAdd (id : Nat) : Statement (.signalAdd id) := rfl
theorem triggerFire (entry : Fin 1024) : Statement (.triggerFire entry) := rfl
theorem ptpSyncMessage (offset : Int) : Statement (.ptpSyncMessage offset) := rfl
theorem timefreeTimeout : Statement .timefreeTimeout := rfl
theorem timefreeExit : Statement .timefreeExit := rfl
theorem dtimeLoad (value : DWord) : Statement (.dtimeLoad value) := rfl
theorem launchSlotWrite (slot : Fin 64) (off : Nat) (bytes : List Byte) : Statement (.launchSlotWrite slot off bytes) := rfl
theorem heldSlotEnter (slot : Fin 64) : Statement (.heldSlotEnter slot) := rfl
theorem spawnEnter (hold : Nat) : Statement (.spawnEnter hold) := rfl
theorem gridFeed (grid : Nat) : Statement (.gridFeed grid) := rfl
theorem queueAgeing (core : Nat) : Statement (.queueAgeing core) := rfl
theorem teamPlace (core : Nat) : Statement (.teamPlace core) := rfl
theorem timerWheelSlot (slot : Nat) : Statement (.timerWheelSlot slot) := rfl
theorem teamEnd (core team : Nat) : Statement (.teamEnd core team) := rfl
theorem gridComplete (grid : Nat) : Statement (.gridComplete grid) := rfl
theorem completionSignalAdd (grid : Nat) : Statement (.completionSignalAdd grid) := rfl
theorem deadlockDetect (core gang : Nat) : Statement (.deadlockDetect core gang) := rfl
theorem napExpire (core gang : Nat) : Statement (.napExpire core gang) := rfl
theorem barwTimeout (core gang : Nat) : Statement (.barwTimeout core gang) := rfl
theorem sigwaitDeadline (core gang : Nat) : Statement (.sigwaitDeadline core gang) := rfl
theorem fenceComplete (hold : Nat) : Statement (.fenceComplete hold) := rfl
theorem stunmapComplete (hold : Nat) : Statement (.stunmapComplete hold) := rfl
theorem preemptReq : Statement .preemptReq := rfl
theorem contextSave : Statement .contextSave := rfl
theorem preemptRestore : Statement .preemptRestore := rfl
theorem haltBroadcast : Statement .haltBroadcast := rfl
theorem dumpWrite : Statement .dumpWrite := rfl
theorem preemptTimeout : Statement .preemptTimeout := rfl
theorem sensorPoll (core base stack : List Nat) : Statement (.sensorPoll core base stack) := rfl
theorem powerAverage (watts : Nat) : Statement (.powerAverage watts) := rfl
theorem telemetryMonitor (payload : List Byte) : Statement (.telemetryMonitor payload) := rfl
theorem sampleInterval (core : Nat) : Statement (.sampleInterval core) := rfl
theorem reset (image : FwImage) : Statement (.reset image) := rfl
theorem svnRaise (svn : Word) : Statement (.svnRaise svn) := rfl
theorem attreq : Statement .attreq := rfl
theorem dbgload : Statement .dbgload := rfl
theorem dbgctlStop (core gang : Nat) : Statement (.dbgctlStop core gang) := rfl
theorem dbgctlStep (core gang : Nat) : Statement (.dbgctlStep core gang) := rfl
theorem dbgctlResume (core gang : Nat) : Statement (.dbgctlResume core gang) := rfl
theorem readbackRequest (unit : RbUnit) (index off len : Nat) : Statement (.readbackRequest unit index off len) := rfl
theorem checkpoint (both failed : Bool) : Statement (.checkpoint both failed) := rfl
theorem reload (copy : CopyLoad) : Statement (.reload copy) := rfl
theorem btsync (index : Fin 4096) : Statement (.btsync index) := rfl
theorem ptsync (va : DWord) : Statement (.ptsync va) := rfl
theorem fqnextRead : Statement .fqnextRead := rfl
theorem lrejectRead : Statement .lrejectRead := rfl
theorem refdebtRead (channel : Nat) : Statement (.refdebtRead channel) := rfl
theorem cwinWrite (value : DWord) : Statement (.cwinWrite value) := rfl
theorem classWindowWrite (cls : Fin 15) (value : Word) : Statement (.classWindowWrite cls value) := rfl
theorem windowCRead (off n : Nat) : Statement (.windowCRead off n) := rfl
theorem windowCWrite (off : Nat) (write : HostWrite) : Statement (.windowCWrite off write) := rfl
theorem registerWrite (reg : HostReg) (value : DWord) : Statement (.registerWrite reg value) := rfl
theorem lifeCycleAdvance : Statement .lifeCycleAdvance := rfl
theorem fabricPortDown (port : Fin 18) : Statement (.fabricPortDown port) := rfl

end Sys2Proof.Laws.EncodedLength

open Sys2Proof Machine Sys2Proof.Laws.EncodedLength in
theorem Sys2Proof.Laws.EncodedLength.break (u : UGuard) (set : BitVec 12) (disp : Word) : Statement (.break u set disp) :=
  of_long _ rfl rfl (long_ul _ _ _ _ (by omega) (by omega) (by omega))
end

