-- ==== Sys2Proof/Tests/Slice0.lean ====
section
/-! SUPPORT. Tests: words written out from the encodings, terms that well-formedness refuses, and for every obligation with hypotheses a
state that meets them. Each expected value is from the rule that its comment names, worked by hand. -/

set_option maxRecDepth 100000
set_option Elab.async false

namespace Sys2Proof.Tests

open Sys2Proof Machine Claims

/-! A resident team of one gang: 64 lanes at offset 0, 128 registers each, 16 KiB of stash, 32 tiles, a handler at 0x100. Buffer 2 is host
memory, buffer 3 is plain device memory, both with every right. -/

def record : List Byte :=
  toBytes 8 (2 ^ 52) ++ toBytes 8 0 ++ toBytes 8 (1 + 2 ^ 32) ++ toBytes 8 (128 + 16 * 2 ^ 16 + 32 * 2 ^ 32 + 8 * 2 ^ 40) ++ toBytes 16 0 ++
  toBytes 8 0x100 ++ toBytes 8 0

def entry (base len kind cls : Nat) : List Byte :=
  toBytes 8 base ++ toBytes 8 len ++ toBytes 8 (0xFF + kind * 2 ^ 8 + 0xFFFF * 2 ^ 16 + cls * 2 ^ 32 + 0xFF * 2 ^ 40 + 0xFF * 2 ^ 48) ++ toBytes 8 0

def tables : Memory :=
  ((fetchMemory [] []).writeBytes 64 (entry 0 0x10000 7 0)).writeBytes 96 (entry 0x10000 0x10000 1 14)

def team : Team := { Team.absent with live := true, saveRun := 0x8000, stashRun := 0x100000, tiles := List.range 32, gangSlots := [0] }
def lanes0 : Gang := { Gang.absent with live := true, lanes := fetchLanes }
def grid : Grid := { Grid.absent with record := record, next := 1, unended := 1, seq := 1, thandler := 0x100 }

def base : State :=
  let s := State.reset.withFetchWord 0 0
  { s with
    dev := { s.dev with mem := tables }
    ctx := { s.ctx with grids := [(0, grid)], teams := [(0, team)], gangs := [(0, lanes0)] } }

/-- The base state with another gang, a slot in hand, another context or another device. -/
def issue0 : Issue := ⟨0, 0, BitVec.allOnes 64, 0, false⟩
def held (s : State) : State := { s with cur := some issue0 }
def withGang (s : State) (f : Gang → Gang) : State := { s with ctx := { s.ctx with gangs := [(0, f lanes0)] } }
def withCtx (s : State) (f : Ctx → Ctx) : State := { s with ctx := f s.ctx }
def withDev (s : State) (f : Dev → Dev) : State := { s with dev := f s.dev }
def withRegs (g : Gang) (r : Tbl Word) : Gang := { g with s := r }
def eachLane (g : Gang) (f : Lane → Lane) : Gang := { g with lanes := g.lanes.map fun l => (l.1, f l.2) }
def always : UGuard := ⟨3, false⟩
def everyLane : LGuard := ⟨7, false⟩

/-! Encoding and the step. -/

theorem test_base_memory_canonical : Safety.MemoryCanonical base :=
  ⟨by decide +kernel, (fun _ h => nomatch h), (by decide +kernel : ∀ x ∈ base.ctx.cores, Memory.wf x.2.pool = true), fun _ h => nomatch h⟩

theorem witness_decode_of_encode : (Instr.iadd 7 3 4 5).isCode = true ∧ (Instr.iadd 7 3 4 5).wf = true := by decide

/-- R56: IADD g7, v3, v4, v5 as R63 numbers it. -/
theorem witness_encode_of_decode : decodeWords (0b00#2 ++ 0x01#6 ++ 7#3 ++ 3#7 ++ 4#7 ++ 5#7) 0 = .ok (.iadd 7 3 4 5) := by decide +kernel

def fetched : State := State.reset.withFetchWord 32 0x01E0C205

theorem witness_fetch_decodes : ∃ t, fetched.fetchWord 0 0 (fetched.codeSince 0 0) = (t, .ok 0x01E0C205) ∧ isLong 0x01E0C205 = false ∧
    decodeWords 0x01E0C205 0 = .ok (.iadd 7 3 4 5) := ⟨_, rfl, by decide, by decide +kernel⟩

theorem witness_step_runs : fetched.choose = some (.slot ⟨0, 0, BitVec.allOnes 64, 0, false⟩) ∧
    ∃ t, fetched.fetch 0 0 = (t, .instr (.iadd 7 3 4 5)) := ⟨by decide +kernel, _, rfl⟩

/-- A word that decodes to nothing traps where its gang has a handler; a malformed barrier, short of one lane, reconverges first. -/
theorem witness_step_traps : base.choose = some (.slot issue0) ∧ takesTrap 0 base issue0.lanes = true ∧
    ∃ t, (base.modGang 0 fun g => g.wakeNaps base.now).fetch 0 0 = (t, .bad ⟨cILLEGAL, 0, 0⟩ 4 false) := ⟨by decide +kernel, by decide +kernel, _, rfl⟩
def strayed : Gang := { lanes0 with lanes := Tbl.set fetchLanes 63 { Lane.start 8 with cond := .blocked, wait := .debug } }
def badBarrier : State :=
  withGang (withDev base fun d => { d with mem := d.mem.writeBytes 0x1000000 (toBytes 4 (0b11#2 ++ 0x022#10 ++ 0xFFFFF#20).toNat) }) fun _ => strayed
theorem witness_step_reconverges : badBarrier.choose = some (.slot ⟨0, 0, BitVec.allOnes 64 ^^^ laneBit 63, 0, false⟩) ∧
    BitVec.allOnes 64 ^^^ laneBit 63 ≠ strayed.nonExited ∧ strayed.gathered 0 = false ∧
    ∃ t n, (badBarrier.modGang 0 fun g => g.wakeNaps badBarrier.now).fetch 0 0 = (t, .bad ⟨cRESERVED, 0, 0⟩ n true) :=
  ⟨by decide +kernel, by decide +kernel, by decide +kernel, _, _, rfl⟩
theorem witness_step_event : ({ State.reset with inputs := [.attreq] } : State).choose = some (.event .attreq) := by decide +kernel
theorem witness_step_idle : State.reset.choose = none := by decide +kernel
theorem witness_step_keeps_memory : Safety.MemoryCanonical State.reset ∧ step State.reset = .next State.reset.tick :=
  ⟨⟨by decide, (fun _ h => nomatch h), (by decide : ∀ x ∈ State.reset.ctx.cores, Memory.wf x.2.pool = true), fun _ h => nomatch h⟩, rfl⟩

/-! Words that execute in the base state. Handler mode is on where the word needs it. -/

theorem witness_lane_integer : ∀ i ∈ [Instr.iadd 7 4 8 12, .isub 7 4 8 12, .iaddi everyLane 4 8 5, .imul 7 4 8 12, .imulhs 7 4 8 12, .imulhu 7 4 8 12,
    .imin 7 4 8 12, .imax 7 4 8 12, .umin 7 4 8 12, .umax 7 4 8 12, .imad everyLane 4 8 12 16 .i32 false, .imad everyLane 4 8 12 16 .n32 true,
    .urand everyLane 4 8 12 false, .urand everyLane 4 8 12 true], ready i issue0 (held base) = true := by decide +kernel

theorem witness_lane_bits : ∀ i ∈ [Instr.and 7 4 8 12, .or 7 4 8 12, .xor 7 4 8 12, .andn 7 4 8 12, .logi everyLane 4 8 12 16 0xE8,
    .shl 7 4 8 12, .shr 7 4 8 12, .sar 7 4 8 12, .rotl 7 4 8 12, .shfi everyLane 4 8 .sar 31, .popc 7 4 8, .clz 7 4 8, .brev 7 4 8,
    .bfx everyLane 4 8 .i32 0 31, .bfi everyLane 4 8 12 31 0], ready i issue0 (held base) = true := by decide +kernel

theorem witness_lane_moves : ∀ i ∈ [Instr.mov 7 4 8, .limm everyLane 4 5, .lane 7 4, .sel 0 4 8 12, .lea everyLane 4 16 8 .q (-512),
    .tidx everyLane 4 5 127 127, .icmp everyLane 7 8 12 .n32 .lt .and, .fcmp everyLane 0 8 12 true .lt .set], ready i issue0 (held base) = true := by
  decide +kernel

theorem witness_lane_floating : ∀ i ∈ [Instr.fadd 7 4 8 12, .fsub 7 4 8 12, .fmul 7 4 8 12, .fmin 7 4 8 12, .fmax 7 4 8 12,
    .ffma everyLane 4 8 12 16 true true false, .fabs 7 4 8, .fneg 7 4 8, .hadd2 7 4 8 12, .hmul2 7 4 8 12, .hmax2 7 4 8 12,
    .hfma2 everyLane 4 8 12 16 false false true, .pkbf 7 4 8 12, .upbfl 7 4 8, .upbfh 7 4 8, .cvtif 7 4 8, .cvtfi 7 4 8,
    .cvt everyLane 4 8 .i8 .f32 true, .frcp 7 4 8, .frsq 7 4 8, .fsqrt 7 4 8, .fexp2 7 4 8, .flog2 7 4 8], ready i issue0 (held base) = true := by
  decide +kernel

theorem witness_function_operands : fp32.read 0xBF800000 = .fin true (2 ^ 23) (-23) ∧ fp32.read 0x3F800000 = .fin false (2 ^ 23) (-23) ∧
    fp32.read 0x7F800001 = .nan true := by decide +kernel

theorem witness_lanes_exchange : ∀ i ∈ [Instr.shfl everyLane 4 8 12 .idx false 0, .bcast everyLane 4 8 63 false, .bcast everyLane 4 8 0 true, .vote everyLane 4 8 .ballot 0 false,
    .vote everyLane 4 8 .all 1 true, .redl everyLane 4 8 .add, .scanl everyLane 4 8 .add true], ready i issue0 (held base) = true := by decide +kernel

theorem witness_uniform_scalars : ∀ i ∈ [Instr.sadd 3 4 16 32, .ssub 3 4 16 32, .smul 3 4 16 32, .saddi always 4 16 7, .smin 3 4 16 32 true,
    .smax 3 4 16 32 false, .sand 3 4 16 32, .sor 3 4 16 32, .sxor 3 4 16 32, .sshl 3 4 16 32, .sshr 3 4 16 32, .ssar 3 4 16 32, .smov 3 4 16,
    .sli always 4 9, .nop 3, .scmp 3 0 16 32 .lt true, .scmpi always 3 16 .ge false 5, .rdlane always 4 8 63 false, .mget always 4 11,
    .ttest 3 4 5 0, .yield 3, .circrd always 4 63 7, .perfrd always 4 7], ready i issue0 (held base) = true := by decide +kernel

theorem witness_special_registers : ∀ i ∈ [Instr.sysrd always 4 0x010 true, .syswr always 4 0x01D, .syswr always 4 0x028],
    ready i issue0 (held (withGang base fun g => { g with hmode := true })) = true := by decide +kernel

/-- R125, on core 1, where no team is resident: boundaries that are legal, and one that is no multiple of 1 KiB. -/
theorem witness_boundaries : let s := withCtx State.reset fun c => { c with cores := [(1, { Core.empty with b1 := 1024, b2 := 2048, b3 := 131072 })] }
    (∀ j, j < 16 → (s.team (16 + j)).live = false) ∧ s.boundsOk 1 2048 (s.core 1).b2 (s.core 1).b3 = true ∧ s.boundsOk 1 1 (s.core 1).b2 (s.core 1).b3 = false := by
  decide +kernel
theorem witness_control : ∀ i ∈ [Instr.br everyLane 64, .bra always 64, .brx everyLane 8, .jmpu always 16, .brc always 4 64, .call everyLane 64,
    .callu always 64, .join 3 11, .leave 3 0, .break always 0xFFF 64, .mset always 16 5, .waitm 3 5 true, .refill everyLane 4 64, .exit 3,
    .nap always 5, .trap 3 16 15, .bkpt 3 15], ready i issue0 (held base) = true := by decide +kernel

theorem witness_memory_words : ∀ i ∈ [Instr.ld everyLane 4 16 8 15 .q .nl (-512), .lds everyLane 4 16 8 0 .d 3, .atom everyLane 4 8 16 12 15 .w .add .gang,
    .atoms everyLane 4 8 16 12 0 .d .cas .team, .sld always 4 16 32 15 .d .none 5, .idiv everyLane 4 8 12 .n32 3, .irem everyLane 4 8 12 .i32 0,
    .st everyLane 4 16 8 .q .nc 0, .sts everyLane 4 16 8 .w 0, .sst always 4 16 32 .w .none 0, .red everyLane 8 16 12 .w .add .system,
    .pf everyLane 16 8 .w .none 0], ready i issue0 (held base) = true := by decide +kernel

theorem witness_sync_words : ∀ i ∈ [Instr.stmap always 16 32 48 1 .rw, .stunmap always 16 true, .stflush always 4 0 0 true false, .stflush always 4 16 32 false true,
    .fence always 0x7F .system true true, .sigadd always 16 32 48 true true 1, .sigwait always 4 16 32 48 0 31, .twait 3 16 true, .cpermit 3 16 15,
    .bari always 16 32 48 .team, .bara always 4 16 32 48 .team 0, .barw always 4 16 32 48 .team 0 31, .trigset always 16 32 48,
    .trigclr always 4 16 false, .spawn always 16, .timeat always 16 32, .iqfill always 4 16 32 true], ready i issue0 (held base) = true := by
  decide +kernel

theorem witness_engine_words : ∀ i ∈ [Instr.cpy always 4 16, .gath always 4 16 32 48 .q, .scat always 4 16 32 48 .w .st, .sinter always 4 16 32 48 true,
    .mdec always 4 16 32 48 7 true, .millld always 4 16 32 7 255, .millbind always 4 16 7 true false, .millstat always 4 16 32 7 true,
    .qscale always 4 16 32 48 true, .qsplit always 4 16 32 true, .qdeq always 4 16 32 8 true, .mmb always 4 16 32 3 true true,
    .mout always 4 16 32 3 true, .mjoin always 4 3 31, .mloop always 4 16 32 48 31 3 true true, .czero always 31, .cld always 4 16 32 31 true,
    .cst always 4 16 32 31 true true, .cstat always 4 31 true, .put always 4 16 32 48 true true 3, .get always 4 16 32 48 true true 3,
    .putred always 4 16 32 48 .add true true 3 true false 0, .putred always 4 16 32 0 .add true false 0 true true 63,
    .mcst always 4 16 32 63], ready i issue0 (held base) = true := by decide +kernel

/-! The checks of R65, guards, traps and control flow. -/

def access (k : AccKind) : Access := { (⟨0, 0, 1, [0], 0, 8, false⟩ : At).access base k with reqs := [⟨0, 0, 0, 0⟩] }
def smallRecord : List Byte := patch record 0x18 [16]
def lane0 : Issue := ⟨0, 0, 1, 0, false⟩
def running (s : State) : State := { s with cur := some lane0 }
def apart (g : Gang) : Gang := { g with lanes := g.lanes.map fun l => (l.1, if l.1 = 0 then l.2 else { l.2 with pc := 8 }) }
def window (n : Nat) (s : State) : State :=
  withCtx (withGang s fun g => eachLane g fun l => { l with wins := [⟨9, n⟩] }) fun c => { c with accs := [(9, { access .load with reg := 4 })] }

theorem witness_reserved_encoding : whole (.bara always 4 16 32 48 .team 0) issue0 (held base) = true ∧ (Instr.call everyLane 6).isCode = true ∧ (held base).windowWait 0 (issuing (.call everyLane 6) issue0 base) (.call everyLane 6) = false ∧
    (Instr.call everyLane 6).wf = false ∧
    (withCtx base fun c => { c with grids := [(0, { grid with record := smallRecord })] }).fits 0 (.mov 7 16 15) = false := by decide +kernel

theorem witness_lookahead_hazard : let s := held (window 3 base); let i := Instr.mov 7 5 4
    s.windowWait 0 (issuing i issue0 s) i = false ∧ i.wf = true ∧ s.fits 0 i = true ∧ s.hazards 0 (issuing i issue0 s) i ≠ 0 := by decide +kernel

theorem witness_words_wait : (held (window 0 base)).windowWait 0 (issuing (.mov 7 5 6) issue0 (held (window 0 base))) (.mov 7 5 6) = true ∧
    let s := held (withGang base fun g => { g with tokens := [(16, 9)] }); let i := Instr.smov 3 4 16
    i.wf = true ∧ s.fits 0 i = true ∧ s.hazards 0 (issuing i issue0 s) i = 0 ∧ s.available 0 i = false := by decide +kernel

theorem witness_partial_gang : let i := Instr.czero always 3; let s := running base
    collective i = true ∧ admitted i lane0 s = true ∧ (at' i lane0 s).exec ≠ [] ∧ issuing i lane0 s ≠ (Claims.gang lane0 s).nonExited := by decide +kernel

theorem witness_reconverges : let i := Instr.bara always 4 16 32 48 .team 0; let s := running (withGang base apart)
    reconverges i = true ∧ issuing i lane0 s ≠ (Claims.gang lane0 s).nonExited := by decide +kernel

theorem witness_privileged : let i := Instr.eret 3 false; let s := held base
    s.windowWait 0 (issuing i issue0 s) i = false ∧ i.wf = true ∧ s.fits 0 i = true ∧ privileged i = true ∧ (Claims.gang issue0 s).hmode = false := by
  decide +kernel

theorem witness_false_guard : let i := Instr.iaddi ⟨0, false⟩ 4 8 1
    admitted i issue0 (held base) = true ∧ (at' i issue0 (held base)).exec = [] := by decide +kernel

theorem witness_trap_taken : takesTrap 0 base 1 = true := by decide +kernel

theorem witness_no_handler : let s := withCtx base fun c => { c with grids := [(0, { grid with thandler := 0 })] }
    s.ctx.halt = none ∧ (s.gang 0).hmode = false ∧ s.dev.pre.req = false ∧ (s.grid (s.gridOf 0)).thandler = 0 := by decide +kernel
theorem witness_nested : let s := withGang base fun g => { g with hmode := true, hset := 3 }
    s.ctx.halt = none ∧ (s.gang 0).hmode = true ∧ (1 : Lanes) &&& (s.gang 0).hset ≠ 0 := by decide +kernel

theorem witness_trap : let i := Instr.trap 3 16 15
    ready i issue0 (held base) = true ∧ takesTrap 0 (begun i issue0 (held base)) (issuing i issue0 (held base)) = true := by decide +kernel
theorem witness_bkpt : let i := Instr.bkpt 3 15
    ready i issue0 (held base) = true ∧ (held base).dev.sec.debug % 2 = 0 ∧
      takesTrap 0 (begun i issue0 (held base)) (issuing i issue0 (held base)) = true := by decide +kernel
theorem witness_bkpt_stops : let s := held (withDev base fun d => { d with sec := { d.sec with debug := 1, attached := true } })
    ready (.bkpt 3 15) issue0 s = true ∧ s.dev.sec.debug % 2 = 1 ∧ s.dev.sec.attached = true := by decide +kernel

theorem witness_eret : let s := held (withGang base fun g => { g with hmode := true, hset := 3, t := ⟨0x13, 64, 68, 0, 1, 0⟩ })
    ready (.eret 3 false) issue0 s = true ∧ (Claims.gang issue0 s).held = [] ∧ (Claims.gang issue0 s).retry = false := by decide +kernel

theorem witness_branches : let s := held base; ready (.brx everyLane 8) issue0 s = true ∧
    (∀ l ∈ (at' (.brx everyLane 8) issue0 s).exec, (((Claims.gang issue0 s).lane l).reg 8).toNat % 4 = 0) ∧
    ready (.jmpu always 16) issue0 s = true ∧ ((Claims.gang issue0 s).sreg 16).toNat % 4 = 0 := by decide +kernel
theorem witness_misaligned_targets :
    let s := held (withGang base fun g => withRegs (eachLane g fun l => { l with v := [(8, 2)] }) [(16, 2)])
    ready (.brx everyLane 8) issue0 s = true ∧ ready (.jmpu always 16) issue0 s = true ∧
    ((at' (.brx everyLane 8) issue0 s).exec.filter fun l => (((Claims.gang issue0 s).lane l).reg 8).toNat % 4 != 0).head? = some 0 ∧
    ((Claims.gang issue0 s).sreg 16).toNat % 4 ≠ 0 := by decide +kernel

def called (n : Nat) : State := held (withGang base fun g => eachLane g fun l => { l with stack := List.replicate n 4 })

/-- 8 KiB of save area for one gang: 16 stack entries in it, 24 in all (R277). -/
theorem witness_calls : ready (.call everyLane 64) issue0 (called 23) = true ∧ ready (.callu always 64) issue0 (called 23) = true ∧
    (∀ l ∈ (at' (.call everyLane 64) issue0 (called 23)).exec, ((Claims.gang issue0 (called 23)).lane l).stack.length < 8 + (Rec.fsave record - 4096) / (4 * (64 * Rec.ngangs record))) ∧
    ready (.ret 3) issue0 (called 23) = true ∧
    (∀ l ∈ laneList (issuing (.ret 3) issue0 (called 23)), ((Claims.gang issue0 (called 23)).lane l).stack ≠ []) := by decide +kernel
theorem witness_full_stacks : ready (.callu always 64) issue0 (called 24) = true ∧ ready (.call everyLane 64) issue0 (called 24) = true ∧
    (begun (.callu always 64) issue0 (called 24)).stackDepth 0 ≤ ((Claims.gang issue0 (called 24)).lane 0).stack.length ∧
    ready (.ret 3) issue0 (held base) = true ∧ ((Claims.gang issue0 (held base)).lane 0).stack = [] := by decide +kernel

theorem witness_masks : (∀ l, l < 64 → ((Claims.gang issue0 (held base)).lane l).cond ≠ .blocked) ∧
    issuing (.waitm 3 5 true) issue0 (held base) &&& ~~~ (Claims.gang issue0 (held base)).mask 5 ≠ 0 ∧
    let s := held (withGang base fun g => { g with m := [(5, BitVec.allOnes 64)] })
    ready (.waitm 3 5 true) issue0 s = true ∧ issuing (.waitm 3 5 true) issue0 s &&& ~~~ (Claims.gang issue0 s).mask 5 = 0 := by decide +kernel

/-- Every lane waits at offset 0 on mask 1, which holds them all; or lane 0 issues while lane 1 waits there. -/
def meeting : Gang := { eachLane lanes0 fun l => { l with cond := .blocked, wait := .waitm 1 true } with m := [(1, BitVec.allOnes 64)] }
theorem witness_masks_met : (meeting.lane 0).cond = .blocked ∧ (meeting.lane 0).wait = .waitm 1 true ∧
    (∀ k, k < 64 → (meeting.mask 1).getLsbD k = true → (meeting.lane k).pc = 0 ∧ (meeting.lane k).cond = .blocked ∧ (meeting.lane k).wait = .waitm 1 true) ∧
    ((meeting.settleMask 1 65).lane 0).cond = .running := by decide +kernel
theorem witness_mset_waits : let s := running (withGang base fun g => { g with
      lanes := g.lanes.map fun l => (l.1, if l.1 = 0 then l.2 else { l.2 with pc := 8, cond := .blocked, wait := .waitm 5 false }) })
    ready (.mset always 16 5) lane0 s = true ∧ ((Claims.gang lane0 s).lane 1).cond = .blocked ∧ ((Claims.gang lane0 s).lane 1).wait = .waitm 5 false := by
  decide +kernel
theorem witness_exit : (Claims.gang issue0 (held base)).retry = false ∧
    (Claims.gang issue0 (held base)).nonExited &&& ~~~ issuing (.exit 3) issue0 (held base) = 0 := by decide +kernel

/-! Memory words and accesses in flight. -/

/-- Registers that name buffer `h`, and offset `o` in each lane's v8. -/
def naming (h : Nat) (o : Nat) (s : State) : State :=
  held (withGang s fun g => withRegs (eachLane g fun l => { l with v := [(8, BitVec.ofNat 32 o)] }) [(16, BitVec.ofNat 32 h)])

/-- Buffer 4: plain memory at 0x20000 whose writes pass through Mill slot 2, which holds an empty graph. -/
def milledEntry : List Byte := patch (entry 0x20000 0x10000 1 14) 22 [2]
def milledBase : State :=
  withCtx (withDev base fun d => { d with mem := d.mem.writeBytes 128 milledEntry }) fun c =>
    { c with millSlots := [(2, ⟨some 0, [], none, [(4, true)]⟩)] }

theorem witness_store_checks : let s := naming 3 0 base; let i := Instr.st everyLane 4 16 8 .w .none 0; let b := begun i issue0 s
    ready i issue0 s = true ∧ (∀ l ∈ (at' i issue0 s).exec, b.storeCheck (b.gridIdOf 0) 3 0 4 4 = none) ∧ (b.entry 3).millWrites = false ∧
    b.access? b.ctx.nextId = none ∧ b.storeCheck (b.gridIdOf 0) 3 2 4 4 = some ⟨cMISALIGNED, bref 3 2, 0⟩ := by decide +kernel
theorem witness_stores_fail : (let s := naming 3 2 base; let i := Instr.st everyLane 4 16 8 .w .none 0; let b := begun i issue0 s
      ready i issue0 s = true ∧ ((at' i issue0 s).exec.find? fun _ => (b.storeCheck (b.gridIdOf 0) 3 2 4 4).isSome) = some 0 ∧ b.access? b.ctx.nextId = none) ∧
    (let s := naming 0 16384 base; let i := Instr.sts everyLane 4 16 8 .w 0; let b := begun i issue0 s
      ready i issue0 s = true ∧ ((at' i issue0 s).exec.find? fun _ => (b.stashCheck 0 16384 4 4).isSome) = some 0 ∧ b.access? b.ctx.nextId = none) ∧
    let s := naming 3 2 base; let i := Instr.red everyLane 8 16 12 .w .add .system; let b := begun i issue0 s
    ready i issue0 s = true ∧ ((at' i issue0 s).exec.find? fun _ => (b.atomCheck (b.gridIdOf 0) 3 2 4 .add).isSome) = some 0 ∧
      b.access? b.ctx.nextId = none := by decide +kernel
/-- R143: lane 0 is misaligned, or past the stash; the others store. -/
def oddLane (h o : Nat) (s : State) : State :=
  held (withGang s fun g => withRegs { g with lanes := g.lanes.map fun l => (l.1, { l.2 with v := [(8, BitVec.ofNat 32 (if l.1 = 0 then o else 0))] }) }
    [(16, BitVec.ofNat 32 h)])
theorem witness_other_lanes_store :
    (let s := oddLane 3 2 base; let i := Instr.st everyLane 4 16 8 .w .none 0; let b := begun i issue0 s; let a := at' i issue0 s
      ready i issue0 s = true ∧ (a.exec.filter fun l => (b.storeCheck (b.gridIdOf 0) 3 (if l = 0 then 2 else 0) 4 4).isNone) = List.range' 1 63) ∧
    (let s := oddLane 0 16384 base; let i := Instr.sts everyLane 4 16 8 .w 0; let b := begun i issue0 s; let a := at' i issue0 s
      ready i issue0 s = true ∧ (a.exec.filter fun l => (b.stashCheck 0 (if l = 0 then 16384 else 0) 4 4).isNone) = List.range' 1 63) ∧
    let s := oddLane 3 2 base; let i := Instr.red everyLane 8 16 12 .w .add .system; let b := begun i issue0 s; let a := at' i issue0 s
    ready i issue0 s = true ∧ (a.exec.filter fun l => (b.atomCheck (b.gridIdOf 0) 3 (if l = 0 then 2 else 0) 4 .add).isNone) = List.range' 1 63 := by
  decide +kernel
theorem witness_scalar_store_through_graph : let s := naming 4 0 milledBase; let i := Instr.sst always 4 16 32 .w .none 0; let b := begun i issue0 s
    ready i issue0 s = true ∧ (b.entry 4).millWrites = true ∧ b.storeCheck (b.gridIdOf 0) 4 0 4 4 = none := by decide +kernel
def prefetching : State := withCtx base fun c => { c with accs := [(9, access .prefetch)], nextId := 10 }
theorem witness_prefetch : prefetching.access? 9 = some (access .prefetch) ∧ (access .prefetch).kind = .prefetch ∧ (access .prefetch).faults = [] ∧
    (prefetching.gang 0).waitTrap = [] ∧ ∀ x ∈ (prefetching.gang 0).lanes, x.2.wins = [] := by decide +kernel
theorem witness_store_through_graph : let s := naming 4 0 milledBase; let i := Instr.st everyLane 4 16 8 .w .none 0; let b := begun i issue0 s
    ready i issue0 s = true ∧ (b.entry 4).millWrites = true ∧ b.storeCheck (b.gridIdOf 0) 4 0 4 4 = none := by decide +kernel
theorem witness_stash_store_checks : let s := held base
    s.stashCheck 0 16380 4 4 = none ∧ s.stashReadOnly 0 16380 4 = none := by decide +kernel
theorem witness_reduction_checks : let s := naming 3 0 base; let i := Instr.red everyLane 8 16 12 .w .add .system; let b := begun i issue0 s
    ready i issue0 s = true ∧ b.atomCheck (b.gridIdOf 0) 3 0 4 .add = none := by decide +kernel

/-! One request of an access, at its place: host memory, plain memory, or the team's stash. -/

def hostEntry : Entry := parseEntry (entry 0 0x10000 7 0)
def plainEntry : Entry := parseEntry (entry 0x10000 0x10000 1 14)
def hostPiece (n : Nat) : Piece := ⟨hostBase, n, 0, 0⟩
def plainPiece (n : Nat) : Piece := ⟨0x1010000, n, 0, 0x10000⟩
def req : Req := ⟨0, 0, 5, 0⟩
def flying (x : Access) : State :=
  withCtx (withGang base fun g => eachLane g fun l => { l with wins := [⟨9, 3⟩] }) fun c => { c with accs := [(9, x)], nextId := 10 }
def owing (k : AccKind) (h : Nat) (wd : Width) (sc : Scope) : Access := { access k with handle := h, wd := wd, scope := sc, reqs := [req], la := 3, pol := .nl }
def engineOf (x : Access) : State := { flying x with eng := some 9 }

theorem unheld {s : State} {id va : Nat} (h : s.ctx.redHold = []) (core : Nat) : s.heldBlocks id core va = false := by
  simp [State.heldBlocks, State.sliceFull, h]

theorem port_ok {α : Type} [BEq α] [LawfulBEq α] {r : Machine.Port α} {x : α} (h : (match r with | .ok y => y == x | _ => false) = true) : r = .ok x := by
  cases r with
  | ok y => exact congrArg _ (eq_of_beq h)
  | _ => exact nomatch h
theorem port_fail {α : Type} {r : Machine.Port α} {e : Err} (h : (match r with | .fail y => y == e | _ => false) = true) : r = .fail e := by
  cases r with
  | fail y => exact congrArg _ (eq_of_beq h)
  | _ => exact nomatch h

theorem ok_check {α ε : Type} (r : Except ε α) (h : r.toBool = true) : ∃ e, r = .ok e := by
  cases r with
  | ok e => exact ⟨e, rfl⟩
  | error _ => exact nomatch h

def atomHost : Access := owing .atom 2 .w .device
def atomPlain : Access := owing .atom 3 .w .gang

def redHost : Access := owing .red 2 .d .system
def storeHost : Access := owing .store 2 .w .gang
def signalHost : Access := owing .signal 2 .d .system
def loadPlain : Access := owing .load 3 .w .gang
def scalarPlain : Access := owing .sld 3 .d .gang

theorem witness_atomic_requests : atomHost.ent = [] ∧ atomPlain.ent = [] ∧ (req.offset = req.off) ∧
    ((flying atomPlain).ctx.custody.filter fun c => c.2.cluster == 0).length < 256 := by decide +kernel
theorem witness_atomic_operands : (4 = 4 ∨ 4 = 8) ∧ 0xFFFFFFFF < 2 ^ (8 * 4) ∧ 1 < 2 ^ (8 * 4) := by decide

theorem witness_atomic_at_home : Due (flying atomHost) 9 atomHost req ∧
    (engineOf atomHost).checkParts 0 2 0 4 ⟨rR ||| rW ||| rATOM, 4, true, false⟩ = .ok (hostEntry, [hostPiece 4]) ∧ hostEntry.kind = 7 ∧ hostEntry.millrd = noGraph ∧
    hostEntry.millwr = noGraph ∧ Placed (engineOf atomHost) 9 2 0 4 hostEntry (hostPiece 4) ∧ (engineOf atomHost).custodyBlocks 0 hostBase false = false :=
  ⟨by unfold Due; decide +kernel, port_ok (by decide +kernel), by decide +kernel, by decide +kernel, by decide +kernel,
    ⟨by decide +kernel, rfl, by decide +kernel, by decide +kernel, by decide +kernel, by decide +kernel, unheld rfl⟩, by decide +kernel⟩

theorem witness_atomic_in_custody : Due (flying atomPlain) 9 atomPlain req ∧
    (engineOf atomPlain).checkParts 0 3 0 4 ⟨rR ||| rW ||| rATOM, 4, true, false⟩ = .ok (plainEntry, [plainPiece 4]) ∧ plainEntry.kind = 1 ∧
    State.scopeRank atomPlain.scope ≤ 3 ∧ Placed (engineOf atomPlain) 9 3 0 4 plainEntry (plainPiece 4) ∧
    Tbl.find? (flying atomPlain).ctx.custody ((plainPiece 4).loc / 128) = none :=
  ⟨by unfold Due; decide +kernel, port_ok (by decide +kernel), by decide +kernel, by decide +kernel,
    ⟨by decide +kernel, rfl, by decide +kernel, by decide +kernel, by decide +kernel, by decide +kernel, unheld rfl⟩, by decide +kernel⟩

theorem witness_stash_atomic : Due (flying (owing .atoms 0 .w .team)) 9 (owing .atoms 0 .w .team) req ∧
    (flying (owing .atoms 0 .w .team)).stashCheck 0 0 4 4 = none ∧ scratch (flying (owing .atoms 0 .w .team)) 0 :=
  ⟨by unfold Due; decide +kernel, by decide +kernel, rfl, fun _ => rfl, fun _ h => nomatch h⟩

theorem witness_reduction_at_home : Due (flying redHost) 9 redHost req ∧ Tbl.mem (flying redHost).ctx.misses ((engineOf redHost).reqVa redHost req / 2 ^ 16) = false ∧
    Placed (engineOf redHost) 9 2 0 8 ((engineOf redHost).entryOf redHost) (hostPiece 8) ∧ 3 < State.scopeRank redHost.scope ∧
    (engineOf redHost).custodyBlocks 0 hostBase false = false :=
  ⟨by unfold Due; decide +kernel, by decide +kernel,
    ⟨by decide +kernel, rfl, by decide +kernel, by decide +kernel, by decide +kernel, by decide +kernel, unheld rfl⟩, by decide +kernel, by decide +kernel⟩

theorem witness_store_at_home : Due (flying storeHost) 9 storeHost req ∧ (engineOf storeHost).beatAccess storeHost = false ∧
    Placed (engineOf storeHost) 9 2 0 4 ((engineOf storeHost).entryOf storeHost) (hostPiece 4) ∧ (engineOf storeHost).custodyBlocks 0 hostBase false = false :=
  ⟨by unfold Due; decide +kernel, by decide +kernel,
    ⟨by decide +kernel, rfl, by decide +kernel, by decide +kernel, by decide +kernel, by decide +kernel, unheld rfl⟩, by decide +kernel⟩

theorem witness_stash_store : Due (flying (owing .sts 0 .w .gang)) 9 (owing .sts 0 .w .gang) req ∧ scratch (flying (owing .sts 0 .w .gang)) 0 :=
  ⟨by unfold Due; decide +kernel, rfl, fun _ => rfl, fun _ h => nomatch h⟩

theorem witness_signal_add : Due (flying signalHost) 9 signalHost req ∧ signalHost.wd = .d ∧
    Tbl.mem (flying signalHost).ctx.misses ((engineOf signalHost).reqVa signalHost req / 2 ^ 16) = false ∧
    Placed (engineOf signalHost) 9 2 0 8 ((engineOf signalHost).entryOf signalHost) (hostPiece 8) ∧
    (engineOf signalHost).custodyBlocks 0 hostBase false = false :=
  ⟨by unfold Due; decide +kernel, rfl, by decide +kernel,
    ⟨by decide +kernel, rfl, by decide +kernel, by decide +kernel, by decide +kernel, by decide +kernel, unheld rfl⟩, by decide +kernel⟩

def custodyState : State := withCtx base fun c => { c with custody := [(0x20200, ⟨0, 0, true, [(0, 0)]⟩)] }
theorem witness_custody_return : Tbl.find? custodyState.ctx.custody 0x20200 = some ⟨0, 0, true, [(0, 0)]⟩ ∧
    custodyState.dev.lostAt (128 * 0x20200) = false ∧ (custodyState.gang 0).live = true ∧ custodyState.gridOf 0 = 0 := by decide +kernel

def beatReq : Req := ⟨0, 0, 5, 2 ^ 64 - 1⟩
def beat : Access := { owing .store 4 .w .gang with reqs := [beatReq] }
def beatState : State := withCtx milledBase fun c => { c with accs := [(9, beat)], nextId := 10 }
def beatPiece : Piece := ⟨0x1020000, 64, 0, 0x20000⟩
theorem witness_mill_beat : let s := beatState; let b : State := { s with eng := some 9 }
    Due s 9 beat beatReq ∧ b.beatAccess beat = true ∧ imgMode (s.millSlot 2).image ≠ 1 ∧ (s.millSlot 2).draining = none ∧
    (∀ m ∈ s.ctx.mills, m.2.ctxs = []) ∧ (b.entryOf beat).millwr = 2 ∧ (b.entryOf beat).kind = 1 ∧ b.backing (b.entryOf beat) 4 0 2 = (4, 0, 64, 1) ∧
    b.place (b.entryOf beat) 4 0 64 = .ok beatPiece ∧ beat.gate = [] ∧ (∃ g, b.gateOf (b.entryOf beat) 4 0 true = .ok g) ∧
    s.dev.lostAt beatPiece.loc = false ∧ b.beatBefore 9 4 0 64 = false ∧ b.atHome [beatPiece] = .ok [beatPiece] ∧
    (runGraph [] (s.millPart 0 2) (lanesOf (toBytes 64 5)) [] 0 0).failed = false :=
  ⟨by unfold Due; decide +kernel, by decide +kernel, by decide +kernel, by decide +kernel, (fun _ h => nomatch h), by decide +kernel, by decide +kernel,
    by decide +kernel, rfl, rfl, ok_check _ (by decide +kernel), by decide +kernel, by decide +kernel, port_ok (by decide +kernel), by decide +kernel⟩

theorem witness_load : Due (flying loadPlain) 9 loadPlain req ∧
    (engineOf loadPlain).checkParts 0 3 0 4 ⟨rR, 4, false, false⟩ = .ok (plainEntry, [plainPiece 4]) ∧ plainEntry.kind = 1 ∧ plainEntry.milled false = false ∧
    Placed (engineOf loadPlain) 9 3 0 4 plainEntry (plainPiece 4) ∧ (engineOf loadPlain).custodyBlocks 0 0x1010000 true = false ∧ loadPlain.pol = .nl :=
  ⟨by unfold Due; decide +kernel, port_ok (by decide +kernel), by decide +kernel, by decide +kernel,
    ⟨by decide +kernel, rfl, by decide +kernel, by decide +kernel, by decide +kernel, by decide +kernel, unheld rfl⟩, by decide +kernel, by decide⟩
theorem witness_scalar_load : Due (flying scalarPlain) 9 scalarPlain req ∧
    (engineOf scalarPlain).checkParts 0 3 0 8 ⟨rR, 4, false, false⟩ = .ok (plainEntry, [plainPiece 8]) ∧
    Placed (engineOf scalarPlain) 9 3 0 8 plainEntry (plainPiece 8) :=
  ⟨by unfold Due; decide +kernel, port_ok (by decide +kernel),
    ⟨by decide +kernel, rfl, by decide +kernel, by decide +kernel, by decide +kernel, by decide +kernel, unheld rfl⟩⟩
theorem witness_stash_load : Due (flying (owing .lds 0 .w .gang)) 9 (owing .lds 0 .w .gang) req ∧
    (flying (owing .lds 0 .w .gang)).stashCheck 0 0 4 4 = none ∧ scratch (flying (owing .lds 0 .w .gang)) 0 :=
  ⟨by unfold Due; decide +kernel, by decide +kernel, rfl, fun _ => rfl, fun _ h => nomatch h⟩
theorem witness_division : Due (flying (owing .div 0 .w .gang)) 9 (owing .div 0 .w .gang) req := by unfold Due; decide +kernel

def oddReq : Req := ⟨0, 1, 0, 0⟩
def oddLoad : Access := { loadPlain with reqs := [oddReq] }
theorem witness_load_fault : Due (flying oddLoad) 9 oddLoad oddReq ∧ ((flying oddLoad).gang 0).hmode = false ∧
    (∀ w ∈ (((flying oddLoad).gang 0).lane 0).wins, w.acc = 9) ∧ ((flying oddLoad).grid 0).thandler ≠ 0 ∧ (flying oddLoad).dev.pre.req = false ∧
    (((flying oddLoad).gang 0).lane 0).cond ≠ .exited ∧
    (engineOf oddLoad).checkParts 0 3 1 4 ⟨rR, 4, false, false⟩ = .fail ⟨cMISALIGNED, bref 3 1, 0⟩ :=
  ⟨by unfold Due; decide +kernel, by decide +kernel, by decide +kernel, by decide +kernel, by decide +kernel, by decide +kernel, port_fail (by decide +kernel)⟩

/-! The order of a lane's accesses (R169, R171, R383). -/

theorem test_fence_orders : let o := ((Order.start 3).executed (.fence always 1 .device false true) 1 [0]).resumed [0, 1] 9
    (o.floorOf 0, o.sinceOf 0, o.floorOf 1, o.sinceOf 1) = (9, 9, 3, 3) := by decide +kernel
theorem test_shuffle_carries_no_dependency : let o := { Order.start 3 with stamps := [(regKey 0 5, 7)] }
    (o.executed (.shfl everyLane 6 5 8 .idx false 0) 1 [0]).latest [regKey 0 6] = 0 ∧
    (o.executed (.iadd 7 6 5 8) 1 [0]).latest [regKey 0 6] = 7 ∧ (o.executed (.ld everyLane 9 4 5 0 .w .none 0) 1 [0]).dep = [(0, 7)] := by
  decide +kernel

/-! The stash, ordering, tokens and barriers. -/

/-- Uniform registers set, the slot in hand; the team changed. -/
def withS (r : Tbl Word) (s : State) : State := held (withCtx s fun c => { c with gangs := c.gangs.map fun g => (g.1, { g.2 with s := r }) })
def withTeam (s : State) (f : Team → Team) : State := withCtx s fun c => { c with teams := c.teams.map fun t => (t.1, f t.2) }
/-- A stash with one line of buffer 3 mapped at 0, whose first sector has one dirty byte. -/
def mapped : State := withTeam base fun t => { t with maps := [⟨0, 128, 3, 0, .rw⟩], sectors := [(0, ⟨some 0, 1, false⟩)] }
def holding (k : HoldKind) (s : State) : State :=
  withCtx s fun c => { c with
    gangs := c.gangs.map fun g => (g.1, { g.2 with lanes := g.2.lanes.map fun l => (l.1, { l.2 with hold := some 9 }) })
    holds := [(9, ⟨k, 0, BitVec.allOnes 64, 0, [], none⟩)], nextId := 10 }
/-- A job of the base gang whose token is s16. -/
def job (j : Job) : Work := (⟨0, 0, BitVec.allOnes 64, [], 0, 8, false⟩ : At).work base 16 0 j
def atWork (w : Work) (s : State) : State :=
  withCtx s fun c => { c with gangs := c.gangs.map fun g => (g.1, { g.2 with tokens := [(16, 9)] }), works := [(9, w)], nextId := 10 }

theorem ok_of {α β : Type} {f : α × Machine.Port β} (p : α → β → Bool) (h : (match f.2 with | .ok w => p f.1 w | _ => false) = true) :
    ∃ t w, f = (t, .ok w) ∧ p t w = true := by
  obtain ⟨t, w⟩ := f
  cases w with
  | ok w => exact ⟨t, w, rfl, h⟩
  | _ => exact nomatch h

theorem witness_stmap : let s := withS [(16, 3)] base; let i := Instr.stmap always 16 32 48 1 .rw; let b := begun i issue0 s
    ready i issue0 s = true ∧ b.stmapCheck 0 0 3 0 0 128 .rw = none ∧ b.stashPending b.ctx.nextId 0 0 128 AccKind.stash = false ∧
    b.gridIdOf 0 = 0 := by decide +kernel
theorem witness_stmap_error : let s := withS [(16, 3), (32, 64)] base; let i := Instr.stmap always 16 32 48 1 .rw
    ready i issue0 s = true ∧ ((begun i issue0 s).stmapCheck 0 0 3 64 0 128 .rw).isSome = true := by decide +kernel
theorem witness_stunmap : ready (.stunmap always 16 false) issue0 (withS [] mapped) = true ∧
    ready (.stunmap always 16 false) issue0 (withS [(16, 128)] mapped) = true ∧
    (∃ r ∈ mapped.ctx.teams, ∃ q ∈ r.2.maps, q.so = 0) ∧ ∀ r ∈ mapped.ctx.teams, ∀ q ∈ r.2.maps, q.so ≠ 128 := by decide +kernel
theorem witness_stunmap_completes : let s := holding (.stunmap 0 true) mapped
    (s.gang 0).live = true ∧ ((s.team 0).maps.find? fun r => r.so == 0) = some ⟨0, 128, 3, 0, .rw⟩ ∧ s.stashInUse 9 0 0 128 = false ∧
    s.stashPending 9 0 0 128 AccKind.stash = false := by decide +kernel
theorem witness_stflush : let i := Instr.stflush always 4 0 0 true false; let s := withS [] mapped
    ready i issue0 s = true ∧ (begun i issue0 s).fstash 0 = 16384 ∧
    (((begun i issue0 s).team 0).mappedSectors 0 16384).filter (fun k => (((begun i issue0 s).team 0).sector k).dirty != 0) = [0] := by decide +kernel
theorem witness_stflush_nothing : let i := Instr.stflush always 4 0 0 true false; let s := withS [] base
    ready i issue0 s = true ∧ ((begun i issue0 s).team 0).mappedSectors 0 16384 = [] ∧ s.ctx.accs = [] := by decide +kernel
/-- R134: with INV a fetched sector with no dirty byte is no work for the engine. -/
def cleanMapped : State := withTeam base fun t => { t with maps := [⟨0, 128, 3, 0, .rw⟩], sectors := [(0, ⟨some 0, 0, false⟩)] }
theorem witness_stflush_clean : let i := Instr.stflush always 4 0 0 true true; let s := withS [] cleanMapped; let b := begun i issue0 s
    ready i issue0 s = true ∧ ((b.team 0).mappedSectors 0 16384).filter (fun k => ((b.team 0).sector k).dirty != 0 || ((b.team 0).sector k).expiry.isSome) = [0] ∧
    ((b.team 0).sector 0).dirty = 0 ∧ (Claims.gang issue0 b).live = true ∧ b.ctx.accs = [] := by decide +kernel
theorem witness_stflush_misaligned : ready (.stflush always 4 16 17 false false) issue0 (withS [(16, 64)] base) = true := by decide +kernel

/-- R134: a range that ends above the stash. -/
theorem witness_stflush_bounds : ready (.stflush always 4 16 17 false false) issue0 (withS [(16, 16256), (17, 256)] base) = true ∧
    (begun (.stflush always 4 16 17 false false) issue0 (withS [(16, 16256), (17, 256)] base)).fstash 0 = 16384 := by decide +kernel
theorem witness_sector_goes_home : (mapped.team 0).regionAt (64 * 0) = some ⟨0, 128, 3, 0, .rw⟩ ∧ ((mapped.team 0).sector 0).dirty ≠ 0 ∧
    mapped.milled 3 true = false ∧ mapped.place (mapped.entry 3) 3 0 64 = .ok ⟨0x1010000, 64, 0, 0x10000⟩ ∧
    (∃ t w, mapped.writeBack 0 0 0 0 = (t, .ok w) ∧ (decide (0 < w.wct) && w.err.isNone) = true) :=
  by refine ⟨by decide +kernel, by decide +kernel, by decide +kernel, rfl, ok_of _ ?_⟩; decide +kernel
theorem witness_flush_of_a_sector : let s := atWork (job (.stflush [0] false 0 0 128)) mapped
    s.awaits 9 = false ∧ s.stashPending 9 0 0 64 AccKind.dirties = false ∧ ((s.team 0).sector 0).dirty ≠ 0 ∧
    ∃ u y, ({ s with eng := some 9 } : State).writeBack 0 0 0 0 = (u, .ok y) ∧ (decide (s.now < y.wct) && y.err.isNone) = true :=
  by refine ⟨by decide +kernel, by decide +kernel, by decide +kernel, ok_of _ ?_⟩; decide +kernel
theorem witness_flush_ends : let s := atWork { job (.stflush [] false 1 0 128) with fin := some (0, 1, 0), due := some 0 } base
    s.work? 9 = some { job (.stflush [] false 1 0 128) with fin := some (0, 1, 0), due := some 0 } ∧ 0 ≤ s.now ∧ (s.gang 0).live = true := by decide +kernel

theorem witness_fence : ready (.fence always 1 .cluster true true) issue0 (withS [] mapped) = true ∧
    ready (.sigadd always 16 32 48 true false 0) issue0 (withS [(16, 2)] base) = true ∧
    ready (.sigadd always 16 32 48 true true 1) issue0 (withS [(16, 2)] base) = true ∧
    base.signalCheck 0 2 0 = none ∧ (base.signalCheck 0 2 4).isSome = true := by decide +kernel

def lane1 (id : Nat) (s : State) : Prop := ∃ l, l < 64 ∧ ((s.gang 0).lane l).hold = some id
theorem witness_fence_passes : let s := holding (.fence 1 .team true true) base
    quiet s 0 ∧ (∀ k, (Tbl.get StoreSet.none (s.gang 0).stores k).wct ≤ s.now) ∧ (∀ y ∈ s.ctx.custody, (0, s.gridOf 0) ∉ y.2.users) ∧ lane1 9 s ∧
    ∀ k, (Tbl.get StoreSet.none (s.gang 0).stores k).err = none :=
  ⟨(fun _ h => nomatch h), fun _ => Nat.zero_le _, (fun _ h => nomatch h), ⟨0, by decide, by decide +kernel⟩, fun _ => rfl⟩
/-- R174, R175: an earlier load, a WCT not past, a line in custody, a line on its way home. -/
theorem witness_fence_waits :
    (let s := withCtx (holding (.fence 1 .team false true) base) fun c => { c with accs := [(3, access .load)] };
      lane1 9 s ∧ (3, access .load) ∈ s.ctx.accs ∧ 3 < 9 ∧ (access .load).gang = 0 ∧ (access .load).orphan = false ∧ (access .load).work = none ∧
        bit 1 (access .load).path = true ∧ (access .load).kind.loads = true) ∧
    (let s := withCtx (holding (.fence 1 .team true false) base) fun c => { c with accs := [(3, access .store)] };
      lane1 9 s ∧ (3, access .store) ∈ s.ctx.accs ∧ (access .store).kind.writes = true ∧ s.accSystem (access .store) = false) ∧
    (let s := withCtx (holding (.fence 1 .cluster true false) base) fun c => { c with
        gangs := c.gangs.map fun g => (g.1, { g.2 with stores := [(State.setKey pLSU false, ⟨9, none, false, 0⟩)] }) };
      lane1 9 s ∧ 3 ≤ State.scopeRank .cluster ∧ bit 1 0 = true ∧ s.now < (Tbl.get StoreSet.none (s.gang 0).stores (State.setKey 0 false)).wct) ∧
    (let s := withCtx (holding (.sigadd 1 .device 2 0 1) base) fun c => { c with custody := [(0x20200, ⟨0, 0, true, [(0, 0)]⟩)] };
      lane1 9 s ∧ 4 ≤ State.scopeRank .device ∧ (0, s.gridOf 0) ∈ (⟨0, 0, true, [(0, 0)]⟩ : Custody).users) ∧
    let s := withCtx (holding (.fence 1 .device true false) base) fun c => { c with
      gangs := c.gangs.map fun g => (g.1, { g.2 with stores := [(State.returnKey, ⟨9, none, false, 0⟩)] }) };
    lane1 9 s ∧ s.now < (Tbl.get StoreSet.none (s.gang 0).stores State.returnKey).wct :=
  ⟨⟨⟨0, by decide, by decide +kernel⟩, .head _, by decide +kernel⟩, ⟨⟨0, by decide, by decide +kernel⟩, .head _, by decide +kernel⟩,
    ⟨⟨0, by decide, by decide +kernel⟩, by decide +kernel⟩, ⟨⟨0, by decide, by decide +kernel⟩, by decide +kernel⟩, ⟨0, by decide, by decide +kernel⟩,
    by decide +kernel⟩
theorem witness_sigadd_passes : let s := holding (.sigadd 1 .system 2 0 1) base
    quiet s 0 ∧ (∀ k, (Tbl.get StoreSet.none (s.gang 0).stores k).wct ≤ s.now) ∧ (∀ y ∈ s.ctx.custody, (0, s.gridOf 0) ∉ y.2.users) ∧ lane1 9 s ∧
    ∀ k, (Tbl.get StoreSet.none (s.gang 0).stores k).err = none :=
  ⟨(fun _ h => nomatch h), fun _ => Nat.zero_le _, (fun _ h => nomatch h), ⟨0, by decide, by decide +kernel⟩, fun _ => rfl⟩

def erred : StoreSet := ⟨0, some ⟨0x18, 5, 0⟩, false, 1⟩
def erredFence : State :=
  let s := holding (.fence 1 .team true true) base
  withCtx s fun c => { c with gangs := c.gangs.map fun g => (g.1, { g.2 with stores := [(State.setKey pLSU false, erred)] }) }
theorem witness_deferred_error : quiet erredFence 0 ∧ lane1 9 erredFence ∧
    Tbl.get StoreSet.none (erredFence.gang 0).stores (State.setKey pLSU false) = erred ∧ erred.err = some ⟨0x18, 5, 0⟩ ∧
    (∀ k, (Tbl.get StoreSet.none (erredFence.gang 0).stores k).wct ≤ erredFence.now) ∧ (erredFence.gang 0).hmode = false ∧
    (∀ l, l < 64 → ((erredFence.gang 0).lane l).hold = some 9 → ((erredFence.gang 0).lane l).wins = []) ∧ (erredFence.gang 0).waitTrap = [] ∧ (erredFence.grid (erredFence.gridOf 0)).thandler ≠ 0 ∧ erredFence.dev.pre.req = false := by
  refine ⟨(fun _ h => nomatch h), ⟨0, by decide, by decide +kernel⟩, by decide +kernel, rfl, fun k => ?_, by decide +kernel, by decide +kernel, by decide +kernel,
    by decide +kernel, rfl⟩
  show (Tbl.get StoreSet.none [(State.setKey pLSU false, erred)] k).wct ≤ _
  simp only [Tbl.get, Tbl.find?]
  split <;> exact Nat.zero_le _

/-- The signal word of buffer 2 at offset 0 is 0. -/
def sigwait : Instr := .sigwait always 4 16 32 48 1 3
def sigState (target : Word) : State := withS [(16, 2), (48, target)] base
def sigAccess (a : At) (b : State) : Access := { a.access b .load with handle := 2, wd := .d, pol := .nl, reqs := [⟨64, 0, 0, 0⟩] }
def hostSignal : Entry := parseEntry (entry 0 0x10000 7 0)
theorem data_of {v : State × Served} (bs : List Byte) (p : State → Bool)
    (h : (match v with | (t, .data b) => p t && b == bs | _ => false) = true) : ∃ t, v = (t, .data bs) ∧ p t = true := by
  obtain ⟨t, s⟩ := v
  cases s with
  | data b => simp only [Bool.and_eq_true, beq_iff_eq] at h; exact ⟨t, by rw [h.2], h.1⟩
  | _ => exact nomatch h

theorem witness_sigwait (t : Word) (ht : t = 0 ∨ t = 5) : let s := sigState t; let b := begun sigwait issue0 s
    let x := sigAccess (at' sigwait issue0 s) b
    ready sigwait issue0 s = true ∧ (∀ l ∈ (at' sigwait issue0 s).exec, ((b.gang 0).lane l).wait = .none) ∧
    b.check 0 2 0 8 ⟨rR, 8, false, false⟩ = .ok hostSignal ∧ hostSignal.kind ≠ 5 ∧
    b.earlierOverlap b.ctx.nextId x ⟨64, 0, 0, 0⟩ = false ∧
    ∃ v, b.serveLoad b.ctx.nextId x ⟨64, 0, 0, 0⟩ = (v, .data (List.replicate 8 0)) ∧ decide (v.now = b.now) = true := by
  rcases ht with rfl | rfl <;>
  exact ⟨by decide +kernel, by decide +kernel, by decide +kernel, by decide +kernel, by decide +kernel, data_of _ (fun v => decide (v.now = _)) (by decide +kernel)⟩

/-- R260: SIGWAIT, a long word, stands at the class address of the code buffer. -/
def blockedAt (bs : Memory → Memory) (r : Tbl Word) (w : Wait) : State :=
  withCtx (withDev base fun d => { d with mem := bs d.mem, dtime := 100, cycle := 100 }) fun c =>
    { c with gangs := c.gangs.map fun g => (g.1, { g.2 with s := r, lanes := g.2.lanes.map fun l => (l.1, { l.2 with cond := .blocked, wait := w }) }) }

/-- A gang whose lanes are blocked in the word i at offset 0, uniform registers r and memory m beside the word, at time and cycle 100. -/
def blockedIn (i : Instr) (w : Wait) (r : Tbl Word) : State :=
  withCtx (withDev base fun d => { d with
      mem := d.mem.writeBytes 0x1000000 (i.encode.flatMap fun x => toBytes 4 x.toNat), dtime := 100, cycle := 100 }) fun c =>
    { c with gangs := c.gangs.map fun g => (g.1, { g.2 with
      s := r, lanes := g.2.lanes.map fun l => (l.1, { l.2 with cond := .blocked, wait := w }) }) }

theorem fetched_of {r : State × Fetched} (i : Instr) (p : State → Bool) (h : (match r with | (f, .instr j) => j == i && p f | _ => false) = true) :
    ∃ f, r = (f, .instr i) ∧ p f = true := by
  obtain ⟨f, x⟩ := r
  cases x with
  | instr j => simp only [Bool.and_eq_true, beq_iff_eq] at h; exact ⟨f, by rw [h.1], h.2⟩
  | _ => exact nomatch h

def wholeGang : At := ⟨0, 0, BitVec.allOnes 64, laneList (BitVec.allOnes 64), 0, 8, true⟩
def sigBlocked : State := blockedIn sigwait (.sigwait 100) [(16, 2), (48, 5)]
theorem witness_sigwait_deadline :
    (sigBlocked.gang 0).blockedIn (fun w => match w with | .sigwait d => decide (d ≤ sigBlocked.now) | _ => false) = some (BitVec.allOnes 64, 0) ∧
    (sigBlocked.gang 0).stopped = false ∧
    ∃ f, sigBlocked.fetch 0 0 = (f, .instr sigwait) ∧
      (decide (f.ctx.gangs = sigBlocked.ctx.gangs) && !(f.gang 0).retry && decide (100 ≤ f.now) &&
        (laneList (BitVec.allOnes 64)).all (fun l => ((f.gang 0).lane l).wait == .sigwait 100) &&
        (match f.check 0 2 0 8 ⟨rR, 8, false, false⟩ with | .ok e => e.kind != 5 | _ => false) &&
        f.available 0 sigwait &&
        !f.earlierOverlap f.ctx.nextId (sigAccess wholeGang f) ⟨64, 0, 0, 0⟩ &&
        (match f.serveLoad f.ctx.nextId (sigAccess wholeGang f) ⟨64, 0, 0, 0⟩ with
          | (v, .data bs) => v.now == f.now && bs == List.replicate 8 0 | _ => false)) = true :=
  ⟨by decide +kernel, by decide +kernel, fetched_of _ _ (by decide +kernel)⟩

theorem witness_twait : (let s := held (withGang base fun g => { g with tokens := [(16, 9)] }); ready (.twait 3 16 true) issue0 s = true ∧
      Tbl.mem (Claims.gang issue0 (begun (.twait 3 16 true) issue0 s)).tokens 16 = true) ∧
    (let s := withS [(16, 0x80000005)] base; ready (.twait 3 16 true) issue0 s = true ∧ s.dev.dtime = 0 ∧
      ((Claims.gang issue0 (begun (.twait 3 16 true) issue0 s)).sreg 16).extractLsb' 24 7 = 0) ∧
    (let s := withS [(16, 0x98000005)] base; ready (.twait 3 16 true) issue0 s = true ∧
      ((Claims.gang issue0 (begun (.twait 3 16 true) issue0 s)).sreg 16).extractLsb' 24 7 ≠ 0) := by decide +kernel
theorem witness_nap_expires : let s := blockedIn (.nap always 5) (.nap 100) []
    (s.gang 0).blockedIn (fun w => match w with | .nap d => decide (d ≤ s.now) | _ => false) = some (BitVec.allOnes 64, 0) := by decide +kernel
theorem witness_cpermit : ready (.cpermit 3 16 2) issue0 (withS [(16, 3)] base) = true ∧ quiet (begun (.cpermit 3 16 2) issue0 (withS [(16, 3)] base)) 0 :=
  ⟨by decide +kernel, fun _ h => nomatch h⟩

/-! Barriers: an object of two arrivals at 0 of the stash (R309). -/

def barState (bs : List Byte) (r : Tbl Word) : State :=
  withS r (withCtx base fun c => { c with cores := [(0, { Core.empty with pool := Memory.writeBytes [] 0x100000 bs })] })
def object : List Byte := toBytes 4 (2 + 2 * 2 ^ 12 + 2 ^ 29) ++ List.replicate 12 0
theorem witness_bari : ready (.bari always 16 17 48 .team) issue0 (withS [(48, 4095)] base) = true ∧
    ready (.bari always 16 17 48 .team) issue0 (withS [(48, 4096)] base) = true ∧ base.stashCheck 0 0 16 16 = none ∧ quiet base 0 ∧ scratch base 0 :=
  ⟨by decide +kernel, by decide +kernel, by decide +kernel, (fun _ h => nomatch h), rfl, fun _ => rfl, fun _ h => nomatch h⟩
theorem witness_bara : (∀ n : Fin 4096, n = 1 ∨ n = 2 ∨ n = 3 → ready (.bara always 4 16 17 0 .team n) issue0 (barState object []) = true) ∧
    ready (.bara always 4 16 17 48 .team 0) issue0 (barState object [(48, 2)]) = true ∧ BarObj.parse object = BarObj.parse ((barState object []).stashBytes 0 0 16) ∧
    (BarObj.parse object).init = true ∧ (BarObj.parse object).pending = 2 ∧ (BarObj.parse (List.replicate 16 0)).init = false := by
  refine ⟨?_, by decide +kernel, by decide +kernel, by decide +kernel, by decide +kernel, by decide +kernel⟩
  rintro n (rfl | rfl | rfl) <;> decide +kernel
theorem witness_barw : ready (.barw always 4 16 17 48 .team 1 3) issue0 (barState object [(48, 0)]) = true ∧
    ready (.barw always 4 16 17 48 .team 1 31) issue0 (barState object [(48, 1)]) = true ∧ (BarObj.parse object).phase = 0 := by decide +kernel
def barBlocked : State := blockedIn (.barw always 4 16 17 48 .team 1 3) (.barw (some 100)) []
theorem witness_barw_timeout :
    (barBlocked.gang 0).blockedIn (fun w => match w with | .barw (some d) => decide (d ≤ barBlocked.dev.cycle) | _ => false) = some (BitVec.allOnes 64, 0) ∧
    ∃ f, barBlocked.fetch 0 0 = (f, .instr (.barw always 4 16 17 48 .team 1 3)) ∧
      (decide (f.ctx.gangs = barBlocked.ctx.gangs) && !(f.gang 0).retry && decide (100 ≤ f.dev.cycle) && f.ctx.accs.isEmpty &&
        (f.team 0).maps.isEmpty && (f.team 0).sectors.isEmpty && (f.stashCheck 0 0 16 16).isNone && f.available 0 (.barw always 4 16 17 48 .team 1 3) &&
        (laneList (BitVec.allOnes 64)).all fun l => ((f.gang 0).lane l).wait == .barw (some 100)) = true :=
  ⟨by decide +kernel, fetched_of _ _ (by decide +kernel)⟩
theorem witness_deadlock (owed : Bool) :
    let s := withCtx (withGang base fun g =>
      { eachLane (apart g) fun l => { l with cond := .blocked, wait := .waitm 1 false, wins := if owed then [⟨9, 3⟩] else [] } with
        m := [(1, BitVec.allOnes 64)] })
        fun c => { c with accs := [(9, access .load)] }
    let g := s.gang 0
    s.windowPending 0 (g.waitingAt 1 (g.lane 0).pc) = owed ∧ g.waitTrap = [] ∧ (laneList g.deadlockSet).find? (fun k => (g.lane k).wait == .reconv) = none ∧ (laneList g.deadlockSet).head? = some 0 ∧
    (g.lane 0).wait = .waitm 1 false ∧ g.live = true ∧ g.held = [] ∧ g.hmode = false ∧ (s.grid (s.gridOf 0)).thandler ≠ 0 ∧ s.dev.pre.req = false := by
  cases owed <;> decide +kernel

/-! Triggers: the image at offset 0 of buffer 2 watches the word at 0x100 of buffer 3 and puts 64 bytes. -/

def image (thresh : Nat) : List Byte :=
  toBytes 8 (3 * 2 ^ 52 + 0x100) ++ toBytes 8 thresh ++ toBytes 8 (2 * 2 ^ 52) ++ toBytes 8 (3 * 2 ^ 52 + 0x200) ++ toBytes 4 64 ++ List.replicate 28 0
def imageState (thresh : Nat) : State := withS [(16, 2)] (withDev base fun d => { d with mem := d.mem.writeBytes hostBase (image thresh) })
def trigset : Instr := .trigset always 16 32 48
def plainSignal : Entry := parseEntry (entry 0x10000 0x10000 1 14)
theorem witness_trigset (n : Nat) (hn : n = 0 ∨ n = 1) : let s := imageState n; let b := begun trigset issue0 s
    ready trigset issue0 s = true ∧ b.passesOwn (at' trigset issue0 s) 2 0 64 = false ∧ b.gridIdOf 0 = 0 ∧ Img.malformed (image n) = false ∧ plainSignal.kind = 1 ∧
    (∃ e, b.check 0 2 0 64 ⟨rR, 64, false, false⟩ = .ok e) ∧
    ∃ f img, { b with eng := some (gangAsk 0) }.memRead 0 2 0 64 ⟨rR, 64, false, false⟩ = (f, .ok img) ∧
      (img == image n && (match f.check 0 3 0x100 8 ⟨rR, 8, false, false⟩ with | .ok e => e == plainSignal | _ => false) &&
        f.gridIdOf 0 == 0 && match f.readSignal (3 * 2 ^ 52 + 0x100) with | .ok (_, v) => v == 0 | _ => false) = true := by
  rcases hn with rfl | rfl <;>
  (refine ⟨by decide +kernel, by decide +kernel, by decide +kernel, by decide +kernel, by decide +kernel, ok_check _ (by decide +kernel), ok_of _ ?_⟩; decide +kernel)
theorem witness_trigclr : ready (.trigclr always 4 16 true) issue0 (withS [(16, 1023)] base) = true := by decide +kernel
def dueTrigger : Trigger := { Trigger.idle with image := image 0, state := .armed, due := some 0 }
theorem witness_trigger_fires : let s := withCtx base fun c => { c with triggers := [(5, dueTrigger)] }
    s.trigger 5 = dueTrigger ∧ 0 ≤ s.now ∧ (∀ y ∈ s.ctx.triggers, y.1 < 5 → y.2.due ≠ some 0) ∧ Img.action (image 0) ≠ 2 ∧ Img.rearm (image 0) = 0 ∧
    ∃ src dst n ch sig left adds, s.triggerJob dueTrigger = .ok (0x060, .xfer .put src dst n ch sig left adds) ∧ n = 64 :=
  ⟨by decide +kernel, by decide +kernel, by decide +kernel, by decide +kernel, by decide +kernel, ⟨false, 2, 0⟩, ⟨false, 3, 0x200⟩, _, 4096, none, [0], [],
    by decide +kernel, rfl⟩

/-! Launches by device code, tiles, and the start of engine work. Buffer 5 is a split buffer. -/

def splitEntry : List Byte := patch (entry 0x30000 0x10000 2 14) 24 (toBytes 8 (3 * 2 ^ 52))
def bigRecord : List Byte := patch record 0x1A [64]
def engineState (r : Tbl Word) : State :=
  withS r (withCtx (withDev base fun d => { d with mem := d.mem.writeBytes 160 splitEntry }) fun c => { c with grids := [(0, { grid with record := bigRecord })] })
def wordsOf (first : Nat) (bs : List Byte) : Tbl Word :=
  (List.range (bs.length / 4)).map fun k => (first + k, BitVec.ofNat 32 (numAt bs (4 * k) 4))

theorem witness_spawn : let s := withS (wordsOf 16 record) base; let i := Instr.spawn always 16; let b := begun i issue0 s
    ready i issue0 s = true ∧ Rec.depth (b.recordOf 0) = 0 ∧
    ((List.range 16).flatMap fun m => toBytes 4 ((b.gang 0).sreg (16 + m)).toNat) = record ∧ b.recordCheck 0 (Rec.withDepth record 1) false = none := by decide +kernel
theorem witness_spawn_depth : let s := withS (wordsOf 16 record) (withCtx base fun c => { c with grids := [(0, { grid with record := Rec.withDepth record 7 })] })
    ready (.spawn always 16) issue0 s = true ∧ Rec.depth (s.recordOf 0) = 7 := by decide +kernel
/-- The record lies in buffer 2, or in buffer 3 of device 2, which buffer 10 names and which has answered. -/
def timeat : Instr := .timeat always 32 48
def timeatState (depth : Nat) : State := withS [(33, 2 * 2 ^ 20)] (withCtx (withDev base fun d => { d with mem := d.mem.writeBytes hostBase record })
  fun c => { c with grids := [(0, { grid with record := Rec.withDepth record depth })] })
def recordAccess (a : At) (b : State) : Access := { a.access b .sld with handle := 2, pol := .none, reqs := [⟨64, 0, 0, 0⟩] }
def timeatAway : State :=
  withS [(33, 10 * 2 ^ 20)] (withCtx (withDev base fun d => { d with mem := d.mem.writeBytes 320 (patch (entry 0 0x10000 5 0) 24 (toBytes 8 (2 + 3 * 2 ^ 16))) })
    fun c => { c with replies := [(gangAsk 0, [⟨2, 3, 0, 64, 0, true, record, 0, 0, 0, 0⟩])] })
theorem witness_timeat : let s := timeatState 0; let b := begun timeat issue0 s; let a := at' timeat issue0 s
    ready timeat issue0 s = true ∧ b.passesOwn a 2 0 64 = false ∧ (b.gang 0).spair 32 = 2 * 2 ^ 52 ∧ (b.entry 2).kind = 7 ∧ record.length = 64 ∧
    ∃ f, { b with eng := some (gangAsk 0) }.serveRange b.ctx.nextId (recordAccess a b) ⟨64, 0, 0, 0⟩ 64 8 = (f, .data record) ∧
      (Rec.depth (f.recordOf 0) == 0 && (f.recordCheck (f.gridIdOf 0) (Rec.withDepth (patch record 0x38 (toBytes 8 0)) 1) false).isNone) = true :=
  ⟨by decide +kernel, by decide +kernel, by decide +kernel, by decide +kernel, by decide +kernel,
    data_of record (fun f => Rec.depth (f.recordOf 0) == 0 && (f.recordCheck (f.gridIdOf 0) (Rec.withDepth (patch record 0x38 (toBytes 8 0)) 1) false).isNone)
      (by decide +kernel)⟩
theorem witness_timeat_away : let s := timeatAway; let b := begun timeat issue0 s; let a := at' timeat issue0 s
    ready timeat issue0 s = true ∧ b.passesOwn a 10 0 64 = false ∧ (b.entry 10).kind = 5 ∧ b.remoteCopy 0 0 (b.entry 10).data 0 64 = none ∧
    ∃ f r, { b with eng := some (gangAsk 0) }.memRead 0 10 0 64 ⟨rR, 8, false, false⟩ = (f, .ok r) ∧
      (r == record && Rec.depth (f.recordOf 0) == 0 && (f.recordCheck (f.gridIdOf 0) (Rec.withDepth (patch record 0x38 (toBytes 8 0)) 1) false).isNone) = true := by
  refine ⟨by decide +kernel, by decide +kernel, by decide +kernel, by decide +kernel, ok_of _ ?_⟩; decide +kernel
theorem witness_timeat_depth : let s := timeatState 7; let b := begun timeat issue0 s; let a := at' timeat issue0 s
    ready timeat issue0 s = true ∧ b.passesOwn a 2 0 64 = false ∧ (b.entry 2).kind = 7 ∧
    ∃ f, { b with eng := some (gangAsk 0) }.serveRange b.ctx.nextId (recordAccess a b) ⟨64, 0, 0, 0⟩ 64 8 = (f, .data record) ∧
      (Rec.depth (f.recordOf 0) == 7) = true :=
  ⟨by decide +kernel, by decide +kernel, by decide +kernel, data_of record (fun f => Rec.depth (f.recordOf 0) == 7) (by decide +kernel)⟩
theorem witness_spawn_enters : let s := holding (.spawn record) base
    lane1 9 s ∧ quiet s 0 ∧ (∀ k, (Tbl.get StoreSet.none (s.gang 0).stores k).wct ≤ s.now) ∧ (∀ k, (Tbl.get StoreSet.none (s.gang 0).stores k).err = none) ∧
    (∀ y ∈ s.ctx.custody, (0, s.gridOf 0) ∉ y.2.users) ∧ Rec.release record ≤ s.now ∧ 0 < s.openEntries ∧ Tbl.find? s.ctx.grids 1 = none ∧
    ∀ j, j < 1 → (Tbl.find? s.ctx.grids j).isSome = true :=
  ⟨⟨0, by decide, by decide +kernel⟩, (fun _ h => nomatch h), fun _ => Nat.zero_le _, fun _ => rfl, (fun _ h => nomatch h), by decide +kernel,
    by decide +kernel, by decide +kernel, by decide +kernel⟩
theorem witness_iqfill : ready (.iqfill always 4 16 48 true) issue0 (withS [(48, 3)] base) = true ∧
    ready (.iqfill always 4 16 48 false) issue0 (withS [(48, 3)] base) = true ∧ base.stashCheck 0 0 12 4 = none ∧ quiet base 0 ∧ scratch base 0 ∧
    Tbl.find? base.ctx.replies (gangAsk 0) = none ∧ base.eng = none :=
  ⟨by decide +kernel, by decide +kernel, by decide +kernel, (fun _ h => nomatch h), ⟨rfl, fun _ => rfl, fun _ h => nomatch h⟩, rfl, rfl⟩

theorem witness_tiles : ready (.czero always 3) issue0 (withS [] base) = true ∧ ready (.cstat always 4 3 true) issue0 (withS [] base) = true ∧
    base.tileBusy base.ctx.nextId 0 3 = false := by decide +kernel
theorem witness_quantizers : let s := engineState [(16, 5), (33, 512)]
    (∀ i ∈ [Instr.qscale always 4 16 32 48 true, .qsplit always 4 16 32 true, .qdeq always 4 16 32 2 true], ready i issue0 s = true) ∧
    s.quantCheck 0 0 5 0 512 2 (some 0) = none ∧ s.quantCheck 0 0 5 0 512 2 none = none := by decide +kernel
theorem witness_accumulator_words : let s := engineState [(32, 256)]
    ready (.cld always 4 16 32 1 false) issue0 s = true ∧ ready (.cst always 4 16 32 1 false true) issue0 s = true ∧ s.accCheck 0 0 256 4 = none := by
  decide +kernel

/-- The step block of buffer 5 with itself, p' as stored. -/
def stepBlock : List Word := [5 + 5 * 2 ^ 12, 0, 0, 0, 0, 0, 0, 0]
def stepRegs : Tbl Word := (16, 5 + 5 * 2 ^ 12) :: []
def openSlot : Slot := { Slot.free with state := .opened, owner := 0, step := ⟨stepBlock, none⟩, moutIssued := true }
def slotState (x : Slot) : State := withCtx (engineState stepRegs) fun c => { c with cores := [(0, { Core.empty with slots := [(1, x)] })] }
theorem witness_halves : let i := Instr.mmb always 4 16 0 1 true false; let j := Instr.mout always 4 16 0 1 false
    ready i issue0 (engineState stepRegs) = true ∧ ready j issue0 (engineState stepRegs) = true ∧ (engineState stepRegs).stepCheck 0 stepBlock = none ∧
    ready i issue0 (slotState openSlot) = true ∧ (slotState openSlot).stepCheck 0 stepBlock = none ∧ openSlot.mmbIssued = false ∧
    ((List.range 8).map fun n => (Claims.gang issue0 (begun i issue0 (slotState openSlot))).sreg (16 + n)) = stepBlock ∧
    (engineState stepRegs).gleanerFull 0 = false := by decide +kernel
theorem witness_join : ready (.mjoin always 4 1 3) issue0 (slotState openSlot) = true ∧ ((slotState openSlot).slot 0 1).state = .opened ∧
    ready (.mjoin always 4 2 3) issue0 (slotState openSlot) = true ∧ ((slotState openSlot).slot 0 2).state = .free := by decide +kernel
theorem witness_loop : let s := engineState stepRegs
    ready (.mloop always 4 16 32 0 3 0 true false) issue0 s = true ∧ s.loopCheck 0 0 stepBlock (State.parseLoop [0, 0, 0, 0]) = none := by decide +kernel

theorem witness_cpy : let s := withS [(16, 8), (17, 3)] base; let i := Instr.cpy always 4 16; let b := begun i issue0 s
    ready i issue0 s = true ∧ b.walkCheck 0 0 (parseWalk ((List.range 16).map fun k => (b.gang 0).sreg (16 + k))) = none ∧
    b.countWorks (fun w => w.op10 == 0x040 && w.core / 8 == 0) < 16 := by decide +kernel
theorem witness_gleaner_words : let s := withS [(16, 3), (19, 8), (33, 4), (49, 4)] base
    (∀ i ∈ [Instr.gath always 4 16 32 50 .w, .scat always 4 16 32 50 .w .add, .sinter always 4 16 32 48 true], ready i issue0 s = true) ∧
    s.gatherCheck 0 0 4 0 4 = none ∧ s.sinterCheck 0 0 3 0 8 0 4 0 4 true = none ∧ s.gleanerFull 0 = false := by decide +kernel
theorem witness_mill_words : let s := withS [(16, 3), (18, 4)] milledBase
    (∀ i ∈ [Instr.millld always 4 16 32 2 5, .millstat always 4 16 32 2 true, .millbind always 4 18 2 true true], ready i issue0 s = true) ∧
    (s.check 0 3 0 1280 ⟨rR, 128, false, false⟩).toBool = true ∧ (s.check 0 3 0 64 ⟨rW, 64, false, false⟩).toBool = true ∧ s.ownCheck 0 4 = none := by
  decide +kernel

/-- R187, R195 to R197, R201, R111, R115, R116, R263: words whose checks fail. -/
theorem witness_engine_words_fail : let s := withS [(16, 3)] base
    (∀ i ∈ [Instr.cpy always 4 16, .gath always 4 16 32 50 .w, .scat always 4 16 32 50 .w .add, .sinter always 4 16 32 48 true, .mdec always 4 16 32 48 0 true,
      .millld always 4 16 32 2 5, .millstat always 4 16 32 2 true, .millbind always 4 18 2 true true, .mcst always 4 16 32 3], ready i issue0 s = true) ∧
    (s.walkCheck 0 0 (parseWalk (List.replicate 16 0))).isSome = true ∧ (s.gatherCheck 0 1 4 0 4).isSome = true ∧ (s.sinterCheck 0 0 0 0 8 0 4 0 4 true).isSome = true ∧
    (match (s.mdecCheck 0 2 32 0 64).2 with | .fail _ => true | _ => false) = true ∧ (s.check 0 3 0x10000 1280 ⟨rR, 128, false, false⟩).toBool = false ∧
    (s.check 0 3 0x10000 64 ⟨rW, 64, false, false⟩).toBool = false ∧ (s.ownCheck 0 4096).isSome = true ∧ (s.check 0 2 0 64 ⟨rW ||| rMCST, 4, false, false⟩).toBool = true := by
  decide +kernel

/-- R200: a session of codec 1, 16 by 16 samples, whose reference store is buffer 6. -/
def sessionBytes (refh : Nat) : List Byte :=
  toBytes 4 1 ++ toBytes 2 16 ++ toBytes 2 16 ++ toBytes 4 2 ++ toBytes 4 refh ++ toBytes 8 0 ++ toBytes 8 (10 * 64 * 64 * 3 + 2097152) ++ List.replicate 96 0
theorem witness_mdec : let s := withS [(16, 2), (49, 64)] (withDev base fun d => { d with mem := d.mem.writeBytes hostBase (sessionBytes 6) })
    (∀ i ∈ [Instr.mdec always 4 16 32 48 0 true, .mdec always 4 16 32 48 3 false], ready i issue0 s = true) ∧
    s.decoderBusy 0 = false ∧ s.decoderBusy 3 = false ∧
    ∃ f d, { begun (.mdec always 4 16 32 48 0 true) issue0 s with eng := some (gangAsk 0) }.mdecCheck 0 2 0 0 64 = (f, .ok d) ∧ (!d.bad) = true := by
  refine ⟨by decide +kernel, by decide +kernel, by decide +kernel, ok_of _ ?_⟩; decide +kernel

def circleState (r : Tbl Word) : State := withS r (withCtx base fun c => { c with circles := [(3, { Circle.free with state := .active, index := 0, incarn := 1 })] })
theorem witness_fabric_words : let r : Tbl Word := [(16, 2), (18, 3), (32, 64)]; let s := circleState r
    (∀ i ∈ [Instr.put always 4 16 32 0 false false 0, .get always 4 16 32 0 true false 3, .putred always 4 16 32 0 .add false false 1 true false 0,
      .putred always 4 16 32 0 .add false false 0 false true 3, .putred always 4 16 32 0 .add false false 0 false true 4], ready i issue0 s = true) ∧
    s.srcCheck 0 0 ⟨false, 2, 0⟩ 64 false = none ∧ s.dstCheck 0 0 ⟨false, 3, 0⟩ 64 false = none ∧ countCheck 64 4 false = none ∧ countCheck 64 4 true = none ∧
    s.srcCheck 0 0 ⟨false, 2, 0⟩ 64 true = none ∧ s.dstCheck 0 0 ⟨true, 0, 0⟩ 64 true = none ∧ s.srcCheck 0 0 ⟨true, 0, 0⟩ 64 false = none ∧
    s.redCheck 0 ⟨false, 3, 0⟩ 64 4 .add false = none ∧ s.redCheck 0 ⟨false, 3, 0⟩ 64 4 .add true = none ∧
    (s.circle 3).state = .active ∧ (s.circle 4).state ≠ .active := by decide +kernel
theorem witness_fabric_words_of_nothing : ready (.put always 4 16 32 0 false false 0) issue0 (withS [(16, 2), (18, 3)] base) = true ∧
    base.srcCheck 0 0 ⟨false, 2, 0⟩ 0 false = none ∧ base.dstCheck 0 0 ⟨false, 3, 0⟩ 0 false = none ∧ countCheck 0 4 false = none := by decide +kernel
theorem witness_fabric_word_fails : ready (.put always 4 16 32 0 false false 0) issue0 (withS [(16, 2), (18, 3), (32, 2)] base) = true ∧
    (countCheck 2 4 false).isSome = true := by decide +kernel
theorem witness_mcst : let s := circleState [(16, 3), (33, 64)]
    ready (.mcst always 4 16 32 3) issue0 s = true ∧ ready (.mcst always 4 16 32 4) issue0 s = true ∧
    (match s.check 0 3 0 64 ⟨rW ||| rMCST, 4, false, false⟩ with | .ok e => e.kind == 1 | _ => false) = true ∧ s.stashCheck 0 0 64 4 = none := by decide +kernel

/-! Jobs of engines. Buffer 2, host memory, holds 7 and 9 in its first words, buffer 3 is plain. -/

theorem working_of {s : State} {id : Nat} {w : Work} (h : (s.work? id == some w && !s.workHeld id w && (s.gang w.gang).live && !w.orphan &&
    w.due.isNone && s.ctx.accs.isEmpty && w.parts.isEmpty) = true) : Working s id w := by
  simp only [Bool.and_eq_true, beq_iff_eq, Bool.not_eq_true', Option.isNone_iff_eq_none, List.isEmpty_iff] at h
  exact ⟨h.1.1.1.1.1.1, h.1.1.1.1.1.2, h.1.1.1.1.2, h.1.1.1.2, h.1.1.2, (fun y hy => by rw [h.1.2] at hy; exact nomatch hy), h.2⟩

/-- The bytes of host memory are read as they stand, from a buffer that no graph stands before. -/
def homeBytes (s : State) (gid h off n : Nat) (q : Need) (bs : List Byte) : Bool :=
  bs.length == n && (s.ctx.redHold.isEmpty && s.ctx.custody.isEmpty && s.dev.past.isEmpty) && match s.check gid h off n q with
  | .ok e => e.kind == 7 && !e.milled false && (match s.rangePieces e h off n with
    | .ok ps => (match s.readPieces h ps off true with
      | .ok (b, bad) => bad.isNone && b == bs
      | _ => false)
    | _ => false)
  | _ => false

theorem rangePieces_host {s u : State} {e : Entry} (hk : e.kind = 7) (hs : s.ctx.redHold = [] ∧ s.ctx.custody = []) (hu : u.ctx.redHold = [] ∧ u.ctx.custody = [])
    (h off n : Nat) : u.rangePieces e h off n = s.rangePieces e h off n := by
  have place : ∀ (v : State) (a b : Nat), v.place e h a b = .ok ⟨hostBase + (e.base + a), b, 0, e.base + a⟩ := fun v a b => by simp [State.place, hk]
  simp only [State.rangePieces, State.placeAll, place]
  cases (cutParts e (n / 256 + 2) off n).foldr (fun p acc => ((Machine.Port.ok _).map ([·])).both acc) (Machine.Port.ok []) <;>
    simp [Port.bind, State.roomFor, State.atHome, hs.1, hs.2, hu.1, hu.2]

theorem engAged_nil (s : State) (loc : Nat) (bs : List Byte) : s.engAged [] loc bs = bs := by
  unfold State.engAged; split <;> simp

def busy (s : State) (id : Nat) (c : Tbl Core) (o : List StashPast) (p : List Past) (l : Tbl (List Nat)) : State :=
  { s with eng := some id, dev := { s.dev with tlb := l }, ctx := { s.ctx with cores := c, stashOld := o, poolPast := p } }

theorem readPieces_busy {s : State} (hp : s.dev.past = []) (id : Nat) (c : Tbl Core) (o : List StashPast) (pp : List Past) (l : Tbl (List Nat)) (h : Nat) (x : Bool) :
    ∀ ps off, (busy s id c o pp l).readPieces h ps off x = s.readPieces h ps off true
  | [], _ => rfl
  | p :: ps, off => by
    have hd : (busy s id c o pp l).dev.past = [] := hp
    have h1 : (busy s id c o pp l).dev.portUp = s.dev.portUp := rfl
    have h2 : (busy s id c o pp l).dev.poisonAt = s.dev.poisonAt := rfl
    have h3 : (busy s id c o pp l).dev.mem = s.dev.mem := rfl
    unfold State.readPieces
    simp only [readPieces_busy hp id c o pp l h x ps, hd, hp, engAged_nil, h1, h2, h3, ite_self]

theorem readsAs_of {s : State} {id gid h off n : Nat} {q : Need} {bs : List Byte} (H : homeBytes s gid h off n q bs = true) :
    ReadsAs s id gid h off n q bs := by
  simp only [homeBytes, Bool.and_eq_true, beq_iff_eq, List.isEmpty_iff] at H
  obtain ⟨⟨hn, ⟨hr, hcu⟩, hp⟩, H⟩ := H
  refine ⟨hn, fun u hu hw => ⟨u.dev.tlb, ?_, hw⟩⟩
  have hu : u = busy s id u.ctx.cores u.ctx.stashOld u.ctx.poolPast u.dev.tlb := hu
  generalize u.ctx.cores = c at hu
  generalize u.ctx.stashOld = o at hu
  generalize u.ctx.poolPast = pp at hu
  generalize u.dev.tlb = l at hu
  subst hu
  show (busy s id c o pp l).memRead gid h off n q = (busy s id c o pp l, .ok bs)
  have hc : (busy s id c o pp l).check gid h off n q = s.check gid h off n q := rfl
  rw [State.memRead, State.rawRead, State.rawReadP, hc]
  cases hk : s.check gid h off n q with
  | error c => rw [hk] at H; exact nomatch H
  | ok e =>
    simp only [hk, Bool.and_eq_true, beq_iff_eq, Bool.not_eq_true'] at H
    obtain ⟨⟨hk, hm⟩, H⟩ := H
    have hq : (busy s id c o pp l).rangePieces e h off n = s.rangePieces e h off n := rangePieces_host (s := s) (u := busy s id c o pp l) hk ⟨hr, hcu⟩ ⟨hr, hcu⟩ h off n
    cases hps : s.rangePieces e h off n with
    | ok ps =>
      rw [hps] at H
      have hr' := readPieces_busy hp id c o pp l h q.atomic ps off
      cases hb : s.readPieces h ps off true with
      | ok x =>
        simp only [hb, Bool.and_eq_true, beq_iff_eq, Option.isNone_iff_eq_none] at H
        obtain ⟨hb1, rfl⟩ := H
        simp [hk, hm, hq, hps, hr', hb, andThen, State.keepLeaves, hb1]
      | error x => simp only [hb] at H; exact nomatch H
    | _ => rw [hps] at H; exact nomatch H

/-- The bytes that another device has answered with. -/
def answered (s : State) (id gid h off n : Nat) (q : Need) (bs : List Byte) : Bool :=
  bs.length == n && match s.check gid h off n q with
  | .ok e => (e.kind == 5 && !e.milled false) && (match (Tbl.get [] s.ctx.replies id).find? fun r => r.dev == e.data % 2 ^ 16 && r.buf == bits e.data 16 12 && r.off == off && r.n == n with
    | some r => (r.done && r.cause == 0) && r.bytes == bs
    | none => false)
  | _ => false

theorem readsAs_remote {s : State} {id gid h off n : Nat} {q : Need} {bs : List Byte} (H : answered s id gid h off n q bs = true) :
    ReadsAs s id gid h off n q bs := by
  simp only [answered, Bool.and_eq_true, beq_iff_eq] at H
  obtain ⟨hn, H⟩ := H
  refine ⟨hn, fun u hu hw => ⟨u.dev.tlb, ?_, hw⟩⟩
  have hu : u = busy s id u.ctx.cores u.ctx.stashOld u.ctx.poolPast u.dev.tlb := hu
  generalize u.ctx.cores = c at hu
  generalize u.ctx.stashOld = o at hu
  generalize u.ctx.poolPast = pp at hu
  generalize u.dev.tlb = l at hu
  subst hu
  show (busy s id c o pp l).memRead gid h off n q = (busy s id c o pp l, .ok bs)
  have hc : (busy s id c o pp l).check gid h off n q = s.check gid h off n q := rfl
  have he : (busy s id c o pp l).eng = some id := rfl
  have hr : (busy s id c o pp l).ctx.replies = s.ctx.replies := rfl
  rw [State.memRead, State.rawRead, State.rawReadP, hc]
  cases hk : s.check gid h off n q with
  | error c => rw [hk] at H; exact nomatch H
  | ok e =>
    simp only [hk, Bool.and_eq_true, beq_iff_eq, Bool.not_eq_true'] at H
    obtain ⟨⟨hk, hm⟩, H⟩ := H
    simp only [hk, hm, State.remoteRead, State.remoteAnswer, he, hr, Option.bind_some]
    split at H
    · rename_i r hf
      simp only [Bool.and_eq_true, beq_iff_eq] at H
      obtain ⟨⟨hd, h0⟩, rfl⟩ := H
      simp only [Nat.reducePow] at hf
      simp [hf, hd, h0, Port.map, Port.bind, andThen]
    · exact nomatch H

def stillWorking (id : Nat) (w : Work) (u : State) (_ : Unit) : Bool :=
  match u.work? id with
  | some x => !u.workHeld id x && (u.gang x.gang).live && !x.orphan && x.due.isNone && u.ctx.accs.isEmpty && x.parts.isEmpty &&
      decide (x = { w with stores := x.stores, errs := x.errs })
  | none => false
theorem wrote_of {f : State × Machine.Port Unit} {id : Nat} {w : Work} (H : ∃ u v, f = (u, .ok v) ∧ stillWorking id w u v = true) :
    ∃ u, f = (u, .ok ()) ∧ ∃ w', Working u id w' ∧ w' = { w with stores := w'.stores, errs := w'.errs } := by
  obtain ⟨u, v, hu, h⟩ := H
  refine ⟨u, hu, ?_⟩
  unfold stillWorking at h
  cases hw : u.work? id with
  | none => rw [hw] at h; exact nomatch h
  | some x =>
    simp only [hw, Bool.and_eq_true, decide_eq_true_eq] at h
    exact ⟨x, working_of (by simp [hw, h.1]), h.2⟩

def jobState (j : Job) : State :=
  atWork (job j) (withDev base fun d => { d with mem := d.mem.writeBytes hostBase (toBytes 4 7 ++ toBytes 4 9) })

def stashHas (bs : List Byte) (s : State) : State := withCtx s fun c => { c with cores := [(0, { Core.empty with pool := Memory.writeBytes [] 0x100000 bs })] }

/-- Indices 1 and, all ones, none. -/
def indexed (j : Job) : State := stashHas (toBytes 4 1 ++ toBytes 4 0xFFFFFFFF) (jobState j)
def gather : Job := .gath 2 0 0 2 64 .w 0 0
theorem witness_gath : Working (indexed gather) 9 (job gather) ∧ scratch (indexed gather) 0 ∧ Stands (indexed gather) (job gather) 0 0 8 ∧
    ofBytes ((indexed gather).stashBytes 0 0 4) = 1 ∧ ofBytes ((indexed gather).stashBytes 0 4 4) = 0xFFFFFFFF ∧
    ReadsAs (indexed gather) 9 0 2 4 4 ⟨rR, State.elemAlign 4, false, false⟩ (toBytes 4 9) :=
  ⟨working_of (by decide +kernel), ⟨rfl, fun _ => rfl, fun _ h => nomatch h⟩, (fun _ h => nomatch h), by decide +kernel, by decide +kernel,
    readsAs_of (by decide +kernel)⟩

theorem placed_of {s : State} {id h off n : Nat} {e : Entry} {p : Piece} (hw : cutParts e 4 off n = [(off, n)]) (hp : s.place e h off n = .ok p)
    (H : (decide (p.loc / 128 = (p.loc + n - 1) / 128) && s.dev.portUp p.loc && !s.dev.lostAt p.loc && !s.dev.isPoisoned p.loc n && s.ctx.redHold.isEmpty) = true) :
    Placed s id h off n e p := by
  simp only [Bool.and_eq_true, decide_eq_true_eq, Bool.not_eq_true'] at H
  exact ⟨hw, hp, H.1.1.1.1, H.1.1.1.2, H.1.1.2, H.1.2, unheld (List.isEmpty_iff.mp H.2)⟩

def scatter (n : Nat) (op : ScatOp) : Job := .scat 2 0 0 n 64 .w op 0 0
theorem witness_scat : Working (indexed (scatter 1 .st)) 9 (job (scatter 1 .st)) ∧ scratch (indexed (scatter 1 .st)) 0 ∧
    Stands (indexed (scatter 1 .st)) (job (scatter 1 .st)) 0 0 4 ∧ Stands (indexed (scatter 1 .st)) (job (scatter 1 .st)) 0 64 4 ∧
    9 ∉ (indexed (scatter 1 .st)).ctx.redHold ∧
    ({ indexed (scatter 1 .st) with eng := some 9 } : State).check 0 2 4 4 ⟨rW, State.elemAlign 4, false, false⟩ = .ok hostEntry ∧ hostEntry.kind = 7 ∧
    ({ indexed (scatter 1 .st) with eng := some 9 } : State).milled 2 true = false ∧
    Placed { indexed (scatter 1 .st) with eng := some 9 } 9 2 4 4 hostEntry ⟨hostBase + 4, 4, 0, 4⟩ ∧
    Tbl.mem (indexed (scatter 1 .st)).ctx.custody ((hostBase + 4) / 128) = false :=
  ⟨working_of (by decide +kernel), ⟨rfl, fun _ => rfl, fun _ h => nomatch h⟩, (fun _ h => nomatch h), (fun _ h => nomatch h), by decide +kernel,
    by decide +kernel, by decide +kernel, by decide +kernel, placed_of (by decide +kernel) rfl (by decide +kernel), by decide +kernel⟩
theorem witness_reducing_scat : Working (indexed (scatter 2 .add)) 9 (job (scatter 2 .add)) ∧ scratch (indexed (scatter 2 .add)) 0 ∧
    Stands (indexed (scatter 2 .add)) (job (scatter 2 .add)) 0 0 8 ∧ Stands (indexed (scatter 2 .add)) (job (scatter 2 .add)) 0 64 8 ∧
    ((List.range 2).filter fun i => ofBytes ((indexed (scatter 2 .add)).stashBytes 0 (4 * i) 4) != 0xFFFFFFFF) = [0] ∧
    ({ indexed (scatter 2 .add) with eng := some 9 } : State).atomCheck 0 2 4 4 .add = none ∧
    ({ indexed (scatter 2 .add) with eng := some 9 } : State).place (({ indexed (scatter 2 .add) with eng := some 9 } : State).entry 2) 2 4 4 =
      .ok ⟨hostBase + 4, 4, 0, 4⟩ :=
  ⟨working_of (by decide +kernel), ⟨rfl, fun _ => rfl, fun _ h => nomatch h⟩, (fun _ h => nomatch h), (fun _ h => nomatch h), by decide +kernel,
    by decide +kernel, rfl⟩
def intersect : Job := .sinter 2 0 0 4 0 2 4 1 true 0 0 0
theorem witness_sinter : Working (jobState intersect) 9 (job intersect) ∧ scratch (jobState intersect) 0 ∧ [7, 9].Pairwise (· < ·) ∧
    (∀ x ∈ [7, 9], x ∈ [7, 9].take 0 ↔ x ∈ [7, 9].take 0) ∧
    ∀ i x, [7, 9][i]? = some x → x < 2 ^ 32 ∧ ReadsAs (jobState intersect) 9 0 2 (4 * i) 4 ⟨rR, 4, false, false⟩ (toBytes 4 x) := by
  refine ⟨working_of (by decide +kernel), ⟨rfl, fun _ => rfl, fun _ h => nomatch h⟩, by decide, fun _ _ => Iff.rfl, fun i x h => ?_⟩
  match i with
  | 0 => simp at h; subst h; exact ⟨by decide, readsAs_of (by decide +kernel)⟩
  | 1 => simp at h; subst h; exact ⟨by decide, readsAs_of (by decide +kernel)⟩
  | i + 2 => simp at h

/-- R186: a walk of two tiles of 8 bytes from buffer 2 to the stash, with permits. -/
def walk : List Word := [4 + 2 ^ 5, 2, 0, 0, 3, 2 ^ 16, 0, 0, 0, 0, 0, 8, 0, 0, 0, 0]
def walked (j : Job) : State := withTeam (jobState j) fun t => { t with permits := [(0, 1)] }
theorem witness_tile_start : let j := Job.carter walk 0 [] 0 false
    Working (walked j) 9 (job j) ∧ 0 < (parseWalk walk).ext 3 ∧ (parseWalk walk).bar = false ∧ (parseWalk walk).permit = true ∧
    (walked j).walkTeams (job j) (parseWalk walk) = ([0], false) ∧ 1 ≤ Tbl.get 0 ((walked j).team 0).permits (parseWalk walk).pctr :=
  ⟨working_of (by decide +kernel), by decide +kernel, by decide +kernel, by decide +kernel, by decide +kernel, by decide +kernel⟩
/-- The last element that a tile has left is the part that is moved, whatever the Carter's order. -/
def lastRow : TileRow := ⟨3, 6, 6, 2⟩
theorem takes_last (s : State) : s.tileTake (parseWalk walk) [lastRow] = ([lastRow], []) := by
  have he : (parseWalk walk).e = 2 := by decide +kernel
  have h1 : ∀ i n, n = 1 → s.pickFor 27 i n = 0 := fun _ _ h => h ▸ Nat.mod_one _
  have h2 : s.pickFor 27 0 2 < 2 := Nat.mod_lt _ (by decide)
  unfold State.tileTake
  simp only [he, lastRow, List.length_cons, List.length_nil, Nat.zero_add, Nat.reduceAdd]
  split
  · rfl
  · generalize s.pickFor 27 0 2 = k at h2
    match k, h2 with
    | 0, _ => rfl
    | 1, _ => simp [h1]
theorem witness_tile_end (next : Nat) (hn : next = 1 ∨ next = 2) : let j := Job.carter walk next [⟨0, [0], none, 0, [lastRow]⟩] 0 false
    Working (walked j) 9 (job j) ∧ (parseWalk walk).dir = 0 ∧ (parseWalk walk).bar = false ∧ (parseWalk walk).ext 3 = 2 ∧ (walked j).fstash 0 = 16384 ∧
    scratch (walked j) 0 ∧ (walked j).tileTake (parseWalk walk) [lastRow] = ([lastRow], []) ∧
    ReadsAs ((walked j).modWork 9 fun w => { w with born := 0 }) 9 0 2 6 2 needR (toBytes 2 0) := by
  rcases hn with rfl | rfl <;>
  exact ⟨working_of (by decide +kernel), by decide +kernel, by decide +kernel, by decide +kernel, by decide +kernel, ⟨rfl, fun _ => rfl, fun _ h => nomatch h⟩,
    takes_last _, readsAs_of (by decide +kernel)⟩
/-- A walk from buffer 10, of device 2, moves one row after another: of two it leaves the second. -/
theorem witness_tile_part : let w := walk.set 1 10; let j := Job.carter w 1 [⟨0, [0], none, 0, [⟨0, 0, 0, 8⟩, ⟨8, 8, 8, 8⟩]⟩] 0 false
    let s := withCtx (withDev (walked j) fun d => { d with mem := d.mem.writeBytes 320 (patch (entry 0 0x10000 5 0) 24 (toBytes 8 (2 + 3 * 2 ^ 16))) }) fun c =>
      { c with replies := [(9, [⟨2, 3, 0, 8, 0, true, toBytes 8 5, 0, 0, 0, 0⟩])] }
    Working s 9 (job j) ∧ (parseWalk w).dir = 0 ∧ (parseWalk w).memh = 10 ∧ s.tileTake (parseWalk w) [⟨0, 0, 0, 8⟩, ⟨8, 8, 8, 8⟩] = ([⟨0, 0, 0, 8⟩], [⟨8, 8, 8, 8⟩]) ∧
    ReadsAs (s.modWork 9 fun w => { w with born := 0 }) 9 0 10 0 8 needR (toBytes 8 5) :=
  ⟨working_of (by decide +kernel), by decide +kernel, by decide +kernel, by decide +kernel, readsAs_remote (by decide +kernel)⟩

/-! Transfers of 8 bytes. -/

def moving (op : XferOp) (dst : Side) : Job := .xfer op ⟨false, 2, 0⟩ dst 8 4096 none [0] []
def sending : Job := moving .put ⟨false, 2, 0x100⟩
def eightBytes : List Byte := toBytes 4 7 ++ toBytes 4 9
theorem witness_put_chunk : Working (jobState sending) 9 (job sending) ∧ (job sending).fin = none ∧
    ReadsAs (jobState sending) 9 0 2 0 8 ⟨rR, 4, false, false⟩ eightBytes ∧
    ∃ u, (({ jobState sending with eng := some 9 } : State).memRead 0 2 0 8 ⟨rR, 4, false, false⟩).1.engWrite 9 (job sending) 2 [(0x100, eightBytes)] 4 = (u, .ok ()) ∧
      ∃ w', Working u 9 w' ∧ w' = { job sending with stores := w'.stores, errs := w'.errs } :=
  ⟨working_of (by decide +kernel), rfl, readsAs_of (by decide +kernel), wrote_of (ok_of (stillWorking 9 (job sending)) (by decide +kernel))⟩
def getting : Job := moving .get ⟨true, 0, 64⟩
def adding : Job := moving (.red .add false) ⟨false, 2, 0x100⟩
theorem witness_get_chunk : Working (jobState getting) 9 (job getting) ∧ scratch (jobState getting) 0 ∧
    ReadsAs (jobState getting) 9 0 2 0 8 ⟨rR, 4, false, false⟩ eightBytes :=
  ⟨working_of (by decide +kernel), ⟨rfl, fun _ => rfl, fun _ h => nomatch h⟩, readsAs_of (by decide +kernel)⟩
theorem witness_putred_chunk : Working (jobState adding) 9 (job adding) ∧ ReadsAs (jobState adding) 9 0 2 0 8 ⟨rR, 4, false, false⟩ eightBytes ∧
    ({ jobState adding with eng := some 9 } : State).redCheck 0 ⟨false, 2, 0x100⟩ 8 4 .add false = none :=
  ⟨working_of (by decide +kernel), readsAs_of (by decide +kernel), by decide +kernel⟩
def signalling : Job := .xfer .put ⟨false, 2, 0⟩ ⟨false, 2, 0x100⟩ 8 4096 (some (2, 0x40)) [] [([], 0, 8)]
theorem witness_signal_of_chunk : Working (jobState signalling) 9 (job signalling) ∧ (job signalling).stores = [] ∧ (job signalling).errs = [] :=
  ⟨working_of (by decide +kernel), rfl, rfl⟩

/-! Mill jobs. -/

def loading : Job := .millld 2 0 2 5
theorem witness_mill_load : Working (jobState loading) 9 (job loading) ∧ ((jobState loading).millSlot 2).draining = none ∧
    (∀ x ∈ (jobState loading).ctx.works, x.1 < 9 → ∀ a b k c, x.2.job = .millld a b k c → k ≠ 2) ∧ imageOk (eightBytes ++ List.replicate 1272 0) = false ∧
    ReadsAs (jobState loading) 9 0 2 0 1280 needR (eightBytes ++ List.replicate 1272 0) :=
  ⟨working_of (by decide +kernel), by decide +kernel, (fun x hx h => by simp [jobState, atWork, withCtx] at hx; subst hx; exact absurd h (by decide)),
    by decide +kernel, readsAs_of (by decide +kernel)⟩
/-- A read graph of one node whose source is the stream (R101, R103). -/
def graph : List Byte := List.replicate 64 0 ++ toBytes 8 (0x28 + 24 * 2 ^ 8 + 28 * 2 ^ 13 + 28 * 2 ^ 18) ++ List.replicate 1208 0
def loadState : State := withDev (jobState loading) fun d => { d with mem := d.mem.writeBytes hostBase graph }
theorem witness_mill_load_of_a_graph : imageOk graph = true ∧ Working loadState 9 (job loading) ∧ (loadState.millSlot 2).gen ≠ some 5 ∧
    ((withCtx loadState fun c => { c with millSlots := [(2, ⟨some 5, [], none, []⟩)] }).millSlot 2).gen = some 5 ∧
    ReadsAs loadState 9 0 2 0 1280 needR graph :=
  ⟨by decide +kernel, working_of (by decide +kernel), by decide +kernel, by decide +kernel, readsAs_of (by decide +kernel)⟩
def binding (un : Bool) : Job := .millbind 4 2 true un
def bindState (un : Bool) : State :=
  withCtx (withDev (jobState (binding un)) fun d => { d with mem := d.mem.writeBytes 128 milledEntry }) fun c =>
    { c with millSlots := [(2, ⟨some 0, patch graph 0 [8], none, []⟩)] }
theorem witness_mill_bind (un : Bool) : let s := bindState un
    Working s 9 (job (binding un)) ∧ s.bindEntry 4 2 true = none ∧ imgMode (s.millSlot 2).image ≠ 1 ∧ imgMode (s.millSlot 2).image ≠ 2 ∧
    s.bindParts 0 4 2 true none = none := by
  cases un <;> exact ⟨working_of (by decide +kernel), by decide +kernel, by decide +kernel, by decide +kernel, by decide +kernel⟩
def sampling : Job := .millstat 2 0x40 2 true
theorem witness_mill_sample : let s := jobState sampling
    Working s 9 (job sampling) ∧ s.ctx.mills = [] ∧
    ∃ u, ({ s with eng := some 9 } : State).engWrite 9 (job sampling) 2 [(0x40, ({ s with eng := some 9 } : State).millRecord 2)] 64 = (u, .ok ()) ∧
      ∃ w', Working u 9 w' ∧ w' = { job sampling with stores := w'.stores, errs := w'.errs } :=
  ⟨working_of (by decide +kernel), rfl, wrote_of (ok_of (stillWorking 9 (job sampling)) (by decide +kernel))⟩
def idleTile : TileCtx := ⟨4, 4, 0, 5, 0, [], none, [], 0, none, .none⟩
theorem witness_tile_abandoned : let s := withCtx (withDev base fun d => { d with dtime := 64000 }) fun c =>
      { c with mills := [(2, { MillPart.zero with ctxs := [idleTile] })] }
    (s.millPart 0 2).ctxs[0]? = some idleTile ∧ idleTile.last + 64000 ≤ s.now ∧ idleTile.waiters = [] ∧ idleTile.left = none ∧ (s.millSlot 2).draining = none := by decide +kernel

/-! Steps and tiles. The descriptor of split buffer 5 is in buffer 3; its parts are host buffers 6, 7 and 8. -/

def desc : List Byte :=
  [2, 0, 0, 4] ++ toBytes 4 0x3F800000 ++ toBytes 4 1 ++ toBytes 4 1 ++ toBytes 2 6 ++ toBytes 2 7 ++ toBytes 2 8 ++ List.replicate 42 0
/-- The entries of a tile at K position 0, all of scale 0 (R35), and the header of a record with no entry (R36). -/
def zeroScales : List Byte := (List.range 64).flatMap fun _ => [0, 0, 0, 1, 0, 2, 0, 3]
def header : List Byte := List.replicate 8 0 ++ [2] ++ List.replicate 7 0
def segment (a : Nat) (bs : List Byte) : Memory := (bs.zipIdx.filter fun x => x.1 != 0).map fun x => (a + x.2, x.1)
def codedMem (kind : Nat) : Memory :=
  segment 32 (toBytes 8 0 ++ toBytes 8 0x10000 ++ toBytes 8 (rR + rX + 2 ^ 8 + 0xFFFF * 2 ^ 16 + 14 * 2 ^ 32 + 0xFF * 2 ^ 40 + 0xFF * 2 ^ 48) ++ toBytes 8 0 ++
    entry 0 0x10000 7 0 ++ entry 0x10000 0x10000 1 14 ++ List.replicate 32 0 ++ splitEntry ++ entry 0x40000 0x10000 kind 0 ++ entry 0x50000 0x10000 kind 0 ++
    entry 0x60000 0x10000 kind 0) ++ segment 0x20000 (toBytes 8 0x30001) ++ segment 0x30000 (toBytes 8 (2 ^ 32 + 3)) ++ segment 0x1010000 desc ++
    segment (hostBase + 0x60000) header
def coded (j : Job) (pool : Memory) : State :=
  withCtx (withDev (jobState j) fun d => { d with mem := codedMem 7, tlb := [(1, [0, 2 ^ 32, 2 ^ 32, 0])] }) fun c =>
    { c with grids := [(0, { grid with record := bigRecord })], cores := [(0, { Core.empty with pool := pool, slots := [(1, Slot.free)] })] }

def bindCoded : State :=
  withCtx (withDev (coded (.millbind 4 2 false false) []) fun d =>
    { d with mem := ((codedMem 7).writeBytes 128 (patch (patch (entry 0 0x10000 3 0) 24 (toBytes 8 5)) 21 [2])).writeBytes 0x1010016 [8] }) fun c =>
    { c with millSlots := [(2, ⟨some 0, patch graph 0 [2], none, []⟩)] }
def bindCodedOk (u : State) (d : Desc) : Bool :=
  (u.bindParts 0 4 2 false (some d)).isNone && decide (u.ctx.millSlots = bindCoded.ctx.millSlots) &&
    stillWorking 9 (job (.millbind 4 2 false false)) u ()
theorem witness_mill_bind_coded : Working bindCoded 9 (job (.millbind 4 2 false false)) ∧ bindCoded.bindEntry 4 2 false = none ∧
    imgMode (bindCoded.millSlot 2).image = 2 ∧
    ∃ u d, ({ bindCoded with eng := some 9 } : State).descOf 0 5 = (u, .ok d) ∧ bindCodedOk u d = true :=
  ⟨working_of (by decide +kernel), by decide +kernel, by decide +kernel, ok_of bindCodedOk (by decide +kernel)⟩

def block : List Word := [5 + 5 * 2 ^ 12, 0, 0, 0, 4096, 0, 4096, 0]
def dense : Job := .mmb ⟨block, none⟩ 1 false
def outs : Job := .mout ⟨block, none⟩ 1

def busyWith (j : Job) (p : Memory) : State := { coded j p with eng := some 9 }
def scalePool : Memory := segment 0x101000 zeroScales
theorem scales_read : scalePool.readBytes 0x101000 512 = zeroScales := by decide +kernel

theorem engStash_scratch {s : State} {w : Work} {team : Nat} (h : scratch s team) (hp : s.ctx.poolPast = []) (so n : Nat) : s.engStash w team so n = (s, .ok (s.stashBytes team so n)) := by
  have hr : ∀ o, (s.team team).regionAt o = none := fun o => by simp [Team.regionAt, h.1]
  have hf : s.stashFetches team so n = [] := by simp [State.stashFetches, hr]
  have ho : ∀ bs : List Byte, s.stashMixed w.gang (pathOf w.op10) team so bs = bs := fun bs => by
    have : (s.ctx.stashOld.filter fun x => x.gang == w.gang && x.team == team && x.path != pathOf w.op10 && !bit x.seen (pathOf w.op10) &&
        decide (x.off < so + bs.length) && decide (so < x.off + x.bytes.length)) = [] := by
      rw [List.filter_eq_nil_iff]; intro x hx; simp [h.2.2 x hx]
    rw [State.stashMixed, this]; rfl
  have hn : ∀ is : List Nat, is.findSome? (fun _ => (none : Option Nat)) = none := fun is => by induction is <;> simp [*]
  simp [State.engStash, State.engStashNow, State.engMixed, State.stashRead, hf, State.stashFetchAll, andThen, h.2.1, hp, engAged_nil, ho, hn]

theorem dense_half {s : State} {w : Work} {b : List Word} {x y : Side'} (h : scratch s w.team) (hp : s.ctx.poolPast = []) (hx : s.operand w (blockA b) false = (s, .ok x))
    (hy : s.operand w (blockB b) false = (s, .ok y)) (hl : s.latched w b = none)
    (bad : (Loaded.allBad ⟨x, [], s.stashBytes w.team x.scale 512⟩).or (Loaded.allBad ⟨y, [], s.stashBytes w.team y.scale 512⟩) = none) :
    ∃ v, s.denseHalf w ⟨b, none⟩ = (s, .ok v) := by
  have e : ∀ (x : Side') (rows : List (List Byte)) (sc : List Byte), Loaded.allBad ⟨x, rows, sc⟩ = Loaded.allBad ⟨x, [], sc⟩ := fun _ _ _ => rfl
  simp only [State.denseHalf, Option.map_none, Option.isSome_none, hx, hy, hl, andThen, State.load, engStash_scratch h hp]
  rw [e x, e y, bad]
  exact ⟨_, rfl⟩

theorem ok_pair {α : Type} [DecidableEq α] {f : State × Machine.Port α} {s : State} {v : α}
    (h : (match f with | (t, .ok w) => decide (t = s) && decide (w = v) | _ => false) = true) : f = (s, .ok v) := by
  obtain ⟨t, r⟩ := f
  cases r with
  | ok w => simp only [Bool.and_eq_true, decide_eq_true_eq] at h; rw [h.1, h.2]
  | _ => exact nomatch h

def side : Side' := ⟨parseDesc desc, 2, 0, 0, 0, 4096⟩
theorem zero_scales_good : Loaded.allBad ⟨side, [], zeroScales⟩ = none := by decide +kernel

theorem dense_of (j : Job) (w : Work) (hs : scratch (busyWith j scalePool) w.team) 
   (hx : (busyWith j scalePool).operand w (blockA block) false = (busyWith j scalePool, .ok side)) (hl : (busyWith j scalePool).latched w block = none) (ht : w.team = 0) :
    ∃ v, (busyWith j scalePool).denseHalf w ⟨block, none⟩ = (busyWith j scalePool, .ok v) := by
  have hb : (busyWith j scalePool).stashBytes w.team side.scale 512 = zeroScales := by rw [ht]; exact scales_read
  exact dense_half hs rfl hx (by exact hx) hl (by rw [hb, zero_scales_good]; rfl)

theorem witness_dense_half : Working (coded dense scalePool) 9 (job dense) ∧ Working (busyWith dense scalePool) 9 (job dense) ∧
    ((coded dense scalePool).team 0).exited = false ∧ ∃ v, (busyWith dense scalePool).denseHalf (job dense) ⟨block, none⟩ = (busyWith dense scalePool, .ok v) :=
  ⟨working_of (by decide +kernel), working_of (by decide +kernel), by decide +kernel,
    dense_of dense (job dense) ⟨rfl, fun _ => rfl, fun _ h => nomatch h⟩ (ok_pair (by decide +kernel)) (by decide +kernel) rfl⟩
theorem witness_outlier_half : Working (coded outs []) 9 (job outs) ∧ Working (busyWith outs []) 9 (job outs) ∧ ((coded outs []).team 0).exited = false ∧
    (busyWith outs []).outHalf (job outs) ⟨block, none⟩ = (busyWith outs [], .ok ([], 0, [none, none])) :=
  ⟨working_of (by decide +kernel), working_of (by decide +kernel), by decide +kernel, ok_pair (by decide +kernel)⟩

def joining : Job := .mjoin 1 3
def doneSlot (e : Option Err) : Slot := { Slot.free with state := .joining, mmbDone := true, moutDone := true, mmbErr := e }
def joinState (e : Option Err) : State := withCtx (jobState joining) fun c => { c with cores := [(0, { Core.empty with slots := [(1, doneSlot e)] })] }
theorem witness_join_merge (e : Option Err) (he : e = none ∨ e = some slotErr) : Working (joinState e) 9 (job joining) ∧ ((joinState e).slot 0 1).mmbDone = true ∧
    ((joinState e).slot 0 1).moutDone = true ∧ (joinState e).tileBusy 9 0 3 = false ∧ ((joinState e).slot 0 1).mmbErr = e := by
  rcases he with rfl | rfl <;> exact ⟨working_of (by decide +kernel), by decide +kernel, by decide +kernel, by decide +kernel, by decide +kernel⟩
def looping (n j : Nat) : Job := .mloop ⟨block, none⟩ [BitVec.ofNat 32 n, 0, 0, 0] 3 0 false j []
theorem witness_loop_ends : Working (jobState (looping 2 2)) 9 (job (looping 2 2)) ∧ (jobState (looping 2 2)).dev.pre.req = false ∧
    (jobState (looping 2 2)).tileBusy 9 0 3 = false ∧
    (State.parseLoop [2, 0, 0, 0]).sync = false ∧ (State.parseLoop [2, 0, 0, 0]).n = 2 :=
  ⟨working_of (by decide +kernel), by decide +kernel, by decide +kernel, by decide +kernel, by decide +kernel⟩
theorem witness_loop_step : let s := coded (looping 1 0) scalePool; let b := busyWith (looping 1 0) scalePool; let w := job (looping 1 0)
    Working s 9 w ∧ s.dev.pre.req = false ∧ s.tileBusy 9 0 3 = false ∧ (State.parseLoop [1, 0, 0, 0]).n = 1 ∧ State.loopBlock block (State.parseLoop [1, 0, 0, 0]) 0 = block ∧
    (let x := State.loopOperands block (State.parseLoop [1, 0, 0, 0]) 0;
      0 ≤ x.1.t ∧ 0 ≤ x.2.t ∧ 0 ≤ x.1.body ∧ x.1.scale = 4096 ∧ 0 ≤ x.2.body ∧ 0 ≤ x.2.scale) ∧ b.work? 9 = some w ∧
    (∃ d, b.denseHalf w ⟨block, none⟩ = (b, .ok d)) ∧ b.outHalf w ⟨block, none⟩ = (b, .ok ([], 0, [none, none])) :=
  ⟨working_of (by decide +kernel), by decide +kernel, by decide +kernel, by decide +kernel, by decide +kernel, by decide +kernel, by decide +kernel,
    dense_of _ _ ⟨rfl, fun _ => rfl, fun _ h => nomatch h⟩ (ok_pair (by decide +kernel)) (by decide +kernel) rfl, ok_pair (by decide +kernel)⟩

theorem stashLines_scratch {s : State} {w : Work} (h : scratch s w.team) (hp : s.ctx.poolPast = []) (so pitch e : Nat) : ∀ ls, State.stashLines w so pitch e ls s =
    (s, .ok (ls.map fun l => (chunks e 256 (s.stashBytes w.team (so + l * pitch) (256 * e))).map fun b => if e = 2 then ofBytes b * 2 ^ 16 else ofBytes b))
  | [] => rfl
  | l :: ls => by simp [State.stashLines, engStash_scratch h hp, stashLines_scratch h hp so pitch e ls, andThen]
theorem no_bytes (a : Nat) : ∀ n, Memory.readBytes [] a n = List.replicate n 0
  | 0 => rfl
  | n + 1 => by rw [Memory.readBytes, no_bytes (a + 1) n]; rfl
def zeroLines : List (List Nat) := List.replicate 64 (List.replicate 256 0)
def zeroTile : TileImage := encodeTile (parseDesc desc) 0 zeroLines
theorem zero_line (a : Nat) : ((chunks 2 256 (Memory.readBytes [] a (256 * 2))).map fun b => if (2 : Nat) = 2 then ofBytes b * 2 ^ 16 else ofBytes b) =
    List.replicate 256 0 := by rw [no_bytes]; decide +kernel
theorem encoded_of {b : State} {w : Work} (h : b.quantDesc w 5 0 = (b, .ok (parseDesc desc))) (hs : scratch b w.team)
    (hq : b.ctx.poolPast = []) (hp : (b.core (teamCore w.team)).pool = []) :
    b.encoded w 5 0 0 512 true = (b, .ok (parseDesc desc, zeroTile)) := by
  have hl : ((List.range 64).map fun l => (chunks 2 256 (b.stashBytes w.team (0 + l * 512) (256 * 2))).map fun b =>
      if (2 : Nat) = 2 then ofBytes b * 2 ^ 16 else ofBytes b) = zeroLines := by
    have hf : (fun l : Nat => (chunks 2 256 (b.stashBytes w.team (0 + l * 512) (256 * 2))).map fun b =>
      if (2 : Nat) = 2 then ofBytes b * 2 ^ 16 else ofBytes b) = fun _ => List.replicate 256 0 :=
      funext fun l => by unfold State.stashBytes; rw [hp]; exact zero_line _
    rw [hf, List.map_const', List.length_range, zeroLines]
  have hk : ∀ d, encodeTile d (0 % d.tks) zeroLines = encodeTile d 0 zeroLines := fun d => by rw [Nat.zero_mod]
  simp only [if_true] at hl
  simp only [State.encoded, State.encodedLines, h, andThen, if_true, List.isEmpty_nil, stashLines_scratch hs hq]
  rw [hl, hk, zeroTile]
theorem zero_tile : zeroTile.outs = [] := by
  have hb : ∀ bl ∈ zeroLines.map (fun l => (chunks 64 4 l).map (encodeBlock (parseDesc desc))), ∀ b ∈ bl, b.outs = [] := by
    have h1 : zeroLines.map (fun l => (chunks 64 4 l).map (encodeBlock (parseDesc desc))) =
        List.replicate 64 ((chunks 64 4 (List.replicate 256 0)).map (encodeBlock (parseDesc desc))) := by simp [zeroLines]
    rw [h1]
    intro bl hbl
    rw [(List.mem_replicate.1 hbl).2]
    decide +kernel
  have ho : ((zeroLines.map fun l => (chunks 64 4 l).map (encodeBlock (parseDesc desc))).zipIdx.flatMap fun (bl, l) => bl.zipIdx.flatMap fun (b, i) =>
      b.outs.map fun (e, v) => (64 * i + e, l, v)) = [] := by
    refine List.flatMap_eq_nil_iff.2 fun x hx => List.flatMap_eq_nil_iff.2 fun y hy => ?_
    obtain ⟨b, i⟩ := y
    show b.outs.map _ = []
    rw [hb _ (List.fst_mem_of_mem_zipIdx hx) _ (List.fst_mem_of_mem_zipIdx hy)]
    rfl
  have he : ∀ bs, (encodeTile (parseDesc desc) 0 bs).outs = (List.range 256).flatMap fun k => (((bs.map fun l => (chunks 64 4 l).map (encodeBlock
      (parseDesc desc))).zipIdx.flatMap fun (bl, l) => bl.zipIdx.flatMap fun (b, i) => b.outs.map fun (e, v) => (64 * i + e, l, v)).filter
        fun o => o.1 == k).map fun (k, l, v) => v + k * 2 ^ 16 + l * 2 ^ 24 := fun _ => rfl
  rw [zeroTile, he, ho]
  simp

def scaling : Job := .qscale 5 0 0 512 0x8000 true
theorem witness_qscale : Working (coded scaling []) 9 (job scaling) ∧ Working (busyWith scaling []) 9 (job scaling) ∧ scratch (busyWith scaling []) 0 ∧
    (busyWith scaling []).encoded (job scaling) 5 0 0 512 true = (busyWith scaling [], .ok (parseDesc desc, zeroTile)) :=
  ⟨working_of (by decide +kernel), working_of (by decide +kernel), ⟨rfl, fun _ => rfl, fun _ h => nomatch h⟩, encoded_of (ok_pair (by decide +kernel)) ⟨rfl, fun _ => rfl, fun _ h => nomatch h⟩ rfl (by decide +kernel)⟩

/-- The parts are far memory, whose port is down: the writes' errors are their responses. -/
def splitting : Job := .qsplit 5 0 0 512 true []
def splitState : State := withDev (coded splitting []) fun d => { d with mem := codedMem 4, farUp := false }
theorem witness_qsplit : let b := { splitState with eng := some 9 }; let d := parseDesc desc; let w := job splitting
    Working splitState 9 w ∧ b.encoded w 5 0 0 512 true = (b, .ok (d, zeroTile)) ∧ Working b 9 w ∧ b.splitParts 0 d 0 zeroTile.outs.length = none ∧
    zeroTile.outs.length ≤ d.cap ∧ b.milled d.body true = false ∧ b.milled d.scale true = false ∧ b.milled d.outl true = false := by
  refine ⟨working_of (by decide +kernel), encoded_of (ok_pair (by decide +kernel)) ⟨rfl, fun _ => rfl, fun _ h => nomatch h⟩ rfl (by decide +kernel),
    working_of (by decide +kernel), ?_, ?_, by decide +kernel, by decide +kernel, by decide +kernel⟩ <;> rw [zero_tile] <;> decide +kernel

def dequant : Job := .qdeq 5 0 0 512 0 true
def dequantState : State := withDev (coded dequant []) fun d => { d with mem := codedMem 7 ++ segment (hostBase + 0x50000) zeroScales }
theorem tile_read {s : State} {gid t n : Nat} {d : Desc} {h : List Byte} {f : State × Machine.Port (List Byte × Option Nat)}
    (hh : s.rawReadP gid d.outl (t * d.recBytes) 16 needR = (s, .ok (h, none)))
    (he : s.readEntries gid d t h = (s, .ok ([], none))) (hs : s.rawReadP gid d.scale (512 * t) 512 needR = (s, .ok (zeroScales, none)))
    (hf : s.rawReadP gid d.body (t * d.tileBytes) n needR = f) (H : (match f with | (u, .ok (_, bad)) => decide (u = s) && bad.isNone | _ => false) = true) :
    ∃ body, s.readTile gid d t n = (s, .ok (⟨h, [], zeroScales, body⟩, none)) := by
  obtain ⟨u, r⟩ := f
  cases r with
  | ok b =>
    obtain ⟨b, bad⟩ := b
    simp only [Bool.and_eq_true, decide_eq_true_eq, Option.isNone_iff_eq_none] at H
    exact ⟨b, by simp [State.readTile, andThen, hh, he, hs, hf, H.1, H.2]⟩
  | _ => exact nomatch H
theorem good_of (body : List Byte) : TileParts.bad ⟨header, [], zeroScales, body⟩ (parseDesc desc) 0 true = 0 := by
  have : TileParts.bad ⟨header, [], zeroScales, body⟩ (parseDesc desc) 0 true = TileParts.bad ⟨header, [], zeroScales, []⟩ (parseDesc desc) 0 true := by
    simp only [TileParts.bad, show (parseDesc desc).crc = false from by decide +kernel, Bool.and_false, Bool.false_and]
  rw [this]; decide +kernel
theorem witness_qdeq : let s := dequantState; let u := { s with eng := some 9 }; let w := job dequant
    Working s 9 w ∧ u.quantDesc w 5 0 = (u, .ok (parseDesc desc)) ∧ Working u 9 w ∧ scratch u 0 ∧ headerBad (parseDesc desc) header = false ∧
    ∃ body, u.readTile 0 (parseDesc desc) 0 4096 = (u, .ok (⟨header, [], zeroScales, body⟩, none)) ∧
      TileParts.bad ⟨header, [], zeroScales, body⟩ (parseDesc desc) 0 true = 0 := by
  refine ⟨working_of (by decide +kernel), ok_pair (by decide +kernel), working_of (by decide +kernel), ⟨rfl, fun _ => rfl, fun _ h => nomatch h⟩, by decide +kernel, ?_⟩
  obtain ⟨body, h⟩ := tile_read (s := { dequantState with eng := some 9 }) (gid := 0) (t := 0) (n := 4096) (d := parseDesc desc) (h := header)
    (ok_pair (by decide +kernel)) (ok_pair (by decide +kernel)) (ok_pair (by decide +kernel)) rfl (by decide +kernel)
  exact ⟨body, h, good_of body⟩

def loadTile : Job := .cld 0 256 3 false
def storeTile : Job := .cst 0 256 3 false true
theorem witness_cld : Working (jobState loadTile) 9 (job loadTile) ∧ (jobState loadTile).tileBusy 9 0 3 = false ∧ scratch (jobState loadTile) 0 ∧
    ∀ i, i < 64 → Stands (jobState loadTile) (job loadTile) 0 (0 + i * 256) (64 * 4) :=
  ⟨working_of (by decide +kernel), by decide +kernel, ⟨rfl, fun _ => rfl, fun _ h => nomatch h⟩, fun _ _ _ h => nomatch h⟩
theorem witness_cst : Working (jobState storeTile) 9 (job storeTile) ∧ (jobState storeTile).tileBusy 9 0 3 = false ∧ scratch (jobState storeTile) 0 ∧
    (job storeTile).core = teamCore (job storeTile).team := ⟨working_of (by decide +kernel), by decide +kernel, ⟨rfl, fun _ => rfl, fun _ h => nomatch h⟩, by decide +kernel⟩

/-! Order circles. -/

/-- Circle 3 ACTIVE under incarnation 1, this device its only member. -/
def member : Machine.Circle := { Machine.Circle.free with state := .active, incarn := 1, counts := [(0, 0)], ready := [(0, 1)], members := [(0, 0), (1, 6)] }
def withCircle (x : Machine.Circle) (s : State) : State := withCtx s fun c => { c with circles := [(3, x)] }
def recordOf8 : CircleRec := ⟨BitVec.ofNat 64 (3 * 2 ^ 52), toBytes 8 5, none, 1, 0, 9⟩
def circling : Job := .circle ⟨BitVec.ofNat 64 (3 * 2 ^ 52), [], none, 0, 0, 0⟩ 3 ⟨false, 2, 0⟩ 8 false none
theorem witness_record_send : let s := withCircle member (jobState circling)
    Working s 9 (job circling) ∧ (∀ y ∈ s.ctx.works, y.1 < 9 → y.2.gang ≠ 0) ∧ ReadsAs s 9 0 2 0 8 ⟨rR, 4, false, false⟩ eightBytes ∧
    (s.circle 3).state = .active ∧ (s.circle 3).incarn = 1 :=
  ⟨working_of (by decide +kernel), by decide +kernel, readsAs_of (by decide +kernel), by decide +kernel, by decide +kernel⟩
theorem witness_crier_stamp : let r := { recordOf8 with source := 7 }; let s := withCircle { member with crier := true, queue := [r] } base; let x := s.circle 3
    x.crier = true ∧ x.state = .active ∧ x.queue = [r] ∧ (∀ m, m ≤ x.last → Tbl.find? x.ready m = some x.incarn ∧ x.nextSeq < 256 + Tbl.get 0 x.counts m) ∧
    r.source ≠ s.dev.host.devnum ∧ r.incarn.toNat = x.incarn ∧ (x.applied < x.nextSeq ∨ x.applied = x.nextSeq ∧ x.doing = false) := by
  refine ⟨rfl, rfl, rfl, fun m hm => ?_, by decide +kernel, by decide +kernel, by decide +kernel⟩
  obtain rfl : m = 0 := Nat.le_zero.1 hm
  decide +kernel
/-- A record of this device, whose sending job waits. -/
theorem witness_crier_stamps_its_own : let j := Job.circle recordOf8 3 ⟨false, 2, 0⟩ 8 true none
    let s := withCircle { member with crier := true, queue := [recordOf8] } (jobState j)
    recordOf8.source = s.dev.host.devnum ∧ s.circleJobs 3 = [(9, job j)] ∧ s.work? 9 = some (job j) := by decide +kernel
theorem witness_circle_apply : let s := withCircle { member with window := [(0, recordOf8)] } base; let x := s.circle 3
    x.state = .active ∧ x.doing = false ∧ Tbl.find? x.window x.applied = some recordOf8 ∧
    s.check anyGrid 3 0 8 ⟨rW ||| rMCST, 4, false, false⟩ = .ok plainEntry ∧ plainEntry.kind = 1 ∧ plainEntry.milled true = false ∧ 0 ∉ s.ctx.redHold ∧ Placed s 0 3 0 8 plainEntry (plainPiece 8) ∧
    Tbl.mem s.ctx.custody ((plainPiece 8).loc / 128) = false :=
  ⟨rfl, rfl, by decide +kernel, by decide +kernel, by decide +kernel, by decide +kernel, by decide +kernel, placed_of (by decide +kernel) rfl (by decide +kernel), by decide +kernel⟩
def waitingRecord (q : Option Nat) : Job := .circle recordOf8 3 ⟨false, 2, 0⟩ 8 true q
theorem witness_circle_counts : let j := waitingRecord (some 0); let s := withCircle { member with doing := true } (jobState j); let x := s.circle 3
    x.state = .active ∧ x.doing = true ∧ x.lastWct ≤ s.now ∧ Tbl.find? x.window (x.applied + 1) = none ∧ s.circleJobs 3 = [(9, job j)] ∧
    Working s 9 (job j) ∧ State.jobSeq (job j) = some x.applied :=
  ⟨rfl, rfl, by decide +kernel, by decide +kernel, by decide +kernel, working_of (by decide +kernel), by decide +kernel⟩
theorem witness_circle_breaks (q : Option Nat) (hq : q = none ∨ q = some 0) : let j := waitingRecord q
    let s := withDev (withCircle { member with gapSince := some 0 } (jobState j)) fun d => { d with dtime := 50000 }
    let x := s.circle 3; x.gapSince = some 0 ∧ x.state = .active ∧ 0 + 1000 * x.gapus ≤ s.now ∧ x.doing = false ∧ x.waits = false ∧
    s.dev.sec.bootstat = 1 ∧ s.circleJobs 3 = [(9, job j)] ∧ Working s 9 (job j) := by
  rcases hq with rfl | rfl <;>
  exact ⟨rfl, rfl, by decide +kernel, rfl, rfl, by decide +kernel, by decide +kernel, working_of (by decide +kernel)⟩
theorem witness_break_waits : let x := (withCircle { member with waits := true } base).circle 3; x.doing = false ∧ x.waits = true := by decide +kernel
theorem witness_circctl : let x := (withCircle Machine.Circle.free base).circle 3; let v : DWord := 1 + 2 ^ 32 + 50 * 2 ^ 48
    v.toNat % 4 = 1 ∧ x.state ≠ .active ∧ (v.extractLsb' 48 16).toNat ≠ 0 ∧ (v.extractLsb' 32 16).toNat ≠ x.incarn ∧
    (2 : DWord).toNat % 4 = 2 ∧ ((withCircle member base).circle 3).state = .active := by decide +kernel

/-! Launches and queues. -/

def lowestFree (s : State) (k : Nat) : Prop := k < 256 ∧ Tbl.find? s.ctx.grids k = none ∧ ∀ j, j < k → (Tbl.find? s.ctx.grids j).isSome = true
def fullTable : State := withCtx base fun c => { c with grids := (List.range 256).map fun k => (k, grid) }
theorem witness_launch : base.dev.sec.bootstat = 1 ∧ base.slotLoad 5 = .empty ∧ record.length = 64 ∧ base.recordCheck (Rec.gridId record) record true = none ∧
    Rec.release record ≤ base.now ∧ 0 < base.openEntries ∧ lowestFree base 1 :=
  ⟨by decide +kernel, by decide +kernel, by decide +kernel, by decide +kernel, by decide +kernel, by decide +kernel, by decide +kernel, by decide +kernel, by decide +kernel⟩
theorem witness_launch_held : fullTable.recordCheck (Rec.gridId record) record true = none ∧ fullTable.openEntries = 0 := by decide +kernel
theorem witness_launch_rejected : base.recordCheck (Rec.gridId (List.replicate 64 0)) (List.replicate 64 0) true = some ⟨cRESERVED, 0, 0⟩ ∧ Rec.csig (List.replicate 64 0) = false ∧
    ([1, 2, 3] : List Byte).length < 64 := by decide +kernel
theorem witness_held_enters : let s := withDev base fun d => { d with launch := { d.launch with slots := [(5, .held record)] } }
    s.slotLoad 5 = .held record ∧ Rec.release record ≤ s.now ∧ 0 < s.openEntries ∧ lowestFree s 1 :=
  ⟨by decide +kernel, by decide +kernel, by decide +kernel, by decide +kernel, by decide +kernel, by decide +kernel⟩
theorem witness_wheel : let x : WheelGrid := ⟨record, 0, 1, none, 0⟩; let s := withCtx base fun c => { c with wheel := [x] }
    (s.ctx.wheel.filter fun y => decide (y.release ≤ s.now)) = [x] ∧ lowestFree s 1 :=
  ⟨by decide +kernel, by decide +kernel, by decide +kernel, by decide +kernel⟩
def unfed : Grid := { grid with record := patch record 0x10 [9], next := 0, unended := 9 }
theorem witness_feed : let s := withCtx base fun c => { c with grids := [(2, unfed)] }
    s.feedOrder = [(2, unfed)] ∧ s.grid 2 = unfed := by decide +kernel
def queuedTeam : QEntry := ⟨0, 1, 0, 0, 1, 0⟩
def queueState : State := withCtx base fun c => { c with cores := [(1, { Core.empty with queue := [queuedTeam] })] }
theorem witness_ageing : let s := withDev queueState fun d => { d with dtime := 100000 }
    s.coreQueue 1 = [queuedTeam] ∧ queuedTeam.at' + 100000 ≤ s.now ∧ (s.clusterQueue 0).length < 256 := by decide +kernel
theorem witness_place : queueState.dev.pre.req = false ∧ queueState.ctx.halt = none ∧ queueState.coreQueue 1 = [queuedTeam] ∧ queueState.teamsOn 1 = [] ∧
    ((queueState.boundsFor 1 (queueState.grid 0).record).placeFor 1 (queueState.grid 0).record).isSome = true := by
  decide +kernel
theorem witness_team_end : let s := withTeam (jobState gather) fun t => { t with exited := true }; let x := s.team 0
    x.live = true ∧ x.exited = true ∧ x.wct ≤ s.now ∧ (∀ j, j < 4 → (s.slot 0 j).state = .free) ∧ s.ctx.accs = [] ∧
    Tbl.mem s.ctx.grids x.grid = true := by decide +kernel
def endedGrid (r : List Byte) : Grid := { grid with record := r, unended := 0 }
def gridState (g : Grid) : State := withCtx base fun c => { c with grids := [(0, g)], teams := [], gangs := [] }
/-- R289: CSIG is bit 40 of word 0x10, CREF at 0x20. -/
def signalRecord : List Byte := patch (patch record 0x15 [1]) 0x20 (toBytes 8 (2 * 2 ^ 52))
theorem witness_grid_completes : let s := gridState (endedGrid record); Tbl.find? s.ctx.grids 0 = some (endedGrid record) ∧
    (endedGrid record).wct ≤ s.now ∧ s.gridBusy 0 = false ∧ Rec.csig record = false := by decide +kernel
theorem witness_grid_signals : let s := gridState (endedGrid signalRecord)
    s.gridBusy 0 = false ∧ Rec.csig signalRecord = true ∧ Rec.cref signalRecord = 2 * 2 ^ 52 ∧ s.check 0 2 8 8 ⟨rW, 8, false, false⟩ = .ok hostEntry ∧
    hostEntry.kind = 7 ∧ s.milled 2 true = false ∧ 0 ∉ s.ctx.redHold ∧ Placed s 0 2 8 8 hostEntry ⟨hostBase + 8, 8, 0, 8⟩ ∧
    Tbl.mem s.ctx.custody ((hostBase + 8) / 128) = false :=
  ⟨by decide +kernel, by decide +kernel, by decide +kernel, by decide +kernel, by decide +kernel, by decide +kernel, by decide +kernel,
    placed_of (by decide +kernel) rfl (by decide +kernel), by decide +kernel⟩
theorem witness_completion_add : let g := { endedGrid signalRecord with signalDue := some 0 }; let s := gridState g
    Tbl.find? s.ctx.grids 0 = some g ∧ max 0 g.wct ≤ s.now ∧ s.gridBusy 0 = false ∧ s.crefCheck g.crefId g.record = none ∧
    ∃ e, (gridState { g with record := patch signalRecord 0x20 (toBytes 8 0) }).crefCheck g.crefId (patch signalRecord 0x20 (toBytes 8 0)) = some e :=
  ⟨by decide +kernel, by decide +kernel, by decide +kernel, by decide +kernel, Option.isSome_iff_exists.1 (by decide +kernel)⟩

/-! Page service: page 1 is that of buffer 3's bytes from offset 0. -/

theorem witness_fqdone_unknown : base.dev.sec.bootstat = 1 ∧ Tbl.mem base.ctx.fq 7 = false := by decide +kernel
def openRecord : FqRec := ⟨0x10000, 3, false, 0, true, 1⟩
def missing : Miss := ⟨some 7, 3, false, 0⟩
theorem witness_page_mapped : let s := withCtx (holding (.page 1) base) fun c => { c with fq := [(7, openRecord)], misses := [(1, missing)] }
    s.dev.sec.bootstat = 1 ∧ Tbl.mem s.ctx.fq 7 = true ∧ s.ctx.misses = [(1, missing)] ∧ (∃ l, s.dev.walk (1 * 2 ^ 16) = .leaf l) ∧ s.ctx.redHold = [] := by
  refine ⟨by decide +kernel, by decide +kernel, by decide +kernel, ?_, by decide +kernel⟩
  exact ⟨⟨0, 2 ^ 32, 2 ^ 32, 0⟩, by decide +kernel⟩
def stalled : Access := { loadPlain with stall := [(0, 1)] }
/-- The page whose walk still finds nothing: a table in memory with no entry for it. -/
theorem witness_page_unmapped : let s := withCtx (withDev base fun d => { d with host := { d.host with ptRoot := 2 ^ 20 } }) fun c =>
      { c with fq := [(7, openRecord)], misses := [(2 ^ 20, ⟨some 7, 3, false, 0⟩)] }
    s.dev.sec.bootstat = 1 ∧ s.dev.walk (2 ^ 20 * 2 ^ 16) = .miss ∧ Tbl.find? (Tbl.erase s.ctx.fq 7) 0 = none := by decide +kernel
theorem witness_page_fatal : let s := withCtx (flying stalled) fun c => { c with fq := [(7, openRecord)], misses := [(1, missing)] }
    Tbl.mem s.ctx.fq 7 = true ∧ s.ctx.misses = [(1, missing)] ∧ s.ctx.accs = [(9, stalled)] ∧ stalled.kind = .load ∧ stalled.reqs = [req] ∧
    stalled.notBefore ≤ s.now ∧ stalled.sent = none ∧ stalled.out = [] ∧ (s.entryOf stalled).kind = 1 ∧ s.dev.sec.bootstat = 1 ∧
    (s.gang 0).waitTrap = [] ∧ (s.gang 0).live = true ∧ ((s.gang 0).lane 0).cond ≠ .exited ∧ (∀ w ∈ ((s.gang 0).lane 0).wins, w.acc = 9) ∧
    (s.gang 0).hmode = false ∧ (s.grid (s.gridOf 0)).thandler ≠ 0 ∧ s.dev.pre.req = false ∧ (∀ g ∈ s.ctx.grids, g.2.unended ≠ 0) ∧
    s.check 0 3 0 4 ⟨rR, 4, false, false⟩ = .ok plainEntry ∧ plainEntry.kind = 1 ∧ s.milled 3 false = false ∧ cutParts plainEntry 4 0 4 = [(0, 4)] ∧
    (plainEntry.base + 0) / 2 ^ 16 = 1 := by decide +kernel

/-! The host port, the health of the device and its ports. -/

def awake (s : State) : State := withDev s fun d => { d with pre := { d.pre with resident := false } }
theorem witness_host_writes : base.dev.sec.bootstat = 1 ∧ base.dev.mem.wf = true ∧ base.dev.host.btBase % 2 ^ 17 = 0 ∧
    base.dev.host.btBase + 2 ^ 17 ≤ 256 * (base.dev.window 14).wsize * 2 ^ 26 ∧ Tbl.mem base.dev.btStale 3 = false := by decide +kernel
theorem witness_entry_written : ∀ l, base.dev.classLoc 14 (base.dev.host.btBase + 32 * 3 + 8 * 1) = some l → base.dev.lostAt l = false := by
  intro l h
  rw [show base.dev.classLoc 14 (base.dev.host.btBase + 32 * 3 + 8 * 1) = some (base.dev.host.btBase + 104) from by decide +kernel] at h
  cases h; decide +kernel
/-- The high half of DEVNUM, and a read of 8 bytes at 4. -/
theorem witness_half_register : base.hostRead .devnum < 2 ^ 64 ∧ (HostReg.devnum, State.HostView.devnum) ∈ [(HostReg.devnum, State.HostView.devnum)] ∧
    ¬((8 = 4 ∨ 8 = 8) ∧ 4 % 8 = 0) := by decide +kernel
theorem witness_recovery : (withDev base fun d => { d with sec := { d.sec with bootstat := 3 } }).dev.sec.bootstat ≠ 1 ∧
    State.HostView.fqstat ∉ [State.HostView.devid, .devnum, .lcstate, .bootstat, .hosterr, .cwin, .msixstat] ∧ HostReg.ptroot ≠ .devnum := by decide +kernel
/-- Class 1 meets class 0's channels where their windows overlap, and lies beside it from 31 on. -/
theorem witness_class_window : (awake base).dev.pre.resident = false ∧ 31 + 1 ≤ 32 ∧ 1 < (base.dev.window 0).wstart + (base.dev.window 0).wsize := by decide +kernel
def unreadRecord : FqRec := { openRecord with read := false }
theorem witness_fqnext : let s := withCtx base fun c => { c with fq := [(7, unreadRecord)] }
    (7, unreadRecord) ∈ s.ctx.fq ∧ unreadRecord.read = false ∧ ∀ y ∈ s.ctx.fq, y.2.read = false → y ≠ (7, unreadRecord) → 1 < y.2.order := by
  decide +kernel
def windowState : State := withDev base fun d => { d with host := { d.host with cwin := 14 } }
/-- AtomicOps of 8 bytes at 8, and a CAS that fits. -/
theorem witness_window_c_atomic : let a := windowState.cwinBase + 8
    windowState.dev.sec.bootstat = 1 ∧ (∀ i, i < 8 → windowState.dev.classLoc windowState.cwinClass (a + i) = some (8 + i)) ∧ 8 % 8 = 0 ∧
    Tbl.mem windowState.ctx.custody (8 / 128) = false ∧ windowState.dev.lostAt 8 = false ∧ eightBytes.length = 8 ∧
    (windowState.dev.mem.readBytes 8 8 ++ eightBytes).length = 16 ∧ (windowState.dev.mem.readBytes 8 8 ++ eightBytes).take 8 = windowState.dev.mem.readBytes 8 8 ∧
    (eightBytes ++ eightBytes).take 8 ≠ windowState.dev.mem.readBytes 8 8 := by decide +kernel
theorem witness_window_c_read : ∀ i l, i < 4 → windowState.dev.classLoc windowState.cwinClass (windowState.cwinBase + 0 + i) = some l →
    Tbl.mem windowState.ctx.custody (l / 128) = false := fun _ _ _ _ => rfl
theorem witness_window_c : windowState.cwinClass = 14 ∧ windowState.dev.classLoc 14 (windowState.cwinBase + 0) = some 0 ∧
    (windowState.cwinBase + 0) % 128 + 4 ≤ 128 ∧ Tbl.mem windowState.ctx.custody 0 = false ∧ windowState.dev.lostAt 0 = false := by decide +kernel

theorem witness_refresh : let s := withDev base fun d => { d with dtime := 3900 }; (s.dev.channel 5).nextTick ≤ s.now ∧ (s.dev.channel 5).debt < 8 ∧
    -8 < (s.dev.channel 5).debt := by decide +kernel
theorem witness_row_errors : let s := withDev base fun d => { d with channels := [(5, { Channel.reset with rowErrs := [(State.rowOf 33, 3)] })] }
    base.dev.tel.size = 0 ∧ Tbl.get 0 (base.dev.channel 5).rowErrs (State.rowOf 33) + 1 < 4 ∧
    4 ≤ Tbl.get 0 (s.dev.channel 5).rowErrs (State.rowOf 33) + 1 ∧ Tbl.get 0 (s.dev.channel 5).sparesUsed (State.bankOf (State.rowOf 33)) < 16 ∧
    s.dev.pre.resident = true ∧ s.ctx.halt = none := by decide +kernel
theorem witness_time : (let s := withDev base fun d => { d with dtime := 1000000 }; s.dev.time.lastSync + 1000000 ≤ s.now ∧ s.dev.time.free = false) ∧
    let s := withDev base fun d => { d with dtime := 10000000, time := { d.time with free := true, goodSince := some 0 } }
    s.dev.time.goodSince = some 0 ∧ 0 + 10000000 ≤ s.now ∧ s.dev.time.free = true := by decide +kernel
theorem witness_power : let s := withDev base fun d => { d with dtime := 10000000, power := { d.power with enabled := true, step := 2, belowSince := some 0 } }
    s.dev.power.enabled = true ∧ s.dev.power.cap < 2401 ∧ 95 * s.dev.power.cap ≤ 100 * 2300 ∧ 100 * 1000 < 95 * s.dev.power.cap ∧
    0 + 10000000 ≤ s.now ∧ s.dev.power.overheated = false ∧ base.dev.power.enabled = false := by decide +kernel
theorem witness_monitor : let s := withDev base fun d => { d with dtime := 100000000, tel := ⟨0, 4, 3, 1, 0⟩ }; let r := s.dev.tel
    s.dev.power.nextMonitor ≤ s.now ∧ r.size ≠ 0 ∧ (r.head + 1) % r.size ≠ r.tail % r.size ∧ (3 + 1) % 4 = 0 % 4 := by decide +kernel
theorem witness_sample : let s := withDev base fun d => { d with cycle := 1, smp := ⟨0, 4, 3, 1, 0⟩, cores := [(2, { CoreDev.reset with sampleCtl := 1, lfsr := 1 })] }
    bit (s.coreDev 2).sampleCtl 0 = true ∧ (s.coreDev 2).sampleAt < s.dev.cycle ∧ s.dev.smp.size ≠ 0 ∧ (3 + 1) % 4 ≠ s.dev.smp.tail % 4 := by decide +kernel

/-- A die above 115 C while a context is resident. -/
theorem witness_sensors : (List.replicate 48 1000).length = 48 ∧ (List.replicate 4 300).length = 4 ∧ (List.replicate 16 300).length = 16 ∧
    (List.replicate 48 1000).any (fun x => decide (920 ≤ x)) = true ∧ base.dev.pre.resident = true ∧ base.dev.pre.req = false ∧ base.ctx.halt = none ∧
    base.dev.power.tripped = false := by decide +kernel

/-- A store to far memory, buffer 9, and one to a buffer of device 2, buffer 10. -/
def farEntry : List Byte := entry 0 0x10000 4 0
def remoteEntry : List Byte := patch (entry 0 0x10000 5 0) 24 (toBytes 8 (2 + 3 * 2 ^ 16))
def portState (x : Access) : State := withDev (flying x) fun d => { d with mem := (d.mem.writeBytes 288 farEntry).writeBytes 320 remoteEntry, dtime := 100000000 }
def farStore : Access := owing .store 9 .w .system
def remoteStore : Access := { owing .store 10 .w .system with sent := some 0, out := [req.lane] }
theorem witness_port_late (p : Sys2Proof.Port) (hp : p = .far ∨ p = .host) : let x := if p = .far then farStore else owing .store 2 .w .system; let s := portState x
    s.access? 9 = some x ∧ (s.entryOf x).kind = State.portKind p ∧ (s.entryOf x).system = true ∧ x.orphan = false ∧ x.work = none ∧ x.reply = none ∧
    x.since + State.portTimeout s p ≤ s.now ∧ base.now < x.since + State.portTimeout base p := by
  rcases hp with rfl | rfl <;> decide +kernel
theorem witness_port_fails : let s := portState farStore; s.access? 9 = some farStore ∧ farStore.reqs = [req] ∧ farStore.erred = false ∧ (s.gang 0).live = true ∧
    s.sysClass 9 = true ∧ (Tbl.get StoreSet.none (s.gang 0).stores (State.setKey farStore.path true)).err = none ∧
    (s.entryOf farStore).kind = State.portKind .far ∧ s.ctx.accs = [(9, farStore)] := by decide +kernel
theorem witness_fabric_timeout : let s := portState remoteStore; s.access? 9 = some remoteStore ∧ (s.gang 0).live = true ∧ s.sysClass 10 = true ∧
    (Tbl.get StoreSet.none (s.gang 0).stores (State.setKey remoteStore.path true)).err = none ∧ 0 + s.dev.host.fabricTimeout ≤ s.now ∧ req.lane < 65 ∧ req.lane ∈ remoteStore.out := by
  decide +kernel
theorem witness_remote_requests : base.dev.pre.resident = true ∧ (awake base).dev.pre.resident = false ∧ (∃ e, base.ownerCheck 3 0 8 ⟨rR, 1, false, false⟩ = .ok e) ∧
    0 < base.dev.host.fabricTimeout ∧ base.milled 3 true = false ∧
    (∃ u bs, ({ base with eng := some (portAsk 5 3 0) } : State).memRead anyGrid 3 0 8 ⟨rR, 1, false, false⟩ = (u, .ok bs) ∧ decide (bs.length = 8) = true) ∧
    (∃ e, base.ownerCheck 3 0 8 ⟨rW, 1, false, false⟩ = .ok e) ∧
    ∃ u w, ({ base with eng := some (portAsk 5 3 0) } : State).rawWrite anyGrid 3 0 eightBytes ⟨rW, 1, false, false⟩ = (u, .ok w) ∧ decide (w.err = none) = true :=
  ⟨by decide +kernel, by decide +kernel, ok_check _ (by decide +kernel), by decide +kernel, by decide +kernel, ok_of (fun _ (bs : List Byte) => decide (bs.length = 8)) (by decide +kernel),
    ok_check _ (by decide +kernel), ok_of (fun _ (w : StoreSet) => decide (w.err = none)) (by decide +kernel)⟩

/-! Pre-emption, halt and dump, boot, identity, debug and checkpoint. -/

theorem witness_save : let s := withDev base fun d => { d with pre := { d.pre with req := true } }
    s.dev.pre.req = true ∧ s.dev.pre.done = false ∧ s.dev.pre.resident = true ∧ s.ctx.halt = none ∧ s.drained = true ∧ s.ctx.works = [] ∧
    s.ctx.holds = [] ∧ s.areaFault = none := by decide +kernel
/-- A slot goes to an instruction while no pre-emption is asked for, and to a BARA that waits after that. -/
theorem witness_slots : base.choose = some (.slot issue0) ∧
    let s := withGang (withDev base fun d => { d with pre := { d.pre with req := true } }) fun g =>
      eachLane g fun l => { l with cond := .blocked, wait := .bara }
    s.choose = some (.slot { issue0 with again := true }) ∧ s.dev.pre.req = true := by decide +kernel
theorem witness_not_drained : (flying loadPlain).drained = false := by decide +kernel
theorem quietGang (k : Nat) : (Tbl.get Gang.absent base.ctx.gangs k).held = [] ∧
    ∀ l, ((Tbl.get Gang.absent base.ctx.gangs k).lane l).wait ≠ .bara ∧ ∀ d, ((Tbl.get Gang.absent base.ctx.gangs k).lane l).wait ≠ .barw d := by
  have quiet : ∀ l : Lane, l.wait = .none → l.wait ≠ .bara ∧ ∀ d, l.wait ≠ .barw d := fun l h => by rw [h]; exact ⟨nofun, nofun⟩
  refine Tbl.forall_get (P := fun g : Gang => g.held = [] ∧ ∀ l, (g.lane l).wait ≠ .bara ∧ ∀ d, (g.lane l).wait ≠ .barw d) (fun g hg => ?_) ⟨rfl, fun _ => quiet _ rfl⟩ k
  obtain rfl : g = (0, lanes0) := List.mem_singleton.1 hg
  exact ⟨rfl, fun l => quiet _ (Tbl.forall_get (P := fun l : Lane => l.wait = .none) (by decide +kernel) rfl l)⟩
/-- An area brought from another Q6 whose header does not fit: empty memory holds none. -/
theorem witness_restore_refused : let s := withDev (awake base) fun d => { d with carried := [0] }
    s.dev.pre.ctxBase ∈ s.dev.carried ∧ s.areaFits = false := by decide +kernel
theorem witness_restore : let s : State := { awake base with saved := [(0, base.ctx)] }; Tbl.find? s.saved s.dev.pre.ctxBase = some base.ctx ∧
    s.dev.pre.resident = false ∧ s.dev.power.tripped = false ∧ s.dev.sec.bootstat = 1 ∧ s.dev.pre.ctxBase ∉ s.dev.carried ∧
    (∀ k, (Tbl.get Gang.absent base.ctx.gangs k).held = []) ∧ (∀ g ∈ s.ctx.grids, g.1 < 2 ^ 20) ∧
    (∀ k l, ((Tbl.get Gang.absent base.ctx.gangs k).lane l).wait ≠ .bara ∧ ∀ d, ((Tbl.get Gang.absent base.ctx.gangs k).lane l).wait ≠ .barw d) ∧
    base.ctx.wheel = [] ∧ base.ctx.triggers = [] :=
  ⟨by rfl, by decide +kernel, by decide +kernel, by decide +kernel, by decide +kernel, fun k => (quietGang k).1, by decide +kernel, fun k l => (quietGang k).2 l,
    rfl, rfl⟩
def halted (told : Bool) : Halt := ⟨0x13, false, 0, 0, 0, ⟨0, 0, 0, 0, 0, 0, 0⟩, 0, told⟩
def haltState (told : Bool) : State := withCtx (withDev base fun d => { d with pre := { d.pre with dumpSize := 1 } }) fun c => { c with halt := some (halted told) }
theorem ok_port {α : Type} (r : Machine.Port α) (h : (match r with | .ok _ => true | _ => false) = true) : ∃ x, r = .ok x := by
  cases r with
  | ok x => exact ⟨x, rfl⟩
  | _ => exact nomatch h
theorem witness_sections : (haltState true).awaits State.dumpAsk = false ∧
    ∃ secs, (haltState true).sections = .ok secs := ⟨by decide +kernel, ok_port _ (by decide +kernel)⟩
theorem witness_halt_broadcast : (haltState false).ctx.halt = some (halted false) ∧ (haltState false).ctx.redHold = [] ∧ (haltState false).ctx.works = [] := by decide +kernel
theorem witness_dump : (haltState true).ctx.halt = some (halted true) ∧ (haltState true).dev.tel.size = 0 ∧ (haltState true).dev.pre.dumpSize ≠ 0 ∧
    (haltState true).dev.hostUp = true ∧ (haltState true).dev.mem.wf = true ∧ base.dev.pre.dumpSize = 0 := by decide +kernel
theorem witness_preempt_timeout : let s := withDev base fun d => { d with dtime := 10000000, power := { d.power with preemptAt := some 0 } }
    s.dev.power.preemptAt = some 0 ∧ 0 + 10000000 ≤ s.now ∧ s.dev.pre.resident = true ∧ s.dev.pre.done = false ∧ s.ctx.halt = none := by decide +kernel
theorem witness_security : base.dev.sec.bootstat = 1 ∧ (withDev base fun d => { d with sec := { d.sec with bootstat := 3 } }).dev.sec.bootstat ≠ 1 ∧
    2 ≤ base.dev.sec.lcstate ∧ base.dev.sec.keyAlive = true ∧
    ∃ f : FwImage, f.present = true ∧ f.magic = 0x4C4D4657 ∧ f.length ≠ f.body.length :=
  ⟨by decide +kernel, by decide +kernel, by decide +kernel, by decide +kernel,
    ⟨true, 0x4C4D4657, 1, 0, 0, [], []⟩, by decide +kernel, by decide +kernel, by decide +kernel⟩
theorem witness_debug : let s := withGang (withDev base fun d => { d with sec := { d.sec with debug := 2 } }) fun g => { g with stopped := true }
    bit s.dev.sec.debug 1 = true ∧ (s.gang 0).live = true ∧ (s.gang 0).stopped = true ∧ bit base.dev.sec.debug 1 = false := by decide +kernel
theorem witness_dbgload : base.dev.sec.dbgLoad ≠ 1 ∧ (withDev base fun d => { d with sec := { d.sec with dbgLoad := 1 } }).dev.sec.dbgLoad = 1 := by decide +kernel
theorem witness_readback : base.dev.pre.req = false ∧ base.ctx.halt = none ∧ (haltState true).ctx.halt ≠ none := by decide +kernel
def copy : Ckpt := ⟨true, [(5, 1)], [(0, true)], [(0, base.ctx)]⟩
theorem witness_checkpoint : let s := withDev (awake base) fun d => { d with ckpt := some copy }
    s.dev.sec.bootstat = 1 ∧ s.dev.pre.resident = false ∧ s.dev.hostUp = true ∧ s.dev.farUp = true ∧ s.dev.ckpt = some copy ∧ State.copySound copy = true := by
  decide +kernel

/-! MDEC_COMPLETE. The session's buffer, its planes' and its reference store's have a write graph that is not loaded, so that the errors of
the engine's writes are their responses (R145). What a decoder makes of the unit is free: a witness is for every machine whose decoder
makes of these eight bytes what its hypothesis says. -/

def bigMilled : List Byte := patch (entry 0x30000 0x400000 1 14) 22 [2]
/-- R200: a session of codec 1, 16 by 16 samples, begun anew, whose planes lie in buffer 4 and whose reference store is buffer 6. -/
def media : List Byte :=
  toBytes 4 33 ++ toBytes 2 16 ++ toBytes 2 16 ++ toBytes 4 2 ++ toBytes 4 6 ++ toBytes 8 0 ++ toBytes 8 (10 * 64 * 64 * 3 + 2097152) ++
    (List.range 3).flatMap (fun _ => toBytes 4 4 ++ toBytes 8 0x1000 ++ toBytes 4 0) ++ List.replicate 48 0
def decoding (taken : List (List Byte)) : Job := .mdec 4 0 0 8 0 taken 0
def mediaState (taken : List (List Byte)) : State :=
  withDev (jobState (decoding taken)) fun d => { d with mem := ((d.mem.writeBytes 128 milledEntry).writeBytes 192 bigMilled).writeBytes 0x1020000 media }
def mediaBusy : State := { mediaState [media, eightBytes] with eng := some 9 }
def refused (h off : Nat) (s : State) : State := s.noteWork 9 h ⟨0, some { errAt cSTALE h off with info := 1 }, false, 0⟩
def whole4 : Entry := parseEntry milledEntry
def whole6 : Entry := parseEntry bigMilled

theorem write_refused {s : State} {w : Work} {h off : Nat} {bs : List Byte} {rest : List (Nat × List Byte)} {e : Entry}
    (hm : s.milled h true = true) (hc : s.check w.gridId h off bs.length ⟨rW, 1, false, false⟩ = .ok e)
    (hg : s.millGate h off true = .error { errAt cSTALE h off with info := 1 })
    (hp : (match (s.rangePieces e h off bs.length).write with | .ok _ => true | _ => false) = true) :
    s.engWrite 9 w h ((off, bs) :: rest) 1 = (s.noteWork 9 h ⟨0, some { errAt cSTALE h off with info := 1 }, false, 0⟩, .ok ()) := by
  have hw : ∃ ps, (if e.kind = 1 then (s.rangePieces e h off bs.length).write else .ok []) = .ok ps := by
    split
    · cases h : (s.rangePieces e h off bs.length).write with
      | ok ps => exact ⟨ps, rfl⟩
      | _ => rw [h] at hp; exact nomatch hp
    · exact ⟨[], rfl⟩
  obtain ⟨ps, hw⟩ := hw
  simp [State.engWrite, State.memWriteAll, hm, hc, hg, hw, Machine.Port.bind, Machine.andThen]

/-- The session as a unit is taken up, in host memory. -/
def hostDecoding : Job := .mdec 2 128 0 8 0 [] 0
def hostMedia : State :=
  withDev (jobState hostDecoding) fun d => { d with mem := ((d.mem.writeBytes 128 milledEntry).writeBytes 192 bigMilled).writeBytes (hostBase + 128) media }
theorem witness_mdec_takes_up : let s := hostMedia; let w := job hostDecoding; let d := parseSession media
    Working s 9 w ∧ s.sessionWaits 9 w 2 128 = false ∧ ReadsAs s 9 w.gridId 2 128 128 ⟨rR, 128, false, false⟩ media ∧ d.bad = false ∧
    ReadsAs s 9 w.gridId d.bsh 0 8 needR eightBytes ∧ ({ s with eng := some 9 } : State).mdecBuffer w.gridId d.refh d.refoff d.refsize (rR ||| rW) = none ∧
    d.reset = true ∧ ∀ pw ph, ({ s with eng := some 9 } : State).mdecPlanes w.gridId d pw ph = none := by
  refine ⟨working_of (by decide +kernel), by decide +kernel, readsAs_of (by decide +kernel), by decide +kernel, readsAs_of (by decide +kernel),
    by decide +kernel, by decide +kernel, fun pw ph => ?_⟩
  have hb : ∀ n, n < 33 → ({ hostMedia with eng := some 9 } : State).mdecBuffer 0 4 0x1000 n rW = none := by decide +kernel
  have hp : (parseSession media).planes = [⟨4, 0, 0x1000, 0⟩, ⟨4, 0, 0x1000, 0⟩, ⟨4, 0, 0x1000, 0⟩] := by decide +kernel
  have hl : (parseSession media).layout = false := by decide +kernel
  have hm : (parseSession media).maxw = 16 := by decide +kernel
  simp only [State.mdecPlanes, Session.sized, hp, hl, hm, List.findSome?_eq_none_iff]
  intro x hx
  have he : x.1 = ⟨4, 0, 0x1000, 0⟩ ∧ x.2.1 ≤ 16 := by
    simp [ceilDiv] at hx
    rcases hx with rfl | rfl <;> exact ⟨rfl, by simp <;> omega⟩
  rw [he.1]
  exact hb _ (by simp [planeExtent]; split <;> omega)

/-- The picture is one monochrome row of 16 samples. -/
theorem witness_mdec_writes_rows (hd : decoded (parseSession media) [] eightBytes = ⟨true, true, false, 0, 16, 1⟩) :
    let s := mediaState [media, eightBytes]; let w := job (decoding [media, eightBytes]); let d := parseSession media; let x := decoded d [] eightBytes
    let px := fun (i a c : Nat) => sampleValue 8 (Config.decodeSample d.codec [] eightBytes i a c % 2 ^ 8)
    Working s 9 w ∧ (d.rows x).drop 0 ≠ [] ∧ ∃ v : Nat → State, v 0 = { s with eng := some 9 } ∧ (∀ j, ∃ y, (v j).work? 9 = some y) ∧
      ∀ j i r p, ((d.rows x).drop 0)[j]? = some (i, r) → (d.sized x.pw x.ph)[i]? = some p →
        (v j).engWrite 9 w p.1.h [planeRow d.layout p.1 p.2.1 p.2.2 (px i) r] 1 = (v (j + 1), .ok ()) := by
  have hr : (parseSession media).rows ⟨true, true, false, 0, 16, 1⟩ = [(0, 0)] := by decide +kernel
  have hs : ((parseSession media).sized 16 1)[0]? = some (⟨4, 0, 0x1000, 0⟩, 16, 1) := by decide +kernel
  have hl : (parseSession media).layout = false := by decide +kernel
  refine ⟨working_of (by decide +kernel), by simp only [hd, hr]; decide, fun j => if j = 0 then mediaBusy else refused 4 0x1000 mediaBusy, rfl, fun j => ?_,
    fun j i r p hj hp => ?_⟩
  · by_cases h : j = 0
    · simp only [if_pos h]; exact Option.isSome_iff_exists.1 (by decide +kernel)
    · simp only [if_neg h]; exact Option.isSome_iff_exists.1 (by decide +kernel)
  · simp only [hd] at hj hp
    rw [hr] at hj
    match j with
    | 0 =>
      obtain ⟨rfl, rfl⟩ : 0 = i ∧ 0 = r := by simpa using hj
      rw [hs] at hp
      cases hp
      have hw : ∀ f, ∃ bs, planeRow (parseSession media).layout ⟨4, 0, 0x1000, 0⟩ 16 1 f 0 = (0x1000, bs) ∧ bs.length = 32 := fun f => by
        rw [hl]; exact ⟨_, rfl, rfl⟩
      obtain ⟨bs, hb, hn⟩ := hw fun a c => sampleValue 8 (Config.decodeSample (parseSession media).codec [] eightBytes 0 a c % 2 ^ 8)
      simp only [hb]
      exact write_refused (e := whole4) (by decide +kernel) (by rw [hn]; decide +kernel) (by decide +kernel) (by rw [hn]; decide +kernel)
    | j + 1 => simp at hj

theorem witness_mdec_ends (hd : (decoded (parseSession media) [] eightBytes).shown = false) :
    let s := mediaState [media, eightBytes]; let w := job (decoding [media, eightBytes]); let d := parseSession media
    Working s 9 w ∧ (d.rows (decoded d [] eightBytes)).length ≤ 0 ∧
    ∀ store word rest : List Byte, store.length = d.refsize → word.length = 4 → ∀ more, more = [(0x50, rest)] →
      mediaBusy.engWrite 9 w d.refh [(d.refoff, store)] 1 = (refused 6 0 mediaBusy, .ok ()) ∧
      (refused 6 0 mediaBusy).engWrite 9 w 4 ((0, word) :: more) 1 = (refused 4 0 (refused 6 0 mediaBusy), .ok ()) ∧
      ∃ w', Working (refused 4 0 (refused 6 0 mediaBusy)) 9 w' ∧ w' = { w with stores := w'.stores, errs := w'.errs } := by
  refine ⟨working_of (by decide +kernel), by simp [Session.rows, hd], ?_⟩
  rintro store word rest hs hw _ rfl
  refine ⟨write_refused (e := whole6) (by decide +kernel) (by rw [hs]; decide +kernel) (by decide +kernel) (by rw [hs]; decide +kernel),
    write_refused (e := whole4) (by decide +kernel) (by rw [hw]; decide +kernel) (by decide +kernel) (by rw [hw]; decide +kernel), ?_⟩
  obtain ⟨_, h, w', hw⟩ := wrote_of (f := (refused 4 0 (refused 6 0 mediaBusy), .ok ())) (id := 9) (w := job (decoding [media, eightBytes]))
    ⟨_, (), rfl, by decide +kernel⟩
  obtain rfl := (Prod.mk.inj h).1
  exact ⟨w', hw⟩

/-! ## Decoding: one word of every row of R63, its fields written bit by bit from the layouts of R56 to R61 and the
op-specific fields of its chapter; the opcodes are those of R63. -/

/-- Words of R56. -/
theorem test_decode_lane_short_1 : ∀ x ∈ ([
    (0b00_000001_000_1111111_1000000_0000001, 0, .iadd 0 127 64 1),
    (0b00_000010_001_1111110_1000001_0000010, 0, .isub 1 126 65 2),
    (0b00_000011_010_1111101_1000010_0000011, 0, .imul 2 125 66 3),
    (0b00_000100_011_1111100_1000011_0000100, 0, .imulhs 3 124 67 4),
    (0b00_000101_100_1111011_1000100_0000101, 0, .imulhu 4 123 68 5),
    (0b00_000110_101_1111010_1000101_0000110, 0, .imin 5 122 69 6),
    (0b00_000111_110_1111001_1000110_0000111, 0, .imax 6 121 70 7),
    (0b00_001000_111_1111000_1000111_0001000, 0, .umin 7 120 71 8),
    (0b00_001001_000_1110111_1001000_0001001, 0, .umax 0 119 72 9),
    (0b00_001010_001_1110110_1001001_0001010, 0, .and 1 118 73 10),
    (0b00_001011_010_1110101_1001010_0001011, 0, .or 2 117 74 11),
    (0b00_001100_011_1110100_1001011_0001100, 0, .xor 3 116 75 12),
    (0b00_001101_100_1110011_1001100_0001101, 0, .andn 4 115 76 13),
    (0b00_001110_101_1110010_1001101_0001110, 0, .shl 5 114 77 14),
    (0b00_001111_110_1110001_1001110_0001111, 0, .shr 6 113 78 15),
    (0b00_010000_111_1110000_1001111_0010000, 0, .sar 7 112 79 16),
    (0b00_010001_000_1101111_1010000_0010001, 0, .rotl 0 111 80 17),
    (0b00_010110_001_1101110_1010001_0010010, 0, .fadd 1 110 81 18),
    (0b00_010111_010_1101101_1010010_0010011, 0, .fsub 2 109 82 19),
    (0b00_011000_011_1101100_1010011_0010100, 0, .fmul 3 108 83 20),
    (0b00_011001_100_1101011_1010100_0010101, 0, .fmin 4 107 84 21),
    (0b00_011010_101_1101010_1010101_0010110, 0, .fmax 5 106 85 22)] : List (Word × Word × Instr)), decodeWords x.1 x.2.1 = .ok x.2.2 := by decide +kernel

/-- Words of R56. -/
theorem test_decode_lane_short_2 : ∀ x ∈ ([
    (0b00_100000_110_1101001_1010110_0010111, 0, .hadd2 6 105 86 23),
    (0b00_100001_111_1101000_1010111_0011000, 0, .hmul2 7 104 87 24),
    (0b00_100010_000_1100111_1011000_0011001, 0, .hmax2 0 103 88 25),
    (0b00_100101_001_1100110_1011001_0011010, 0, .pkbf 1 102 89 26),
    (0b00_101000_010_1100101_1011010_0011011, 0, .sel 2 101 90 27),
    (0b00_010010_111_0000001_1111110_0000000, 0, .popc 7 1 126),
    (0b00_010011_110_0000010_1111101_0000000, 0, .clz 6 2 125),
    (0b00_010100_101_0000011_1111100_0000000, 0, .brev 5 3 124),
    (0b00_010101_100_0000100_1111011_0000000, 0, .mov 4 4 123),
    (0b00_011011_011_0000101_1111010_0000000, 0, .frcp 3 5 122),
    (0b00_011100_010_0000110_1111001_0000000, 0, .frsq 2 6 121),
    (0b00_011101_001_0000111_1111000_0000000, 0, .fsqrt 1 7 120),
    (0b00_011110_000_0001000_1110111_0000000, 0, .fexp2 0 8 119),
    (0b00_011111_111_0001001_1110110_0000000, 0, .flog2 7 9 118),
    (0b00_100011_110_0001010_1110101_0000000, 0, .cvtif 6 10 117),
    (0b00_100100_101_0001011_1110100_0000000, 0, .cvtfi 5 11 116),
    (0b00_100110_100_0001100_1110011_0000000, 0, .upbfl 4 12 115),
    (0b00_100111_011_0001101_1110010_0000000, 0, .upbfh 3 13 114),
    (0b00_101010_010_0001110_1110001_0000000, 0, .fabs 2 14 113),
    (0b00_101011_001_0001111_1110000_0000000, 0, .fneg 1 15 112),
    (0b00_101001_101_1011010_0000000_0000000, 0, .lane 5 90)] : List (Word × Word × Instr)), decodeWords x.1 x.2.1 = .ok x.2.2 := by decide +kernel

/-- Words of R57 to R59. -/
theorem test_decode_lane_long_1 : ∀ x ∈ ([
    (0b01_0000000001_111_0_0000011_0000100_00, 0x80000001, .iaddi ⟨7, false⟩ 3 4 0x80000001),
    (0b01_0000000010_001_1_1111111_0000000_00, 0xDEADBEEF, .limm ⟨1, true⟩ 127 0xDEADBEEF),
    (0b01_0000000011_010_0_0000100_0000101_00, 0b0000110_0001000_0000_0110_000000000_1, .imad ⟨2, false⟩ 4 5 6 8 .n32 true),
    (0b01_0000000100_011_1_0000100_0000101_00, 0b0000110_0000111_0000_0111_00000000_1_0, .ffma ⟨3, true⟩ 4 5 6 7 true false true),
    (0b01_0000000101_011_0_0000100_0000101_00, 0b0000110_0000111_0000_1000_00000000_0_1, .hfma2 ⟨3, false⟩ 4 5 6 7 true true false),
    (0b01_0000000110_111_0_0000000_0000101_00, 0b0000110_0000000_0000_0011_00_01_010_010, .icmp ⟨7, false⟩ 2 5 6 .i32 .lt .and),
    (0b01_0000000111_111_0_0000000_0000101_00, 0b0000110_0000000_0000_0111_00_10_110_110, .fcmp ⟨7, false⟩ 6 5 6 true .un .or),
    (0b01_0000001000_111_0_0000001_0000010_00, 0b0000000_0000000_0000_0011_00111_11000, .bfx ⟨7, false⟩ 1 2 .i32 24 7),
    (0b01_0000001001_111_0_0000001_0000010_00, 0b0000011_0000000_0000_0000_00011_11100, .bfi ⟨7, false⟩ 1 2 3 28 3),
    (0b01_0000001010_111_0_0000001_0000010_00, 0b0000011_0000000_1001_0110_0000000000, .idiv ⟨7, false⟩ 1 2 3 .n32 9),
    (0b01_0000001011_111_0_0000001_0000010_00, 0b0000011_0000000_1111_0011_0000000000, .irem ⟨7, false⟩ 1 2 3 .i32 15),
    (0b01_0000001100_111_0_0001010_0000000_00, 0b100001_1000001_0000_011_00_1111111111, .lea ⟨7, false⟩ 10 33 65 .d 0x3FF),
    (0b01_0000001101_111_0_0000001_0000010_00, 0b0000000_0000000_0000_0001_00000_1_1001, .cvt ⟨7, false⟩ 1 2 .i8 .f16 true),
    (0b01_0000001110_111_0_0000001_0000000_00, 0b0000010_1100100_0000_0000_0000000_100, .tidx ⟨7, false⟩ 1 4 2 100),
    (0b01_0000001111_111_0_0000001_0000010_00, 0b0000011_0000000_0000_0111_0000000000, .urand ⟨7, false⟩ 1 2 3 true),
    (0b01_0000010000_111_0_0000001_0000010_00, 0b0000000_0000000_0000_0000_000_11111_10, .shfi ⟨7, false⟩ 1 2 .sar 31),
    (0b01_0000010001_111_0_0000001_0000010_00, 0b0000011_0000100_0000_0000_00_10010110, .logi ⟨7, false⟩ 1 2 3 4 0x96),
    (0b01_0000100000_111_0_0001000_0001001_00, 0b0000000_0000000_0000_0000_0_100001_1_01, .shfl ⟨7, false⟩ 8 9 0 .up true 33),
    (0b01_0000100001_111_0_0001000_0001001_00, 0b0000000_0000000_0000_0000_0000_1_101_01, .vote ⟨7, false⟩ 8 9 .any 5 true),
    (0b01_0000100010_111_0_0001000_0001001_00, 0b0000000_0000000_0000_0000_000000_1010, .redl ⟨7, false⟩ 8 9 .fmax),
    (0b01_0000100011_111_0_0001000_0001001_00, 0b0000000_0000000_0000_0000_00000_1_0100, .scanl ⟨7, false⟩ 8 9 .umax true),
    (0b01_0000100100_111_0_0001000_0001001_00, 0b0000000_0000000_0000_0000_00_0_0111111, .bcast ⟨7, false⟩ 8 9 63 false)] : List (Word × Word × Instr)), decodeWords x.1 x.2.1 = .ok x.2.2 := by decide +kernel

/-- Words of R57 to R59. -/
theorem test_decode_lane_long_2 : ∀ x ∈ ([
    (0b01_0000110000_000_1_0000000_0000000_00, 0xFFFFFFF0, .br ⟨0, true⟩ 0xFFFFFFF0),
    (0b01_0000110001_111_0_0000000_1001101_00, 0, .brx ⟨7, false⟩ 77),
    (0b01_0000110010_111_0_0000000_0000000_00, 0x00000040, .call ⟨7, false⟩ 0x40),
    (0b01_0001000000_111_0_0001000_0000000_00, 0b010000_0001001_1111_100_10_1000000000, .ld ⟨7, false⟩ 8 16 9 15 .q .nl 0x200),
    (0b01_0001000001_111_0_0001001_0000000_00, 0b010000_0001010_0000_000_01_0000000101, .st ⟨7, false⟩ 9 16 10 .b .nc 5),
    (0b01_0001000010_111_0_0000110_0000000_00, 0b010001_0001001_0011_011_00_0000000001, .lds ⟨7, false⟩ 6 17 9 3 .d 1),
    (0b01_0001000011_111_0_0000111_0000000_00, 0b010001_0001001_0000_001_00_0000000010, .sts ⟨7, false⟩ 7 17 9 .h 2),
    (0b01_0001000100_111_0_0000110_0001000_00, 0b010010_0001010_0010_011_1001_100_00000, .atom ⟨7, false⟩ 6 8 18 10 2 .d .cas .device),
    (0b01_0001000101_111_0_0000000_0001000_00, 0b010010_0001010_0000_010_1010_101_00000, .red ⟨7, false⟩ 8 18 10 .w .fadd .system),
    (0b01_0001000110_111_0_0000110_0001000_00, 0b010010_0001010_0001_011_1000_001_00000, .atoms ⟨7, false⟩ 6 8 18 10 1 .d .xchg .team),
    (0b01_0001000111_111_0_0000000_0000000_00, 0b010010_0001010_0000_010_01_0111111111, .pf ⟨7, false⟩ 18 10 .w .nc 0x1FF),
    (0b01_0001010000_111_0_0001100_0000000_00, 0x00000020, .refill ⟨7, false⟩ 12 0x20)] : List (Word × Word × Instr)), decodeWords x.1 x.2.1 = .ok x.2.2 := by decide +kernel

/-- Words of R60. -/
theorem test_decode_uniform_short_1 : ∀ x ∈ ([
    (0b10_000000_11_000000_000000_000000_0000, 0, .nop 3),
    (0b10_000001_00_111111_010100_000001_0000, 0, .sadd 0 63 20 1),
    (0b10_000010_01_111110_010101_000010_0000, 0, .ssub 1 62 21 2),
    (0b10_000011_10_111101_010110_000011_0000, 0, .smul 2 61 22 3),
    (0b10_000100_11_111100_010111_000100_0000, 0, .sand 3 60 23 4),
    (0b10_000101_00_111011_011000_000101_0000, 0, .sor 0 59 24 5),
    (0b10_000110_01_111010_011001_000110_0000, 0, .sxor 1 58 25 6),
    (0b10_000111_10_111001_011010_000111_0000, 0, .sshl 2 57 26 7),
    (0b10_001000_11_111000_011011_001000_0000, 0, .sshr 3 56 27 8),
    (0b10_001001_00_110111_011100_001001_0000, 0, .ssar 0 55 28 9),
    (0b10_001010_01_000010_000011_000000_0000, 0, .smov 1 2 3),
    (0b10_001011_01_000010_000011_000100_0001, 0, .smin 1 2 3 4 true),
    (0b10_001100_01_000010_000011_000100_0000, 0, .smax 1 2 3 4 false),
    (0b10_001101_11_101110_000011_000100_0000, 0, .scmp 3 2 3 4 .le true),
    (0b10_001110_11_000000_001100_000000_0001, 0, .twait 3 12 true),
    (0b10_001111_11_000101_001100_000000_0010, 0, .ttest 3 5 12 2),
    (0b10_010000_11_001011_000000_000000_0000, 0, .join 3 11),
    (0b10_010001_10_000111_000000_000000_0000, 0, .leave 2 7),
    (0b10_010010_11_000100_000000_000000_0001, 0, .waitm 3 4 true),
    (0b10_010011_01_000000_000000_000000_0000, 0, .yield 1),
    (0b10_010100_01_000000_000000_000000_0000, 0, .exit 1),
    (0b10_010101_01_000000_000000_000000_0000, 0, .ret 1)] : List (Word × Word × Instr)), decodeWords x.1 x.2.1 = .ok x.2.2 := by decide +kernel

/-- Words of R60. -/
theorem test_decode_uniform_short_2 : ∀ x ∈ ([
    (0b10_010110_11_000000_000000_000000_0001, 0, .eret 3 true),
    (0b10_010111_11_000000_000000_000000_1001, 0, .bkpt 3 9),
    (0b10_011000_11_000000_100001_000000_1110, 0, .trap 3 33 14),
    (0b10_011001_11_000000_100010_000000_1101, 0, .cpermit 3 34 13)] : List (Word × Word × Instr)), decodeWords x.1 x.2.1 = .ok x.2.2 := by decide +kernel

/-- Words of R61. -/
theorem test_decode_uniform_long_1 : ∀ x ∈ ([
    (0b11_0000000001_01_1_000010_000011_00000, 0xFFFFFFFF, .saddi ⟨1, true⟩ 2 3 0xFFFFFFFF),
    (0b11_0000000010_11_0_111111_000000_00000, 0x12345678, .sli ⟨3, false⟩ 63 0x12345678),
    (0b11_0000000011_11_0_000100_010000_00000, 0b010001_000000_1111_011_01_10000000000, .sld ⟨3, false⟩ 4 16 17 15 .d .nc 0x400),
    (0b11_0000000100_11_0_000101_010000_00000, 0b010001_000000_0000_001_10_00000000011, .sst ⟨3, false⟩ 5 16 17 .h .nl 3),
    (0b11_0000000101_00_1_000000_000000_00000, 0xFFFFFFFC, .bra ⟨0, true⟩ 0xFFFFFFFC),
    (0b11_0000000110_11_0_001001_000000_00000, 0x00000008, .brc ⟨3, false⟩ 9 8),
    (0b11_0000000111_11_0_000000_000000_00000, 0x00000010, .callu ⟨3, false⟩ 16),
    (0b11_0000001000_11_0_000000_001010_00000, 0, .jmpu ⟨3, false⟩ 10),
    (0b11_0000001001_11_0_001000_000000_00000, 0b000000_000000_0000_000_1_000000010000, .sysrd ⟨3, false⟩ 8 0x010 true),
    (0b11_0000001010_11_0_000000_001000_00000, 0b000000_000000_0000_0000_000000011100, .syswr ⟨3, false⟩ 8 0x01C),
    (0b11_0000001011_11_0_000110_000000_00000, 0b000000_000000_0000_0_0_0111111_1100100, .rdlane ⟨3, false⟩ 6 100 63 false),
    (0b11_0000001100_11_0_000110_000000_00000, 0b000000_000000_0000_000000000000_1011, .mget ⟨3, false⟩ 6 11),
    (0b11_0000001101_11_0_000000_000110_00000, 0b000000_000000_0000_000000000000_1010, .mset ⟨3, false⟩ 6 10),
    (0b11_0000001110_11_0_000101_100000_00000, 0x00000100, .break ⟨3, false⟩ 0b100000000101 0x100),
    (0b11_0000001111_11_0_010101_000100_00000, 0x00000064, .scmpi ⟨3, false⟩ 1 4 .ge false 100),
    (0b11_0000100000_11_0_000000_000000_00000, 0b000000_000000_0000_000_1_0_100_0_1000001, .fence ⟨3, false⟩ 0b1000001 .device false true),
    (0b11_0000100001_11_0_000000_010000_00000, 0b010001_010010_0000_00000000000000_01, .bari ⟨3, false⟩ 16 17 18 .cluster),
    (0b11_0000100010_11_0_001000_010000_00000, 0b010001_000000_0000_00_111111111111_10, .bara ⟨3, false⟩ 8 16 17 0 .device 4095),
    (0b11_0000100011_11_0_001001_010000_00000, 0b010001_001000_0000_0000000_11111_01_00, .barw ⟨3, false⟩ 9 16 17 8 .team 1 31),
    (0b11_0000100100_11_0_000000_010000_00000, 0b010001_010100_0000_0000000_0000011_1_1, .sigadd ⟨3, false⟩ 16 17 20 true true 0b11),
    (0b11_0000100101_11_0_001010_010000_00000, 0b010001_010100_0000_000000000_11110_10, .sigwait ⟨3, false⟩ 10 16 17 20 2 30),
    (0b11_0000110000_11_0_000000_010000_00000, 0b010001_010010_0000_01_11000000000000, .stmap ⟨3, false⟩ 16 17 18 12288 .ro)] : List (Word × Word × Instr)), decodeWords x.1 x.2.1 = .ok x.2.2 := by decide +kernel

/-- Words of R61. -/
theorem test_decode_uniform_long_2 : ∀ x ∈ ([
    (0b11_0000110001_11_0_000000_010000_00000, 0b000000_000000_0000_000000000000000_1, .stunmap ⟨3, false⟩ 16 true),
    (0b11_0000110010_11_0_000100_010000_00000, 0b010001_000000_0000_00000000000000_1_0, .stflush ⟨3, false⟩ 4 16 17 false true),
    (0b11_0001000000_11_0_000100_110000_00000, 0, .cpy ⟨3, false⟩ 4 48),
    (0b11_0001000001_11_0_000100_010000_00000, 0b010010_010100_0000_0000000000000_100, .gath ⟨3, false⟩ 4 16 18 20 .q),
    (0b11_0001000010_11_0_000100_010000_00000, 0b010010_010100_0000_0000000000_001_011, .scat ⟨3, false⟩ 4 16 18 20 .d .add),
    (0b11_0001000011_11_0_000100_010000_00000, 0b010100_010110_0000_000000000000000_1, .sinter ⟨3, false⟩ 4 16 20 22 true),
    (0b11_0001000100_11_0_000100_010000_00000, 0b010001_010010_0000_000000000000_1_101, .mdec ⟨3, false⟩ 4 16 17 18 5 true),
    (0b11_0001000101_11_0_000100_010000_00000, 0b010001_000000_0000_10100101_00000_110, .millld ⟨3, false⟩ 4 16 17 6 0xA5),
    (0b11_0001000110_11_0_000100_010000_00000, 0b000000_000000_0000_00000000000_0_1_010, .millbind ⟨3, false⟩ 4 16 2 true false),
    (0b11_0001000111_11_0_000100_010000_00000, 0b010001_000000_0000_000000000000_1_011, .millstat ⟨3, false⟩ 4 16 17 3 true),
    (0b11_0001010000_11_0_000100_010000_00000, 0b010010_010100_0000_000000000000000_1, .qscale ⟨3, false⟩ 4 16 18 20 true),
    (0b11_0001010001_11_0_000100_010000_00000, 0b010010_000000_0000_000000000000000_0, .qsplit ⟨3, false⟩ 4 16 18 false),
    (0b11_0001010010_11_0_000100_010000_00000, 0b010010_000000_0000_00000000000_1_1000, .qdeq ⟨3, false⟩ 4 16 18 8 true),
    (0b11_0001010011_11_0_000100_010000_00000, 0b011000_000000_0000_000000000000_1_0_11, .mmb ⟨3, false⟩ 4 16 24 3 false true),
    (0b11_0001010100_11_0_000100_010000_00000, 0b000000_000000_0000_000000000000_0_0_10, .mout ⟨3, false⟩ 4 16 0 2 false),
    (0b11_0001010101_11_0_000100_000000_00000, 0b000000_000000_0000_000000000_11111_01, .mjoin ⟨3, false⟩ 4 1 31),
    (0b11_0001010110_11_0_000100_010000_00000, 0b011000_011100_0000_0000000_1_0_10_10001, .mloop ⟨3, false⟩ 4 16 24 28 17 2 false true),
    (0b11_0001010111_11_0_000000_000000_00000, 0b000000_000000_0000_00000000000_01001, .czero ⟨3, false⟩ 9),
    (0b11_0001011000_11_0_000100_010000_00000, 0b010001_000000_0000_0000000000_1_01001, .cld ⟨3, false⟩ 4 16 17 9 true),
    (0b11_0001011001_11_0_000100_010000_00000, 0b010001_000000_0000_000000000_1_0_01001, .cst ⟨3, false⟩ 4 16 17 9 false true),
    (0b11_0001011010_11_0_000100_000000_00000, 0b000000_000000_0000_0000000000_1_01001, .cstat ⟨3, false⟩ 4 9 true),
    (0b11_0001100000_11_0_000100_010000_00000, 0b010100_010110_0000_000000000000_11_1_0, .put ⟨3, false⟩ 4 16 20 22 false true 3)] : List (Word × Word × Instr)), decodeWords x.1 x.2.1 = .ok x.2.2 := by decide +kernel

/-- Words of R61. -/
theorem test_decode_uniform_long_3 : ∀ x ∈ ([
    (0b11_0001100001_11_0_000100_010000_00000, 0b010100_000000_0000_000000000000_01_0_1, .get ⟨3, false⟩ 4 16 20 0 true false 1),
    (0b11_0001100010_11_0_000100_010000_00000, 0b010100_000000_0000_100101_1_0_00_0_0_1010, .putred ⟨3, false⟩ 4 16 20 0 .fadd false false 0 false true 37),
    (0b11_0001100011_11_0_000100_010000_00000, 0b010100_000000_0000_0000000000_000011, .mcst ⟨3, false⟩ 4 16 20 3),
    (0b11_0001100100_11_0_000100_000000_00000, 0b000000_000000_0000_0000000_101_111111, .circrd ⟨3, false⟩ 4 63 5),
    (0b11_0001100101_11_0_000000_010000_00000, 0b010001_010010_0000_0000000000000000, .trigset ⟨3, false⟩ 16 17 18),
    (0b11_0001100110_11_0_000100_010000_00000, 0b000000_000000_0000_000000000000000_1, .trigclr ⟨3, false⟩ 4 16 true),
    (0b11_0001110000_11_0_000000_100000_00000, 0, .spawn ⟨3, false⟩ 32),
    (0b11_0001110001_11_0_000100_010000_00000, 0b010001_000000_0000_000000000000000_1, .iqfill ⟨3, false⟩ 4 16 17 true),
    (0b11_0001110010_11_0_000000_010000_00000, 0b010010_000000_0000_0000000000000000, .timeat ⟨3, false⟩ 16 18),
    (0b11_0001110011_11_0_000000_000000_00000, 0x000003E8, .nap ⟨3, false⟩ 1000),
    (0b11_0010000000_11_0_000100_000000_00000, 0b000000_000000_0000_0000000000000_111, .perfrd ⟨3, false⟩ 4 7)] : List (Word × Word × Instr)), decodeWords x.1 x.2.1 = .ok x.2.2 := by decide +kernel

/-- The words that the manual prints beside their instructions: the worked encodings of chapters "The instruction set: base",
"Registers to results" and "Who sees what, when", and the words it gives for SPAWN, ERET, BKPT and TRAP with an operand added. -/
theorem test_decode_printed_words : ∀ x ∈ ([
    (0x81C31050, 0, .sadd 3 3 4 5),
    (0xC09C4000, 0x00001010, .sysrd ⟨3, false⟩ 8 0x010 true),
    (0x80C00000, 0, .nop 3),
    (0x404E0814, 0x0C1C1C00, .ffma ⟨7, false⟩ 4 5 6 7 true false false),
    (0x420E1024, 0x0000000F, .shfl ⟨7, false⟩ 8 9 0 .xor true 1),
    (0x406E0014, 0x0C000C12, .icmp ⟨7, false⟩ 2 5 6 .i32 .lt .set),
    (0xC0FCA880, 0x00000064, .scmpi ⟨3, false⟩ 1 4 .ge false 100),
    (0xC20C0000, 0x00000C03, .fence ⟨3, false⟩ 3 .device true false),
    (0xC20C0000, 0x00001801, .fence ⟨3, false⟩ 1 .gang true true),
    (0xC70C0400, 0, .spawn ⟨3, false⟩ 32),
    (0x96C00001, 0, .eret 3 true),
    (0x97C0000A, 0, .bkpt 3 10),
    (0x98C0840A, 0, .trap 3 33 10)] : List (Word × Word × Instr)), decodeWords x.1 x.2.1 = .ok x.2.2 := by decide +kernel

/-! ## Well-formedness: for each check, a term it refuses. -/

/-- Terms that an encoding rule refuses (R48, R49, R58, R59, R65 and the rules of each instruction). -/
theorem test_ill_formed_1 : ∀ i ∈ ([
    .imad ⟨7, false⟩ 5 1 2 4 .i32 true,
    .imad ⟨7, false⟩ 4 1 2 5 .i32 true,
    .imad ⟨7, false⟩ 4 1 2 6 .none true,
    .bfx ⟨7, false⟩ 1 2 .i32 1 31,
    .bfi ⟨7, false⟩ 1 2 3 31 1,
    .lea ⟨7, false⟩ 3 0 0 .w 0,
    .cvt ⟨7, false⟩ 1 2 .f32 .i32 true,
    .cvt ⟨7, false⟩ 1 2 .f16 .f32 true,
    .tidx ⟨7, false⟩ 1 0 1 0,
    .tidx ⟨7, false⟩ 1 6 0 1,
    .shfl ⟨7, false⟩ 1 2 3 .idx true 0,
    .shfl ⟨7, false⟩ 1 2 3 .idx false 1,
    .shfl ⟨7, false⟩ 1 2 3 .up false 1,
    .vote ⟨7, false⟩ 2 1 .ballot 0 true,
    .vote ⟨7, false⟩ 3 1 .ballot 0 false,
    .vote ⟨7, false⟩ 2 1 .all 1 false,
    .bcast ⟨7, false⟩ 1 2 64 false,
    .bcast ⟨7, false⟩ 1 2 1 true,
    .br ⟨7, false⟩ 2,
    .call ⟨7, false⟩ 6,
    .refill ⟨7, false⟩ 1 1,
    .ld ⟨7, false⟩ 2 0 0 0 .q .none 0,
    .st ⟨7, false⟩ 1 0 0 .d .none 0,
    .lds ⟨7, false⟩ 1 0 0 0 .d 0,
    .sts ⟨7, false⟩ 6 0 0 .q 0,
    .atom ⟨7, false⟩ 0 2 0 0 0 .b .add .gang,
    .atom ⟨7, false⟩ 1 2 0 0 0 .d .add .gang,
    .atom ⟨7, false⟩ 2 1 0 0 0 .d .add .gang,
    .red ⟨7, false⟩ 1 0 0 .w .cas .gang,
    .red ⟨7, false⟩ 1 0 0 .w .xchg .gang,
    .red ⟨7, false⟩ 2 0 0 .d .fadd .gang,
    .red ⟨7, false⟩ 1 0 0 .d .add .gang,
    .atoms ⟨7, false⟩ 0 2 0 0 0 .w .add .device,
    .atoms ⟨7, false⟩ 0 2 0 0 0 .h .add .team,
    .ttest 3 4 4 0,
    .join 3 12,
    .leave 3 15,
    .waitm 3 13 false,
    .sld ⟨3, false⟩ 4 0 0 0 .q .none 0,
    .sld ⟨3, false⟩ 5 0 0 0 .d .none 0] : List Instr), i.wf = false := by decide +kernel

/-- Terms that an encoding rule refuses (R48, R49, R58, R59, R65 and the rules of each instruction). -/
theorem test_ill_formed_2 : ∀ i ∈ ([
    .sst ⟨3, false⟩ 5 0 0 .d .none 0,
    .bra ⟨3, false⟩ 3,
    .brc ⟨3, false⟩ 1 2,
    .callu ⟨3, false⟩ 2,
    .sysrd ⟨3, false⟩ 4 0x00B false,
    .sysrd ⟨3, false⟩ 4 0x011 true,
    .sysrd ⟨3, false⟩ 5 0x010 true,
    .syswr ⟨3, false⟩ 4 0xFFF,
    .rdlane ⟨3, false⟩ 1 2 64 false,
    .rdlane ⟨3, false⟩ 1 2 1 true,
    .mget ⟨3, false⟩ 4 12,
    .mget ⟨3, false⟩ 5 0,
    .mset ⟨3, false⟩ 4 12,
    .mset ⟨3, false⟩ 5 0,
    .break ⟨3, false⟩ 1 2,
    .fence ⟨3, false⟩ 0 .gang true true,
    .fence ⟨3, false⟩ 1 .gang false false,
    .bara ⟨3, false⟩ 1 2 3 4 .team 1,
    .sigadd ⟨3, false⟩ 1 2 3 true false 0,
    .sigadd ⟨3, false⟩ 1 2 4 true true 0,
    .sigadd ⟨3, false⟩ 1 2 4 true false 1,
    .sigwait ⟨3, false⟩ 5 1 2 4 0 0,
    .sigwait ⟨3, false⟩ 4 1 2 5 0 0,
    .stmap ⟨3, false⟩ 1 2 3 0 .rw,
    .stmap ⟨3, false⟩ 1 2 3 12289 .rw,
    .stflush ⟨3, false⟩ 1 2 0 true false,
    .stflush ⟨3, false⟩ 1 0 2 true false,
    .cpy ⟨3, false⟩ 1 8,
    .gath ⟨3, false⟩ 1 3 4 5 .w,
    .gath ⟨3, false⟩ 1 4 3 5 .w,
    .scat ⟨3, false⟩ 1 4 4 5 .h .add,
    .scat ⟨3, false⟩ 1 4 4 5 .d .fadd,
    .scat ⟨3, false⟩ 1 4 4 5 .q .hadd2,
    .scat ⟨3, false⟩ 1 3 4 5 .b .st,
    .sinter ⟨3, false⟩ 1 6 4 4 true,
    .sinter ⟨3, false⟩ 1 4 5 4 true,
    .sinter ⟨3, false⟩ 1 4 4 5 true,
    .mdec ⟨3, false⟩ 1 2 3 5 0 false,
    .qscale ⟨3, false⟩ 1 3 4 5 false,
    .qsplit ⟨3, false⟩ 1 4 3 false] : List Instr), i.wf = false := by decide +kernel

/-- Terms that an encoding rule refuses (R48, R49, R58, R59, R65 and the rules of each instruction). -/
theorem test_ill_formed_3 : ∀ i ∈ ([
    .qdeq ⟨3, false⟩ 1 4 4 1 false,
    .qdeq ⟨3, false⟩ 1 4 4 9 false,
    .qdeq ⟨3, false⟩ 1 3 4 2 false,
    .mmb ⟨3, false⟩ 1 4 0 0 false false,
    .mmb ⟨3, false⟩ 1 8 4 0 false false,
    .mmb ⟨3, false⟩ 1 8 2 0 false true,
    .mout ⟨3, false⟩ 1 12 0 0 false,
    .mout ⟨3, false⟩ 1 8 1 0 false,
    .mloop ⟨3, false⟩ 1 4 4 0 0 0 false false,
    .mloop ⟨3, false⟩ 1 8 2 0 0 0 false false,
    .mloop ⟨3, false⟩ 1 8 4 4 0 0 false false,
    .put ⟨3, false⟩ 1 2 3 4 false true 0,
    .put ⟨3, false⟩ 1 4 3 4 false false 0,
    .get ⟨3, false⟩ 1 4 3 5 false true 0,
    .putred ⟨3, false⟩ 1 4 2 0 .cas false false 0 false false 0,
    .putred ⟨3, false⟩ 1 4 2 0 .fadd true false 0 false false 0,
    .putred ⟨3, false⟩ 1 4 2 0 .add false false 0 false false 1,
    .putred ⟨3, false⟩ 1 4 2 0 .add false false 1 false true 1,
    .putred ⟨3, false⟩ 1 4 2 4 .add false true 0 false true 1,
    .mcst ⟨3, false⟩ 1 3 2 0,
    .mcst ⟨3, false⟩ 1 2 3 0,
    .circrd ⟨3, false⟩ 3 0 0,
    .spawn ⟨3, false⟩ 8,
    .timeat ⟨3, false⟩ 1 2,
    .timeat ⟨3, false⟩ 2 1,
    .perfrd ⟨3, false⟩ 3 0] : List Instr), i.wf = false := by decide +kernel

/-- What a field that must be zero does, an unassigned opcode, the all-zero word and a cut word (R62, R63, R65). -/
theorem test_decode_refuses :
    decodeWords 0 0 = .error .illegalOpcode ∧ decodeWords 0x2C000000 0 = .error .illegalOpcode ∧
    decodeWords 0x9AC00000 0 = .error .illegalOpcode ∧ decodeWords 0x401E0814 0 = .ok (.iaddi ⟨7, false⟩ 4 5 0) ∧
    decodeWords 0x401E0815 0 = .error .reservedField ∧ decodeWords 0x12E08101 0 = .error .reservedField ∧
    decodeWords 0xC09C4000 0x00011010 = .error .reservedField ∧ decodeBytes [0x14, 0x08, 0x1E, 0x40, 0] = .error .truncated := by decide +kernel

/-- The clauses of the statements about reductions and reciprocals have operands (R221, R209). -/
theorem witness_reductions : ([0, 63] : List Nat).Nodup ∧ (∀ l ∈ [0, 63], l < 64) ∧ fp32.read 0x40000000 = .fin false (2 ^ 23) (-22) := by
  decide +kernel

/-- Words with false guards whose encoding checks fail (R67): g0 and z0 are zero. -/
theorem witness_false_guard_checks :
    (let i := Instr.call ⟨0, false⟩ 6; let s := held base
      i.isCode = true ∧ s.windowWait 0 (issuing i issue0 s) i = false ∧ (at' i issue0 s).exec = [] ∧ i.wf = false) ∧
    (let i := Instr.mov 0 16 15; let s := held (withCtx base fun c => { c with grids := [(0, { grid with record := smallRecord })] })
      s.windowWait 0 (issuing i issue0 s) i = false ∧ (at' i issue0 s).exec = [] ∧ i.wf = true ∧ s.fits 0 i = false) ∧
    (let i := Instr.eret 0 false; let s := held base
      s.windowWait 0 (issuing i issue0 s) i = false ∧ (at' i issue0 s).exec = [] ∧ i.wf = true ∧ s.fits 0 i = true ∧
      privileged i = true ∧ (Claims.gang issue0 s).hmode = false) ∧
    (let i := Instr.mov 0 5 4; let s := held (window 3 base)
      s.windowWait 0 (issuing i issue0 s) i = false ∧ (at' i issue0 s).exec = [] ∧ i.wf = true ∧ s.fits 0 i = true ∧
      privileged i = false ∧ s.hazards 0 (issuing i issue0 s) i ≠ 0) := by decide +kernel

end Sys2Proof.Tests
end

section
/-! The lane-short layout of R56, read by the decoder. -/

namespace Sys2Proof.Machine

open Sys2Proof Claims

/-- A lane-short word written out field by field (R56). -/
def laneShortWord (op : BitVec 6) (g : GReg) (d a b : VReg) : Word :=
  0b00#2 ++ op ++ BitVec.ofFin (w := 3) g ++ BitVec.ofFin (w := 7) d ++ BitVec.ofFin (w := 7) a ++ BitVec.ofFin (w := 7) b

theorem toNat_append_eq_add {m n : Nat} (x : BitVec m) (y : BitVec n) : (x ++ y).toNat = x.toNat * 2 ^ n + y.toNat := by
  rw [BitVec.toNat_append, ← Nat.shiftLeft_add_eq_or_of_lt y.isLt, Nat.shiftLeft_eq]

/-- The fields side by side are the number the encoder makes. -/
theorem laneShortWord_toNat (op : BitVec 6) (g : GReg) (d a b : VReg) :
    (laneShortWord op g d a b).toNat = encLS op.toNat g d a b := by
  simp only [laneShortWord, toNat_append_eq_add, BitVec.toNat_ofFin, BitVec.toNat_ofNat, encLS]
  omega

section Fields

variable (op : Nat) (g : GReg) (d a b : VReg)

theorem gF_encLS : gF (encLS op g d a b) 21 = g := by
  apply Fin.ext
  simp only [gF, encLS, Fin.val_ofNat]
  omega

theorem vF_encLS_dest : vF (encLS op g d a b) 14 = d := by
  apply Fin.ext
  simp only [vF, encLS, Fin.val_ofNat]
  omega

theorem vF_encLS_first : vF (encLS op g d a b) 7 = a := by
  apply Fin.ext
  simp only [vF, encLS, Fin.val_ofNat]
  omega

theorem vF_encLS_second : vF (encLS op g d a b) 0 = b := by
  apply Fin.ext
  simp only [vF, encLS, Fin.val_ofNat]
  omega

variable {op}

theorem fld_encLS_op (h : op < 64) : fld (encLS op g d a b) 24 6 = op := by
  simp only [fld, encLS]
  omega

theorem fld_encLS_set (h : op < 64) : fld (encLS op g d a b) 30 2 = 0 := by
  simp only [fld, encLS]
  omega

end Fields

/-- Bits [31:30] zero say that a word is lane-short (R54 to R56). -/
theorem parse_laneShort {w x : Nat} (h : fld w 30 2 = 0) : parse w x = parseLS w := by simp only [parse, h]

/-- The row of an opcode in the lane-short set (R63), at some fields: the opcode is not that of the all-zero word, the decoder reads `mk`
from the words that have it, and of these fields `mk` makes an admitted instruction that encodes to them again (R65). -/
structure LaneShortRow (op : BitVec 6) (mk : GReg → VReg → VReg → VReg → Instr) (g : GReg) (d a b : VReg) : Prop where
  nonzero : op ≠ 0
  parses : ∀ w, fld w 24 6 = op.toNat → parseLS w = .ok (mk (gF w 21) (vF w 14) (vF w 7) (vF w 0))
  encodes : (mk g d a b).encodeNat = (encLS op.toNat g d a b, 0)
  wf : (mk g d a b).wf = true

/-- A lane-short word decodes to its row's instruction. -/
theorem decodeWords_laneShortWord {op : BitVec 6} {mk : GReg → VReg → VReg → VReg → Instr} {g : GReg} {d a b : VReg}
    (row : LaneShortRow op mk g d a b) : decodeWords (laneShortWord op g d a b) 0 = .ok (mk g d a b) := by
  have hlt : op.toNat < 64 := op.isLt
  have hshort : isLong (encLS op.toNat g d a b) = false :=
    Laws.EncodedLength.short_ls _ _ _ _ _ hlt d.isLt a.isLt b.isLt
  have hparse : parse (encLS op.toNat g d a b) 0 = .ok (mk g d a b) := by
    rw [parse_laneShort (fld_encLS_set _ _ _ _ hlt), row.parses _ (fld_encLS_op _ _ _ _ hlt), gF_encLS, vF_encLS_dest,
      vF_encLS_first, vF_encLS_second]
  have hzero : laneShortWord op g d a b ≠ 0#32 := by
    intro h0
    have hfld := fld_encLS_op g d a b hlt
    rw [← laneShortWord_toNat, h0] at hfld
    exact row.nonzero (BitVec.eq_of_toNat_eq (by simpa [fld] using hfld.symm))
  simp [decodeWords, hzero, laneShortWord_toNat, hshort, hparse, row.encodes, row.wf]

/-- SEL executes in every lane of its issuing set, as if guarded by g7 (R56). -/
theorem at'_exec_sel (g : GReg) (d a b : VReg) (c : Issue) (s : State) : (at' (.sel g d a b) c s).exec = laneList c.lanes := rfl

/-- Settles O4: each row of the lane-short set is read off the decoder, and the layout is undone field by field for all of them at once. -/
theorem laneShortWordsDecode : Obligations.LaneShortWordsDecode := by
  unfold Obligations.LaneShortWordsDecode
  refine ⟨fun x hx g d a b => ?_, fun x hx g d a => ?_, fun g d => ?_, at'_exec_sel⟩
  · have row : LaneShortRow x.1 x.2 g d a b := by
      fin_cases hx <;> exact ⟨by decide, fun w hw => by rw [parseLS, hw]; rfl, rfl, rfl⟩
    exact decodeWords_laneShortWord row
  · have row : LaneShortRow x.1 (fun g d a _ => x.2 g d a) g d a 0 := by
      fin_cases hx <;> exact ⟨by decide, fun w hw => by rw [parseLS, hw]; rfl, rfl, rfl⟩
    exact decodeWords_laneShortWord row
  · have row : LaneShortRow 0x29 (fun g d _ _ => .lane g d) g d 0 0 :=
      ⟨by decide, fun w hw => by rw [parseLS, hw]; rfl, rfl, rfl⟩
    exact decodeWords_laneShortWord row

end Sys2Proof.Machine
end

section
/-! The checks of R65 that a word's guard does not shut out, and what is left where the guard is false (R64, R67). -/

namespace Sys2Proof.Machine

open Sys2Proof Claims

/-- A check at issue raises its cause in the lanes m, with nothing of the word done (R65). -/
def raisedAtCheck (i : Instr) (c : Issue) (s : State) (m : Lanes) (cause : Nat) : State :=
  raised i c s { s with cur := none } { s with cur := none } m cause 0 0

/-! A word is issued to the slot in hand, past the windows that it must wait for. -/
section Checks

variable {i : Instr} {c : Issue} {s : State} (hcode : i.isCode = true) (hcur : s.cur = some c) (hfirst : c.again = false)
  (hwhole : whole i c s = true) (hwin : s.windowWait (key c) (issuing i c s) i = false)

include hcode hcur hfirst hwhole hwin

/-- The checks of R65 in their order, up to the operands: the encoding and the registers' budgets, the mode, the open windows. -/
theorem exec_checks : ∃ rest : State, exec i s = .next (
    if !i.wf || !s.fits (key c) i then
      raisedAtCheck i c s (issuing i c s) cRESERVED
    else if privileged i && !(Claims.gang c s).hmode then
      raisedAtCheck i c s (issuing i c s) cPRIVILEGED
    else if s.hazards (key c) (issuing i c s) i != 0 then
      raisedAtCheck i c s (s.hazards (key c) (issuing i c s) i) cLOOKAHEAD
    else rest) := by
  obtain ⟨body, hbody⟩ := exec_isCode hcode
  have hgathers : (reconverges i && issuing i c s != (Claims.gang c s).nonExited) = false := by
    rcases (Bool.or_eq_true _ _).mp hwhole with hr | hr
    · rw [(Bool.not_eq_true' _).mp hr, Bool.false_and]
    · rw [bne, hr, Bool.not_true, Bool.and_false]
  apply Exists.intro
  rw [hbody, issue, hcur]
  refine congrArg Host.Outcome.next ?_
  unfold issueAt
  change (if c.again then _ else if reconverges i && issuing i c s != (Claims.gang c s).nonExited then _
    else if s.windowWait (key c) (issuing i c s) i then _ else _) = _
  rw [hfirst, hgathers, hwin]
  rfl

theorem exec_reserved (h : i.wf = false ∨ s.fits (key c) i = false) :
    exec i s = .next (raisedAtCheck i c s (issuing i c s) cRESERVED) := by
  obtain ⟨rest, hexec⟩ := exec_checks hcode hcur hfirst hwhole hwin
  rw [hexec, if_pos (by simpa using h)]

theorem exec_privileged (hwf : i.wf = true) (hfits : s.fits (key c) i = true) (hpriv : privileged i = true)
    (hmode : (Claims.gang c s).hmode = false) :
    exec i s = .next (raisedAtCheck i c s (issuing i c s) cPRIVILEGED) := by
  obtain ⟨rest, hexec⟩ := exec_checks hcode hcur hfirst hwhole hwin
  rw [hexec, if_neg (by simp [hwf, hfits]), if_pos (by simp [hpriv, hmode])]

theorem exec_lookahead (hwf : i.wf = true) (hfits : s.fits (key c) i = true)
    (hmode : privileged i = true → (Claims.gang c s).hmode = true) (hhaz : s.hazards (key c) (issuing i c s) i ≠ 0) :
    exec i s = .next (raisedAtCheck i c s (s.hazards (key c) (issuing i c s) i) cLOOKAHEAD) := by
  obtain ⟨rest, hexec⟩ := exec_checks hcode hcur hfirst hwhole hwin
  rw [hexec, if_neg (by simp [hwf, hfits]), if_neg (by simpa using hmode), if_pos (by simpa using hhaz)]

end Checks

/-- The privileged words are ERET and SYSWR of a Handler register (R64, R52). -/
theorem privileged_iff (i : Instr) : privileged i = true ↔
    (∃ z skip, i = .eret z skip) ∨ ∃ u sa n, i = .syswr u sa n ∧ n.toNat ∈ handlerRegs := by
  unfold privileged
  split
  case h_1 z skip => simp
  case h_2 u sa n => simp
  case h_3 hne hns =>
    simp only [Bool.false_eq_true, false_iff, not_or, not_exists, not_and]
    exact ⟨fun z skip h => hne z skip h, fun u sa n h => (hns u sa n h).elim⟩

/-- No privileged word is a barrier, so none waits for its gang to reconverge (R64, R283). -/
theorem whole_of_privileged {i : Instr} (h : privileged i = true) (c : Issue) (s : State) : whole i c s = true := by
  rcases (privileged_iff i).1 h with ⟨z, skip, rfl⟩ | ⟨u, sa, n, rfl, -⟩
  · rfl
  · rfl

/-- Settles O23: the two cases of R64, and the check of R65 that they meet outside handler mode. -/
theorem privilegedWordsTrapInUserMode : Obligations.PrivilegedWordsTrapInUserMode := by
  unfold Obligations.PrivilegedWordsTrapInUserMode
  exact ⟨privileged_iff, fun i c s hcode hcur hfirst hwin hwf hfits hpriv hmode =>
    exec_privileged hcode hcur hfirst (whole_of_privileged hpriv c s) hwin hwf hfits hpriv hmode⟩

/-- An admitted word that no lane executes does no more than move its issuing set on (R67). -/
theorem exec_of_no_lanes {i : Instr} {c : Issue} {s : State} (hcode : i.isCode = true) (hadm : admitted i c s = true)
    (hnone : (at' i c s).exec = []) :
    exec i s = .next (settle c { s with cur := none } ((at' i c s).step { s with cur := none })) := by
  obtain ⟨body, hbody⟩ := exec_isCode hcode
  rw [hbody, issue_admitted hadm, hnone, List.isEmpty_nil, if_pos rfl, finish_done]

/-- Settles O24: with no executing lane only the step to the next offset is left, and the encoding checks come before the guard. -/
theorem falseGuardsOnlyAdvance : Obligations.FalseGuardsOnlyAdvance := by
  unfold Obligations.FalseGuardsOnlyAdvance
  refine ⟨fun i c s hcode hadm hnone => ⟨_, exec_of_no_lanes hcode hadm hnone, step_moved (at' i c s) { s with cur := none }⟩, ?_⟩
  intro i c s hcode hcur hfirst hwhole hwin _ raises
  exact ⟨exec_reserved hcode hcur hfirst hwhole hwin, exec_privileged hcode hcur hfirst hwhole hwin,
    exec_lookahead hcode hcur hfirst hwhole hwin⟩

end Sys2Proof.Machine
end
